-- ==== Sys2Proof/Word.lean ====
section
/-! DEFINITION. The words of the module: bytes, ECC words, op words, and the places units stand at
(spec 00 R3-R5, 01 R10-R21). -/

namespace Sys2Proof

/-- A byte of storage. -/
abbrev Byte := BitVec 8

/-- An ECC word: 32 bytes, byte 0 in bits [7:0] (R4; "ECC word" in 00_scope). -/
abbrev EccWord := BitVec 256

/-- An op word or route word: 128 bits (03 R74, 04 R116). -/
abbrev OpWord := BitVec 128

/-- An FP32 pattern (02 R37). -/
abbrev F32 := BitVec 32

/-- Wall time in units of 1/284,820 microsecond: one ac of every rate level is a whole number of
units (log 1). -/
abbrev Time := Nat

/-- A compute layer; its code is that of LAYER in R19 and R20. -/
inductive Layer where
  | c2 | c4 | c6
deriving DecidableEq, Repr

def Layer.code : Layer → Nat
  | .c2 => 1
  | .c4 => 2
  | .c6 => 3

/-- A column, by stack and position in the stack (R13, R14). -/
structure ColId where
  s : Fin 12
  x : Fin 18
  y : Fin 20
deriving DecidableEq, Repr

/-- A core, and the vault that it names (R14). -/
structure CoreId where
  s : Fin 12
  x : Fin 18
  y : Fin 20
  layer : Layer
deriving DecidableEq, Repr

/-- A power region, and the well it holds (R16, R17). -/
structure RegionId where
  s : Fin 12
  r : Fin 30
deriving DecidableEq, Repr

/-- A unit that runs a program: a core or a router (R75, R116). -/
inductive UnitId where
  | core (c : CoreId)
  | router (r : ColId)
deriving DecidableEq, Repr

/-- A sink of open routes: a vault or a well (R126). -/
inductive SinkId where
  | vault (c : CoreId)
  | well (w : RegionId)
deriving DecidableEq, Repr

/-- A router port; its code is that of Table 4.1. -/
inductive RPort where
  | n | e | s | w | l2 | l4 | l6 | aux
deriving DecidableEq, Repr

/-- A rate level (00 "Time and rate levels"). -/
inductive Level where
  | a | b | c | d | e
deriving DecidableEq, Repr

/-- A supply domain of a region (12 Table 12.1). -/
inductive Domain where
  | vlg | vmi | vma | vlk
deriving DecidableEq, Repr

end Sys2Proof
end

