-- ==== Sys2Proof/Syntax.lean ====
section
/-! DEFINITION. The commands of the module: one constructor for each row of spec/opcode_table.json,
with the data the step is given from outside. `t` is the instant at which a step happens (log 1);
steps that the schedule places carry none, because their place follows from the state. What the
physical world does to a step comes as operands: `bonds` of VREAD and VWRITE are the bonds that
carried a corrected symbol (R182), and those of ROUTER_FLIT_SWITCH stand beside its input; `upsets` of
BANK_REFRESH are the errors that stored words have met by then, and `found` of PATROL_SCRUB is the check state of the
word read (R186; log 27). -/

namespace Sys2Proof

/-- Who sent a dictionary request: a field-network client (its address and UDP port as one number)
with its transaction number (10 Table 10.2), or the host mirror with its exchange tag (R386). -/
inductive Source where
  | field (client : Nat) (txn : BitVec 16)
  | mirror (tag : BitVec 8)
deriving DecidableEq, Repr

/-- A flit of the ports as it arrives on a lane (09 Table 9.3), with what the FEC decoder found. -/
structure Flit where
  seq : BitVec 8
  ack : BitVec 8
  nak : Bool
  ftype : BitVec 2
  vc : BitVec 2
  sop : Bool
  eop : Bool
  cvc : BitVec 2
  ccount : BitVec 10
  reserved : BitVec 29 := 0
  payload : List Byte
  crc : BitVec 32
  fecOk : Bool
  fecCorrected : Nat
deriving DecidableEq, Repr

/-- The input at which a flit waits, and the bonds that carried a corrected symbol of it on its way through the
router, as core numbers and bonds (R182). -/
structure Crossing where
  port : RPort
  bonds : List (Nat × Nat) := []
deriving DecidableEq, Repr

/-- An ECC word of a vault, core SRAM or well, by address, or of an op store, by core and index of its earlier op word
(R73, R186). -/
inductive EccPlace where
  | word (addr : Nat)
  | opWords (c : CoreId) (idx : Nat)
deriving DecidableEq, Repr

/-- An error that a stored word has met (R186): what its next read finds (0 nothing, 1 an error that the code corrects,
2 one that it detects), and the data that the read delivers where three or more symbols are in error and the code
miscorrects them or sees nothing. -/
structure Upset where
  place : EccPlace
  state : BitVec 2
  data : Option (BitVec 256) := none
deriving DecidableEq, Repr

/-- How a training attempt ends (R336, R337). -/
inductive TrainEnd where
  | full | lowerHalf | upperHalf | failed
deriving DecidableEq, Repr

/-- One raw sensor sample (11 R406): sensor id of R406, reading in 0.01 degree, converter error. -/
structure Sample where
  id : Nat
  reading : Int
  bad : Bool
deriving DecidableEq, Repr

/-- The coolant samples of one instant (11 R423, R424): meter reading in 0.01 L/min, its error, the
two inlet and the two outlet sensors in 0.01 degree with their errors. -/
structure CoolantSample where
  meter : Int
  meterBad : Bool
  inlet : Sample
  inlet2 : Sample
  outlet : Sample
  outlet2 : Sample
deriving DecidableEq, Repr

/-- What the power controller measures over one millisecond (12 R446-R448): lowest pair voltage
(mV), input current (mA), input power (W), input energy (mJ), the 48 domain currents (mA) and the
power of each stack (W). -/
structure PowerSample where
  mV : Nat
  mA : Nat
  watts : Nat
  mJ : Nat
  domains : List Nat
  stackWatts : List Nat
deriving DecidableEq, Repr

/-- A unit found dead, lost or retired, as an offset in the floor plan and the unit byte to enter
(13 Tables 13.8, 13.10, 13.11). -/
structure Finding where
  offset : Nat
  state : BitVec 2
  cause : BitVec 4
deriving DecidableEq, Repr

/-- What a bring-up stage found (13 Tables 13.6, 13.7): besides its units, the phases that fail their switch tests at ST1, by
region * 4 + domain (R468), and the spare bonds that ST4 puts into use, by core (R181). -/
structure StageFindings where
  fatal : Bool
  detail : BitVec 16
  a : BitVec 32
  b : BitVec 32
  c : BitVec 32
  d : BitVec 32
  units : List Finding
  phases : List (Nat × Nat) := []
  spares : List (CoreId × Nat) := []
deriving DecidableEq, Repr

/-- Which datagram is dropped (10 R378, R379). -/
inductive DropWhy where
  | badChecksum | otherPort | queueFull
deriving DecidableEq, Repr

/-- What is wrong with a dictionary frame (10 R380). -/
inductive FrameFault where
  | malformed | version | response
deriving DecidableEq, Repr

/-- An instruction of the IEEE 1149.1 test port (14 R495). -/
inductive TestIr where
  | bypass | idcode | samplePreload | extest | priv (code : Nat)
deriving DecidableEq, Repr

/-- The commands. -/
inductive Instr where
  | nop (u : UnitId)
  | halt (u : UnitId)
  | loop (u : UnitId)
  | exitIf (u : UnitId)
  | stake (u : UnitId)
  | skip (u : UnitId)
  | aset (c : CoreId)
  | aadd (c : CoreId)
  | run (c : CoreId)
  | fload (c : CoreId)
  | drainToSram (c : CoreId)
  | drainToVreg (c : CoreId)
  | vadd (c : CoreId)
  | vsub (c : CoreId)
  | vmul (c : CoreId)
  | vfma (c : CoreId)
  | vaddi (c : CoreId)
  | vmuli (c : CoreId)
  | vmax (c : CoreId)
  | vmin (c : CoreId)
  | vsel (c : CoreId)
  | vmov (c : CoreId)
  | vrcp (c : CoreId)
  | vrsqrt (c : CoreId)
  | vexp (c : CoreId)
  | vexp2 (c : CoreId)
  | vlog2 (c : CoreId)
  | vdiv (c : CoreId)
  | vsqrt (c : CoreId)
  | vrsum (c : CoreId)
  | vrmax (c : CoreId)
  | vrot (c : CoreId)
  | vupd (c : CoreId)
  | vseed (c : CoreId)
  | vld (c : CoreId)
  | vst (c : CoreId)
  | vldb (c : CoreId)
  | vstb (c : CoreId)
  | vread (c : CoreId) (bonds : List Nat)
  | vwrite (c : CoreId) (bonds : List Nat)
  | msend (c : CoreId)
  | mrecv (c : CoreId)
  | wread (c : CoreId)
  | route (r : ColId)
  | routerFlitSwitch (r : ColId) (inp : Crossing)
  | wellDescriptorArrival (w : RegionId)
  | wellGroupRead (w : RegionId)
  | openFlitWrite (k : SinkId)
  | mv (c : CoreId) (bank : Fin 16)
  | attn (c : CoreId) (bank : Fin 16)
  | reduce (c : CoreId) (bank : Fin 16)
  | nbCommandEnd (c : CoreId) (bank : Fin 16)
  | heldBankAccess (c : CoreId) (bank : Fin 16)
  | bankRefresh (t : Time) (c : CoreId) (bank : Fin 16) (upsets : List Upset)
  | patrolScrub (t : Time) (addr : BitVec 56) (found : BitVec 2) (overtaken : Bool)
  | scrubIntervalEnd (t : Time)
  | strokeBoundary (missing : List CoreId)
  | programStrokeZero
  | rendezvousEvaluation
  | rendezvousRelease (rdv : BitVec 12)
  | rendezvousTimeout (rdv : BitVec 12)
  | stepDeadline
  | splitSelection (t : Time)
  | shiftRepairResume (t : Time) (alive : Bool) (laneReads : Bool)
  | programComplete
  | hostRead (t : Time) (tag : BitVec 8) (nwords : BitVec 8) (addr : BitVec 64) (bad : Bool)
  | hostWrite (t : Time) (tag : BitVec 8) (nwords : BitVec 8) (addr : BitVec 64) (bad : Bool) (data : List Byte)
  | hostWriteStamped (t : Time) (tag : BitVec 8) (nwords : BitVec 8) (addr : BitVec 64) (bad : Bool) (data : List Byte)
  | hostCompletionReceived (t : Time) (tag : BitVec 8) (status : BitVec 16) (data : List Byte)
  | hostRequestTimeout (t : Time) (tag : BitVec 8) (init : Bool) (wrote : List Bool)
  | copyHostToModule (t : Time) (src : Source) (ch : Fin 16) (data : List Byte)
  | copyModuleToHost (t : Time) (src : Source) (ch : Fin 16) (data : List Byte)
  | copyRequestEnd (t : Time) (ch : Fin 16)
  | dataFlitReceive (t : Time) (port : Fin 31) (lane : BitVec 5) (f : Flit)
  | fillFlitReceive (t : Time) (port : Fin 31) (lane : BitVec 5) (f : Flit)
  | nakReceive (t : Time) (port : Fin 31) (lane : BitVec 5) (ack : BitVec 8)
  | ackReceive (t : Time) (port : Fin 31) (lane : BitVec 5) (ack : BitVec 8)
  | ackSendTimer (t : Time) (port : Fin 31) (lane : BitVec 5)
  | replayTimeout (t : Time) (port : Fin 31) (lane : BitVec 5)
  | portRetrain (t : Time) (port : Fin 31) (lane : BitVec 5)
  | trainingAttemptEnd (t : Time) (port : Fin 31) (how : TrainEnd) (peerDelivered : BitVec 32)
  | linkId (t : Time) (port : Fin 31) (rank : BitVec 12) (peerPort : BitVec 5)
  | portPartnerTimeout (t : Time) (port : Fin 31)
  | auxFlitTake (r : ColId)
  | ready (t : Time) (port : Fin 31)
  | zeroRankTestEnd (t : Time) (crew : BitVec 8) (layer : BitVec 16)
  | chunk (t : Time) (port : Fin 31) (hdr : EccWord) (body : List EccWord)
  | trailer (t : Time) (port : Fin 31) (hdr : EccWord) (body : List EccWord)
  | epilogue (t : Time) (port : Fin 31) (hdr : EccWord) (body : List EccWord)
  | crewSeal (t : Time) (port : Fin 31) (hdr : EccWord) (body : List EccWord)
  | preamble (t : Time) (port : Fin 31) (hdr : EccWord) (body : List EccWord)
  | credit (t : Time) (port : Fin 31) (hdr : EccWord)
  | crewWaitDeadline (t : Time) (crew : BitVec 8) (layer : BitVec 16) (child : BitVec 12)
  | layerComplete (t : Time) (crew : BitVec 8) (layer : BitVec 16)
  | draw (t : Time) (port : Fin 31)
  | put (t : Time) (port : Fin 31)
  | commit (t : Time) (port : Fin 31)
  | spill (t : Time) (port : Fin 31)
  | fetch (t : Time) (port : Fin 31)
  | snap (t : Time) (port : Fin 31)
  | reply (t : Time) (port : Fin 31) (req : Nat) (status : BitVec 4) (data : List EccWord)
  | streamerRequestTimeout (t : Time) (req : Nat)
  | pageManagerTurn (t : Time) (tokens : List (BitVec 32))
  | roundStart (t : Time)
  | callEnd (t : Time)
  | prefetchArrival (t : Time) (handle : BitVec 48)
  | maskExpand (t : Time)
  | snapshotCopyEnd (t : Time) (ok : Bool)
  | dictRead (t : Time) (src : Source) (idx : BitVec 16) (sub : BitVec 8)
  | dictWrite (t : Time) (src : Source) (idx : BitVec 16) (sub : BitVec 8) (data : List Byte)
  | dictReadAll (t : Time) (src : Source) (idx : BitVec 16)
  | segRead (t : Time) (src : Source) (idx : BitVec 16) (sub : BitVec 8) (off : BitVec 32) (len : BitVec 16)
  | segWrite (t : Time) (src : Source) (idx : BitVec 16) (sub : BitVec 8) (off : BitVec 32) (last : Bool) (data : List Byte)
  | segAbort (t : Time) (src : Source) (idx : BitVec 16) (sub : BitVec 8)
  | segmentGapTimeout (t : Time) (client : Nat) (idx : BitVec 16) (sub : BitVec 8)
  | neighbourDiscovery (t : Time) (target : BitVec 128)
  | icmpv6Echo (t : Time) (dest : BitVec 128) (data : List Byte)
  | loadTrigger (t : Time) (src : Source) (data : List Byte)
  | loadEnd (t : Time)
  | programStart (t : Time) (src : Source) (data : List Byte)
  | startCheckEnd (t : Time)
  | abort (t : Time) (src : Source)
  | clear (t : Time) (src : Source)
  | unload (t : Time) (src : Source)
  | reset (t : Time) (src : Source) (data : List Byte)
  | eventFlagsClear (t : Time) (src : Source) (mask : List Byte) (setNow : BitVec 16)
  | runStage (t : Time) (src : Source) (data : List Byte)
  | copyChoice (t : Time) (src : Source) (data : List Byte)
  | prefixKey (t : Time) (src : Source) (data : List Byte)
  | prefetchSeq (t : Time) (src : Source) (data : List Byte)
  | snapArm (t : Time) (src : Source) (data : List Byte)
  | snapRelease (t : Time) (src : Source) (data : List Byte)
  | fiClear (t : Time) (src : Source) (data : List Byte)
  | lcRequest (t : Time) (src : Source) (data : List Byte)
  | authData (t : Time) (src : Source) (data : List Byte)
  | installStart (t : Time) (src : Source) (data : List Byte)
  | installEnd (t : Time)
  | attRequest (t : Time) (src : Source) (data : List Byte)
  | attReportReady (t : Time) (entropyOk : Bool) (signerOk : Bool)
  | tokenData (t : Time) (src : Source) (data : List Byte)
  | tokenClear (t : Time) (src : Source) (data : List Byte)
  | tokenLapse (t : Time)
  | enableHigh (t : Time)
  | enableLow (t : Time)
  | inputGoodLoss (t : Time)
  | refclkLoss (t : Time)
  | flowOkLow (t : Time)
  | safeStopRecoveryStart (t : Time)
  | safeStopRecoveryEnd (t : Time) (units : List Finding)
  | safeStopHoldExpiry (t : Time)
  | sensorSample (t : Time) (samples : List Sample) (coolant : CoolantSample)
  | lowFlowHalt (t : Time)
  | thermalModelUpdate (t : Time)
  | budgetSolve (t : Time)
  | powerControlTick (t : Time) (m : PowerSample)
  | phaseFailure (t : Time) (w : RegionId) (d : Domain)
  | regionRetire (t : Time) (w : RegionId)
  | regionShort (t : Time) (w : RegionId) (d : Domain)
  | brickLoss (t : Time) (stack : Fin 12)
  | leadCoxWatchdog (t : Time)
  | coxWatchdog (t : Time) (stack : Fin 12)
  | bringupStageEnd (t : Time) (f : StageFindings)
  | floorPlanPublish (t : Time)
  | configWrite (t : Time) (verified : Nat)
  | linkCheckingFail (t : Time) (r : ColId) (dir : RPort) (lostWires : Nat)
  | trainFlitReceive (t : Time) (port : Fin 31)
  | dictFrameInvalid (t : Time) (client : Nat) (txn : BitVec 16) (why : FrameFault) (idx : BitVec 16) (sub : BitVec 8)
  | udpDatagramDrop (t : Time) (why : DropWhy)
  | testPortInstruction (t : Time) (ir : TestIr)
  | inputGoodReturn (t : Time)
deriving DecidableEq, Repr

end Sys2Proof
end

