-- ==== Sys2Proof/Config.lean ====
section
/-! DEFINITION. What one module fixes (fused values, firmware, calibration) and the free values:
constants without a body, of which nothing can be proved but that they are what they are. Each is
named in a log entry. -/

namespace Sys2Proof

/-! ### Fused values and firmware (10 Table 10.8, 14 Table 14.12; log 19) -/

/-- 1000h.03, from OTP. -/
opaque Config.serial : BitVec 64
/-- 1020h.04, from OTP. -/
opaque Config.macAddr : BitVec 48
/-- The address straps of the tray connector (R377). -/
opaque Config.nodeStraps : BitVec 5
/-- 1000h.04, from OTP. -/
opaque Config.hwIssue : BitVec 16
/-- 8000h.08, SHA-384 of the Gordifel root public key. -/
opaque Config.rootDigest : BitVec 384
/-- FW_VERSION of the image in a firmware slot (R502, R503). -/
opaque Config.slotVersion : Nat → BitVec 32
/-- SEC_VERSION of the image in a firmware slot. -/
opaque Config.slotSecVersion : Nat → BitVec 32
/-- BODY_DIGEST of the image in a firmware slot. -/
opaque Config.slotDigest : Nat → BitVec 384
/-- ENGINE_DIGEST of the loaded microcode (Table 14.7 step 5). -/
opaque Config.engineDigest : BitVec 384
/-- Identity and DEVICE_CA certificates, DER, as 8010h.05 reads (Table 14.8). -/
opaque Config.certificates : List Byte

/-! ### Signatures, certificates and entropy, uninterpreted (R492, R493, R498; log 8) -/

/-- The certificate is trusted under R493 for a purpose of Table 14.1 (0 FIRMWARE, 1 DEVICE_CA,
2 PROVISION, 3 DEBUG, 4 TEST), against the root digest. -/
opaque Config.certTrusted : BitVec 384 → Nat → List Byte → Bool
/-- ECDSA on brainpoolP384r1 over SHA-384: message, signature, certificate (R492). -/
opaque Config.sigVerifies : List Byte → List Byte → List Byte → Bool
/-- The signature the device identity key makes over a message (R492, R505). -/
opaque Config.deviceSign : List Byte → List Byte
/-- Draws of the entropy source (R498). -/
opaque Config.entropy : Nat → BitVec 384

/-! ### Heat model (R405-R417, R432; log 9) -/

/-- Heat capacity of the node of a layer in a region (R412). -/
opaque Config.heatCapacity : RegionId → Nat → Nat
/-- Conductance between a layer's node and the one above it: node 6, of C6, has the top plate above it (R412). -/
opaque Config.conductUp : RegionId → Nat → Nat
/-- Conductance from B0 to the carrier plate (R412). -/
opaque Config.conductCarrier : RegionId → Nat
/-- Conductance from a layer's node to the same layer of the neighbouring region: two regions of one stack (R412). -/
opaque Config.conductSide : RegionId → RegionId → Nat → Nat
/-- Power of a region's four domains over the last 100 us, in mW, as its regulators measure it, by the number of the model
update (R413). -/
opaque Config.regionPower : RegionId → Nat → Nat
/-- Idle power proportion of a layer (R413). -/
opaque Config.idleShare : Nat → Nat

/-- A node of the network of R412 as an update meets it: its heat capacity, its power in mW, and what it exchanges heat with,
as conductance and temperature (0.01 degree) of each neighbour. -/
structure HeatNode where
  capacity : Nat
  power : Nat
  joins : List (Nat × Int)
deriving DecidableEq, Repr

/-- Estimate of a node 100 us after an earlier one (0.01 degree). -/
opaque Config.nodeEstimate : HeatNode → Int → Int
/-- Prediction of a node (0.01 degree) 5 ms ahead: the node, its temperature in use, and the power in mW of each ledger window
of the next 5 ms (R414). -/
opaque Config.nodePrediction : HeatNode → Int → List Nat → Int
/-- The module power (W) at which a prediction above its limit returns to limit minus guard band
(R419), from the number of the update. -/
opaque Config.thermalLimit : Nat → Nat
/-- The ramp limit (W in 100 ms) that goes with a prediction of too fast a change (R432), from the number of the update. -/
opaque Config.rampLimit : Nat → Nat
/-- Power scale k_L of R415 for a region and level (0.01 W units of region power): the seven nodes of its network in the steady
state, their limits less their guard bands (0.01 degree), the layer shares, and the budgets of the neighbouring regions. -/
opaque Config.powerScale : RegionId → Level → List HeatNode → List Int → List Nat → List (List Nat) → Int
/-- Layer shares of R415; they sum to 65,536. -/
opaque Config.layerShare : Nat → Nat
/-- A voltage trim step of a region from its ring-oscillator monitors (R445): steps of 5 mV. -/
opaque Config.trimSteps : RegionId → Int
/-- How the module changes a region's trim when it may (R445), by use and region: 1 a step up, 2 a step down, else not. -/
opaque Config.trimMove : Nat → RegionId → BitVec 2

/-! ### Free values (log 7 and the entries named there) -/

/-- A free bit for each use of the counter `fresh` (R208: which words a held read finds new). -/
opaque Config.freeBit : Nat → Bool
/-- A free 64-bit value for each use of the counter `fresh`. -/
opaque Config.freeWord : Nat → BitVec 64
/-- SHA-384 of a configuration copy (Table 13.4) as a function of its content; the spec gives the content no bytes (log 8). -/
opaque Config.copyDigest : List Byte → BitVec 384
/-- R51, BS4 with scale 0xFD: elements 4 and 6 exceed FP32 and the spec states no result (log 20). -/
opaque Config.bs4Beyond : BitVec 4 → F32
/-- What 5220h.05 and FAULT_DETAIL name for an uncorrectable word of an op store, which has no physical address
(03 R73), by its check-state key (log 62). -/
opaque Config.storeWordAddr : Nat → BitVec 56
/-- TENSOR_ID, band and block column that 7302h.02 shows for a damaged element of a DEST extent whose layer has no entry of
the state table (08 Table 8.10; log 66). -/
opaque Config.destBlock : Nat → Nat → BitVec 56
/-- A word that is not delivered: one that an access kept from being performed would have read (03 R103: neither access is
performed), by op in flight and word (log 60), and one that the cox or a port engine cannot read (05 R188; log 63). -/
opaque Config.unreadWord : Nat → EccWord

end Sys2Proof
end

