-- ==== Sys2Proof/Machine/Bytes.lean ====
section
/-! DEFINITION. Byte order and bit fields (R3, R4): ECC words as bytes, fields of words, and byte
strings as little-endian numbers. -/

namespace Sys2Proof.Machine

/-- Bits [hi:lo] as a number, `n` bits from bit `lo` (R3). -/
def fld {w : Nat} (v : BitVec w) (lo n : Nat) : Nat := (v.toNat / 2 ^ lo) % 2 ^ n

def bit {w : Nat} (v : BitVec w) (i : Nat) : Bool := v.getLsbD i

/-- Little-endian number of a byte string (R4). -/
def leNat : List Byte → Nat
  | [] => 0
  | b :: bs => b.toNat + 256 * leNat bs

/-- The first `n` little-endian bytes of a number. -/
def leBytes : Nat → Nat → List Byte
  | 0, _ => []
  | n + 1, v => BitVec.ofNat 8 v :: leBytes n (v / 256)

def wordOfBytes (bs : List Byte) : EccWord := BitVec.ofNat 256 (leNat bs)

def bytesOfWord (w : EccWord) : List Byte := leBytes 32 w.toNat

/-- Byte i of an ECC word. -/
def byteAt (w : EccWord) (i : Nat) : Byte := BitVec.ofNat 8 (w.toNat / 2 ^ (8 * i))

/-- The 32-bit value in bytes 4i to 4i + 3. -/
def f32At (w : EccWord) (i : Nat) : F32 := BitVec.ofNat 32 (w.toNat / 2 ^ (32 * i))

/-- The 16-bit value in bytes 2i and 2i + 1. -/
def u16At (w : EccWord) (i : Nat) : BitVec 16 := BitVec.ofNat 16 (w.toNat / 2 ^ (16 * i))

/-- Cut a list into pieces of n, with fuel. -/
def chunksGo {α : Type} (n : Nat) : Nat → List α → List (List α)
  | 0, _ => []
  | k + 1, l => if l.isEmpty then [] else l.take n :: chunksGo n k (l.drop n)

def chunksOf {α : Type} (n : Nat) (l : List α) : List (List α) := chunksGo n l.length l

/-- A byte string as ECC words, the last one filled with zeros. -/
def wordsOfBytes (bs : List Byte) : List EccWord := (chunksOf 32 bs).map wordOfBytes

def bytesOfWords (ws : List EccWord) : List Byte := ws.flatMap bytesOfWord

/-- Pack values of `bytes` bytes each into ECC words, the last filled with zeros. -/
def packWords (bytes : Nat) (vals : List Nat) : List EccWord :=
  wordsOfBytes (vals.flatMap (leBytes bytes))

/-- The list of numbers lo, lo + 1, ... of length n. -/
def span (lo n : Nat) : List Nat := (List.range n).map (lo + ·)

/-- ceil(a / b). -/
def ceilDiv (a b : Nat) : Nat := (a + b - 1) / b

/-- ceil(log2 n) for n at least 1. -/
def ceilLog2 (n : Nat) : Nat := if n ≤ 1 then 0 else Nat.log2 (n - 1) + 1

/-- A sum that holds at 2^64 - 1 instead of wrapping (R66, R196 and the other counters). -/
def holdAdd (v : BitVec 64) (n : Nat) : BitVec 64 :=
  BitVec.ofNat 64 (min (v.toNat + n) (2 ^ 64 - 1))

/-- Two's complement of n bits as an integer. -/
def signedOf (n v : Nat) : Int := if v < 2 ^ (n - 1) then (v : Int) else (v : Int) - 2 ^ n

/-- An integer as n bits of two's complement. -/
def unsignedOf (n : Nat) (v : Int) : Nat := (v % (2 ^ n : Int)).toNat

/-- CRC-32C, one bit of a byte (R212: polynomial 0x1EDC_6F41 reflected). -/
def crcBit (c : BitVec 32) : BitVec 32 :=
  if c.getLsbD 0 then (c >>> 1) ^^^ 0x82F63B78#32 else c >>> 1

def crcByte (c : BitVec 32) (b : Byte) : BitVec 32 :=
  crcBit (crcBit (crcBit (crcBit (crcBit (crcBit (crcBit (crcBit (c ^^^ b.setWidth 32))))))))

/-- CRC-32C of a byte string (R212). -/
def crc32c (bs : List Byte) : BitVec 32 := (bs.foldl crcByte 0xFFFFFFFF#32) ^^^ 0xFFFFFFFF#32

end Sys2Proof.Machine
end

