-- ==== Sys2Proof/Machine/Numeric.lean ====
section
/-! DEFINITION. Number formats and exact arithmetic (spec 02, R32-R63): values as exact extended
reals, one rounding function for every format, and the IEEE operations with their events. -/

namespace Sys2Proof.Machine

/-- An exact extended value: NaN, a signed infinity, or (-1)^neg * m * 2^e with signed zeros. -/
inductive Xf where
  | nan
  | inf (neg : Bool)
  | fin (neg : Bool) (m : Nat) (e : Int)
deriving DecidableEq, Repr

/-- Arithmetic events (Table 2.9), as counted by one operation. -/
structure Ev where
  sat : Nat
  ovfNan : Nat
  inf : Nat
  invalid : Nat
  blockNan : Nat
deriving DecidableEq, Repr

def Ev.zero : Ev := ⟨0, 0, 0, 0, 0⟩

def Ev.plus (a b : Ev) : Ev :=
  ⟨a.sat + b.sat, a.ovfNan + b.ovfNan, a.inf + b.inf, a.invalid + b.invalid, a.blockNan + b.blockNan⟩

def Ev.oneSat : Ev := { Ev.zero with sat := 1 }
def Ev.oneOvfNan : Ev := { Ev.zero with ovfNan := 1 }
def Ev.oneInf : Ev := { Ev.zero with inf := 1 }
def Ev.oneInvalid : Ev := { Ev.zero with invalid := 1 }
def Ev.oneBlockNan : Ev := { Ev.zero with blockNan := 1 }

/-- A narrow or wide binary format: precision in bits, exponent of the smallest subnormal, width of
the magnitude field and the largest magnitude code that is finite. -/
structure Fmt where
  p : Nat
  emin : Int
  width : Nat
  top : Nat
deriving DecidableEq, Repr

def fmtF32 : Fmt := ⟨24, -149, 31, 0x7F7FFFFF⟩
def fmtBf16 : Fmt := ⟨8, -133, 15, 0x7F7F⟩
def fmtE4m3 : Fmt := ⟨4, -9, 7, 0x7F⟩
def fmtE5m2 : Fmt := ⟨3, -16, 7, 0x7B⟩
def fmtE2m1 : Fmt := ⟨2, -1, 3, 7⟩

/-- m * 2^e as an integer multiple of 2^q, for q at most e. -/
def scaleTo (m : Nat) (e q : Int) : Nat := m * 2 ^ (e - q).toNat

/-- The magnitude code of m * 2^e in a format, rounded to nearest even with unbounded exponent
range (R33, R45): a code above `top` is an overflow. -/
def roundCode (f : Fmt) (m : Nat) (e : Int) : Nat :=
  if m = 0 then 0 else
  let q := max (e + (Nat.log2 m + 1 : Nat) - f.p) f.emin
  let m' :=
    if q ≤ e then scaleTo m e q
    else
      let sh := (q - e).toNat
      let hi := m / 2 ^ sh
      let rem := m % 2 ^ sh
      let half := 2 ^ (sh - 1)
      if rem > half ∨ (rem = half ∧ hi % 2 = 1) then hi + 1 else hi
  (q - f.emin).toNat * 2 ^ (f.p - 1) + m'

/-- m * 2^e truncated toward zero to a format, as its magnitude code (R55). -/
def truncCode (f : Fmt) (m : Nat) (e : Int) : Nat :=
  if m = 0 then 0 else
  let q := max (e + (Nat.log2 m + 1 : Nat) - f.p) f.emin
  let m' := if q ≤ e then scaleTo m e q else m / 2 ^ (q - e).toNat
  (q - f.emin).toNat * 2 ^ (f.p - 1) + m'

/-- The exact value of a finite magnitude code. -/
def codeValue (f : Fmt) (neg : Bool) (c : Nat) : Xf :=
  let ex := c / 2 ^ (f.p - 1)
  let man := c % 2 ^ (f.p - 1)
  if ex = 0 then .fin neg man f.emin
  else .fin neg (2 ^ (f.p - 1) + man) (f.emin + ((ex - 1 : Nat) : Int))

/-! ### Decoding (R35-R39) -/

def xOfF32 (b : F32) : Xf :=
  let n := b.toNat
  let neg := decide (n / 2 ^ 31 = 1)
  let mag := n % 2 ^ 31
  if mag > 0x7F800000 then .nan
  else if mag = 0x7F800000 then .inf neg
  else codeValue fmtF32 neg mag

def xOfBf16 (b : BitVec 16) : Xf := xOfF32 (BitVec.ofNat 32 (b.toNat * 2 ^ 16))

/-- R35: 0x80 is NaN, every other byte is finite. -/
def xOfE4m3 (b : Byte) : Xf :=
  let n := b.toNat
  if n = 0x80 then .nan else codeValue fmtE4m3 (decide (n / 128 = 1)) (n % 128)

/-- R36. -/
def xOfE5m2 (b : Byte) : Xf :=
  let n := b.toNat
  let neg := decide (n / 128 = 1)
  let mag := n % 128
  if mag > 0x7C then .nan else if mag = 0x7C then .inf neg else codeValue fmtE5m2 neg mag

/-- R38: the pattern 0b1000 is +0 in every use. -/
def xOfE2m1 (b : BitVec 4) : Xf :=
  let n := b.toNat
  if n = 8 then .fin false 0 0 else codeValue fmtE2m1 (decide (n / 8 = 1)) (n % 8)

/-- Multiply by 2^k, exactly. -/
def Xf.scale (x : Xf) (k : Int) : Xf :=
  match x with
  | .fin n m e => .fin n m (e + k)
  | y => y

/-- R39-R41: an element under the block scale code c; the code 0xFF makes every element NaN. -/
def Xf.blockScale (x : Xf) (c : Nat) : Xf := if c = 0xFF then .nan else x.scale ((c : Int) - 127)

def Xf.isNan : Xf → Bool
  | .nan => true
  | _ => false

def Xf.isFin : Xf → Bool
  | .fin _ _ _ => true
  | _ => false

def Xf.isInf : Xf → Bool
  | .inf _ => true
  | _ => false

def Xf.isZero : Xf → Bool
  | .fin _ 0 _ => true
  | _ => false

def Xf.neg : Xf → Bool
  | .nan => false
  | .inf n => n
  | .fin n _ _ => n

def Xf.negate : Xf → Xf
  | .nan => .nan
  | .inf n => .inf (!n)
  | .fin n m e => .fin (!n) m e

/-- Signed integer of m * 2^e over 2^q. -/
def signedAt (neg : Bool) (m : Nat) (e q : Int) : Int :=
  if neg then -(scaleTo m e q : Int) else (scaleTo m e q : Int)

/-- Exact addition with IEEE special cases: opposite infinities give NaN; an exact zero of two
operands that are not both -0 is +0. -/
def Xf.add (a b : Xf) : Xf :=
  match a, b with
  | .nan, _ => .nan
  | _, .nan => .nan
  | .inf n, .inf n' => if n = n' then .inf n else .nan
  | .inf n, .fin _ _ _ => .inf n
  | .fin _ _ _, .inf n => .inf n
  | .fin n m e, .fin n' m' e' =>
    if m = 0 ∧ m' = 0 then .fin (n && n') 0 0
    else
      let q := min e e'
      let v := signedAt n m e q + signedAt n' m' e' q
      .fin (decide (v < 0)) v.natAbs q

/-- Exact multiplication; zero times infinity is NaN. -/
def Xf.mul (a b : Xf) : Xf :=
  match a, b with
  | .nan, _ => .nan
  | _, .nan => .nan
  | .inf n, .inf n' => .inf (n != n')
  | .inf n, .fin n' m _ => if m = 0 then .nan else .inf (n != n')
  | .fin n m _, .inf n' => if m = 0 then .nan else .inf (n != n')
  | .fin n m e, .fin n' m' e' => .fin (n != n') (m * m') (e + e')

/-- Append a sticky bit: an inexact value keeps its side of every rounding boundary. -/
def jam (neg : Bool) (m : Nat) (exact : Bool) (e : Int) : Xf :=
  .fin neg (2 * m + (if exact then 0 else 1)) (e - 1)

/-- Division: a quotient of at least 64 bits with a sticky bit, so that one rounding to any format
of at most 62 bits is the correct one. -/
def Xf.div (a b : Xf) : Xf :=
  match a, b with
  | .nan, _ => .nan
  | _, .nan => .nan
  | .inf _, .inf _ => .nan
  | .inf n, .fin n' _ _ => .inf (n != n')
  | .fin n _ _, .inf n' => .fin (n != n') 0 0
  | .fin n m e, .fin n' m' e' =>
    if m' = 0 then (if m = 0 then .nan else .inf (n != n'))
    else if m = 0 then .fin (n != n') 0 0
    else
      let k : Nat := 64 + Nat.log2 m'
      let num := m * 2 ^ k
      jam (n != n') (num / m') (decide (num % m' = 0)) (e - e' - k)

/-- Integer square root, one result bit per step from the highest. -/
def isqrtFrom (n : Nat) : Nat → Nat → Nat
  | 0, r => r
  | k + 1, r =>
    let r' := r + 2 ^ k
    isqrtFrom n k (if r' * r' ≤ n then r' else r)

def isqrt (n : Nat) : Nat := isqrtFrom n (Nat.log2 n / 2 + 1) 0

/-- Square root of a value, with sticky bit; sqrt(-0) is -0, a negative operand gives NaN. -/
def Xf.sqrt (a : Xf) : Xf :=
  match a with
  | .nan => .nan
  | .inf n => if n then .nan else .inf false
  | .fin n m e =>
    if m = 0 then .fin n 0 0
    else if n then .nan
    else
      let k : Nat := 128 + (if (e % 2 = 0) then 0 else 1)
      let v := m * 2 ^ k
      let r := isqrt v
      jam false r (decide (r * r = v)) ((e - k) / 2)

/-- Reciprocal square root: an infinity for a zero (R62). -/
def Xf.rsqrt (a : Xf) : Xf :=
  match a with
  | .nan => .nan
  | .inf n => if n then .nan else .fin false 0 0
  | .fin n m e =>
    if m = 0 then .inf n
    else if n then .nan
    else
      let k : Nat := 2 * (80 + Nat.log2 m) + (if (e % 2 = 0) then 0 else 1)
      let v := 2 ^ k / m
      let r := isqrt v
      jam false r (decide (r * r * m = 2 ^ k)) ((-e - k) / 2)

/-! ### Rounding results to FP32 and BF16 (R33, R34, R62) -/

def f32Nan : F32 := 0x7FC00000

/-- The FP32 pattern of a sign and magnitude code. -/
def f32Pack (neg : Bool) (mag : Nat) : F32 := BitVec.ofNat 32 ((if neg then 2 ^ 31 else 0) + mag)

def f32Inf (neg : Bool) : F32 := f32Pack neg 0x7F800000

/-- Round a value once to FP32; a NaN is canonical, an overflow an infinity. -/
def f32OfX (x : Xf) : F32 :=
  match x with
  | .nan => f32Nan
  | .inf n => f32Inf n
  | .fin n m e =>
    let c := roundCode fmtF32 m e
    f32Pack n (if c > fmtF32.top then 0x7F800000 else c)

def bf16OfX (x : Xf) : BitVec 16 :=
  match x with
  | .nan => 0x7FC0
  | .inf n => BitVec.ofNat 16 ((if n then 2 ^ 15 else 0) + 0x7F80)
  | .fin n m e =>
    let c := roundCode fmtBf16 m e
    BitVec.ofNat 16 ((if n then 2 ^ 15 else 0) + (if c > fmtBf16.top then 0x7F80 else c))

/-- The events of a result: an infinity although every operand is finite counts one infinity
event, a NaN from operands none of which is NaN one invalid event (R62, Table 2.9). -/
def eventsOf (ops : List Xf) (exact : Xf) (rounded : Xf) : Ev :=
  if exact.isNan then (if ops.any Xf.isNan then Ev.zero else Ev.oneInvalid)
  else if rounded.isInf && ops.all Xf.isFin then Ev.oneInf
  else Ev.zero

/-- A result rounded once to FP32 with its events. -/
def f32Result (ops : List Xf) (exact : Xf) : F32 × Ev :=
  let r := f32OfX exact
  (r, eventsOf ops exact (xOfF32 r))

def f32Add (a b : F32) : F32 × Ev :=
  f32Result [xOfF32 a, xOfF32 b] ((xOfF32 a).add (xOfF32 b))

def f32Sub (a b : F32) : F32 × Ev :=
  f32Result [xOfF32 a, xOfF32 b] ((xOfF32 a).add (xOfF32 b).negate)

def f32Mul (a b : F32) : F32 × Ev :=
  f32Result [xOfF32 a, xOfF32 b] ((xOfF32 a).mul (xOfF32 b))

def f32Fma (a b c : F32) : F32 × Ev :=
  f32Result [xOfF32 a, xOfF32 b, xOfF32 c] (((xOfF32 a).mul (xOfF32 b)).add (xOfF32 c))

def f32Div (a b : F32) : F32 × Ev :=
  f32Result [xOfF32 a, xOfF32 b] ((xOfF32 a).div (xOfF32 b))

def f32Sqrt (a : F32) : F32 × Ev := f32Result [xOfF32 a] (xOfF32 a).sqrt

def f32Rcp (a : F32) : F32 × Ev := f32Result [xOfF32 a] ((Xf.fin false 1 0).div (xOfF32 a))

def f32Rsqrt (a : F32) : F32 × Ev := f32Result [xOfF32 a] (xOfF32 a).rsqrt

/-- Comparison a ≤ b of values neither of which is NaN, with -0 below +0 (R62). -/
def Xf.le (a b : Xf) : Bool :=
  match a, b with
  | .inf n, .inf n' => n || !n'
  | .inf n, _ => n
  | _, .inf n => !n
  | .fin n m e, .fin n' m' e' =>
    if m = 0 ∧ m' = 0 then n || !n'
    else
      let q := min e e'
      decide (signedAt n m e q ≤ signedAt n' m' e' q)
  | _, _ => false

/-- Maximum: NaN if either is NaN; an infinity that an operand carries counts nothing (R62). -/
def f32Max (a b : F32) : F32 × Ev :=
  if (xOfF32 a).isNan || (xOfF32 b).isNan then (f32Nan, Ev.zero)
  else (if (xOfF32 a).le (xOfF32 b) then b else a, Ev.zero)

def f32Min (a b : F32) : F32 × Ev :=
  if (xOfF32 a).isNan || (xOfF32 b).isNan then (f32Nan, Ev.zero)
  else (if (xOfF32 a).le (xOfF32 b) then a else b, Ev.zero)

/-- Thread events through a list of results. -/
def evMap {α β : Type} (f : α → β × Ev) (l : List α) : List β × Ev :=
  l.foldr (fun a acc => let r := f a; (r.1 :: acc.1, r.2.plus acc.2)) ([], Ev.zero)

/-- Combine neighbours of a list: one level of the pairwise tree of R60. -/
def pairUp (f : F32 → F32 → F32 × Ev) : List F32 → List F32 × Ev
  | a :: b :: rest =>
    let r := f a b
    let more := pairUp f rest
    (r.1 :: more.1, r.2.plus more.2)
  | l => (l, Ev.zero)

/-- The pairwise tree over a list of 2^levels values (R60-R62). -/
def pairTree (f : F32 → F32 → F32 × Ev) : Nat → List F32 → F32 × Ev
  | 0, l => (l.headD 0, Ev.zero)
  | n + 1, l =>
    let a := pairUp f l
    let r := pairTree f n a.1
    (r.1, a.2.plus r.2)

/-! ### Narrowing (R45-R48, Table 2.6) -/

/-- To BF16: an overflow is an infinity and counts one (Table 2.5, 5200h.03). -/
def narrowBf16 (x : Xf) : BitVec 16 × Ev :=
  let r := bf16OfX x
  (r, if x.isFin && (xOfBf16 r).isInf then Ev.oneInf else Ev.zero)

/-- To E4M3, saturating or not. A result of zero has no sign. -/
def narrowE4m3 (nonSat : Bool) (x : Xf) : Byte × Ev :=
  match x with
  | .nan => (0x80, Ev.zero)
  | .inf n =>
    if nonSat then (0x80, Ev.oneOvfNan) else (if n then 0xFF else 0x7F, Ev.oneSat)
  | .fin n m e =>
    let c := roundCode fmtE4m3 m e
    if c > fmtE4m3.top then
      (if nonSat then (0x80, Ev.oneOvfNan) else (if n then 0xFF else 0x7F, Ev.oneSat))
    else if c = 0 then (0, Ev.zero)
    else (BitVec.ofNat 8 ((if n then 128 else 0) + c), Ev.zero)

/-- To E5M2: infinities stay, uncounted; zeros keep their sign. -/
def narrowE5m2 (nonSat : Bool) (x : Xf) : Byte × Ev :=
  match x with
  | .nan => (0x7E, Ev.zero)
  | .inf n => (if n then 0xFC else 0x7C, Ev.zero)
  | .fin n m e =>
    let c := roundCode fmtE5m2 m e
    if c > fmtE5m2.top then
      (if nonSat then (0x7E, Ev.oneOvfNan) else (if n then 0xFB else 0x7B, Ev.oneSat))
    else (BitVec.ofNat 8 ((if n then 128 else 0) + c), Ev.zero)

/-- To E2M1 within a BS4 block, which has no NaN: an excess saturates (R46, R50). No code for
negative zero is written (R38). -/
def narrowE2m1 (x : Xf) : BitVec 4 × Ev :=
  match x with
  | .nan => (0, Ev.zero)
  | .inf n => (if n then 0xF else 0x7, Ev.oneSat)
  | .fin n m e =>
    let c := roundCode fmtE2m1 m e
    if c > fmtE2m1.top then
      (if n then 0xF else 0x7, Ev.oneSat)
    else if c = 0 then (0, Ev.zero)
    else (BitVec.ofNat 4 ((if n then 8 else 0) + c), Ev.zero)

end Sys2Proof.Machine
end

