-- ==== Sys2Proof/Machine/Block.lean ====
section
/-! DEFINITION. Block-scaled formats (02 R40-R51, R54, R55): encoding of blocks of 32 values,
decoding, and block groups as ECC words. -/

namespace Sys2Proof.Machine

/-- Parameters of R49 by format: format, emax, ehi, highest scale code that widens (R50, R51). -/
structure BlockFmt where
  fmt : Fmt
  emax : Int
  ehi : Int
  limit : Nat
  bs8 : Bool
deriving DecidableEq, Repr

def blockBs8 : BlockFmt := ⟨fmtE4m3, 8, 119, 0xF6, true⟩
def blockBs4 : BlockFmt := ⟨fmtE2m1, 2, 126, 0xFD, false⟩

/-- An encoded block: scale code and 32 element codes. -/
structure Blk where
  scale : Nat
  elems : List Nat
deriving DecidableEq, Repr

def blkNan : Blk := ⟨0xFF, List.replicate 32 0⟩
def blkZero : Blk := ⟨0x7F, List.replicate 32 0⟩

/-- The largest finite FP32 magnitude with a sign. -/
def f32Largest (neg : Bool) : Xf := .fin neg (2 ^ 24 - 1) 104

/-- Compare magnitudes of finite values. -/
def magLt (a b : Xf) : Bool :=
  match a, b with
  | .fin _ m e, .fin _ m' e' => let q := min e e'; decide (scaleTo m e q < scaleTo m' e' q)
  | _, _ => false

def amaxOf (l : List Xf) : Xf := l.foldl (fun a x => if magLt a x then x else a) (.fin false 0 0)

/-- The block exponent of R49 for finite values with largest magnitude m * 2^e, m not zero. -/
def blockExp (f : BlockFmt) (m : Nat) (e : Int) : Int :=
  let e0 := e + (Nat.log2 m : Nat) - f.emax
  let e1 := if roundCode f.fmt m (e - e0) > f.fmt.top then e0 + 1 else e0
  max (-127) (min f.ehi e1)

/-- One element at block exponent e: code and events. A value that replaced an infinity has
counted its event already. -/
def blockElem (f : BlockFmt) (nonSat : Bool) (e : Int) (replaced : Bool) (x : Xf) : Nat × Ev :=
  let r : Nat × Ev :=
    if f.bs8 then let b := narrowE4m3 nonSat (x.scale (-e)); (b.1.toNat, b.2)
    else let b := narrowE2m1 (x.scale (-e)); (b.1.toNat, b.2)
  if replaced then (r.1, Ev.oneSat) else r

/-- What R49 settles before the elements: a finished block, or the block exponent. -/
def blockScaleOf (f : BlockFmt) (nonSat : Bool) (xs : List Xf) : (Blk × Ev) ⊕ Int :=
  if xs.any Xf.isNan then .inl (blkNan, Ev.oneBlockNan)
  else if nonSat && xs.any Xf.isInf then .inl (blkNan, { Ev.oneBlockNan with ovfNan := 1 })
  else
    match amaxOf (xs.map fun x => if x.isInf then f32Largest x.neg else x) with
    | .fin _ m e => if m = 0 then .inl (blkZero, Ev.zero) else .inr (blockExp f m e)
    | _ => .inl (blkZero, Ev.zero)

/-- Elements of a block at a given exponent. -/
def blockElems (f : BlockFmt) (nonSat : Bool) (e : Int) (xs : List Xf) : List Nat × Ev :=
  evMap (fun x =>
    if x.isInf then blockElem f nonSat e true (f32Largest x.neg) else blockElem f nonSat e false x) xs

/-- Block encoding with the block's own scale (R49). -/
def encodeOwn (f : BlockFmt) (nonSat : Bool) (xs : List Xf) : Blk × Ev :=
  match blockScaleOf f nonSat xs with
  | .inl r => r
  | .inr e => let r := blockElems f nonSat e xs; (⟨(e + 127).toNat, r.1⟩, r.2)

/-- Block encoding with a supplied scale code (R50): the code is limited so that the block widens. -/
def encodeSupplied (f : BlockFmt) (code : Nat) (xs : List Xf) : Blk × Ev :=
  if xs.any Xf.isNan then (blkNan, Ev.oneBlockNan)
  else
    let c := min code f.limit
    let r := blockElems f false ((c : Int) - 127) xs
    (⟨c, r.1⟩, r.2)

/-- One stochastic element (R55): magnitude rounded down, or up when the draw carries. -/
def stochasticElem (e : Int) (replaced : Bool) (x : Xf) (r : Nat) : Nat × Ev :=
  match x with
  | .fin n m ex =>
    let e' := ex - e
    let lo := truncCode fmtE4m3 m e'
    let q := max (e' + (Nat.log2 m + 1 : Nat) - 4) (-9)
    let d := if m = 0 then 0 else if q ≤ e' then 0
      else let sh := (q - e').toNat; 65536 * (m % 2 ^ sh) / 2 ^ sh
    let mag := if d + r ≥ 65536 then lo + 1 else lo
    let beyond := decide (mag > 0x7F)
    let mag' := if beyond then 0x7F else mag
    (if mag' = 0 then 0 else mag' + (if n then 128 else 0),
      if replaced || beyond then Ev.oneSat else Ev.zero)
  | _ => (0, Ev.zero)

/-- Stochastic BS8 block with one draw for each element (R55). -/
def encodeStochastic (nonSat : Bool) (xs : List Xf) (draws : List Nat) : Blk × Ev :=
  match blockScaleOf blockBs8 nonSat xs with
  | .inl r => r
  | .inr e =>
    let r := evMap (fun (p : Xf × Nat) =>
      if p.1.isInf then stochasticElem e true (f32Largest p.1.neg) p.2
      else stochasticElem e false p.1 p.2) (xs.zip draws)
    (⟨(e + 127).toNat, r.1⟩, r.2)

/-- The generator of R54: one draw. -/
def genNext (x : BitVec 16) : BitVec 16 :=
  let a := x ^^^ (x <<< 7)
  let b := a ^^^ (a >>> 9)
  b ^^^ (b <<< 8)

/-- The seed of a lane (R54). -/
def genSeed (step : BitVec 32) (tensor : BitVec 16) (lane : Nat) : BitVec 16 :=
  let x := step.setWidth 16 ^^^ (step >>> 16).setWidth 16 ^^^ tensor ^^^ BitVec.ofNat 16 (lane * 0x9E37)
  if x = 0 then 0xACE1 else x

/-- Value of an element code under a scale code (R40, R41). -/
def elemValue (bs8 : Bool) (scale code : Nat) : Xf :=
  (if bs8 then xOfE4m3 (BitVec.ofNat 8 code) else xOfE2m1 (BitVec.ofNat 4 code)).blockScale scale

/-- Widening of a block to FP32 (R51). A code above the limit refuses the block: NaNs and one
invalid event; the scale 0xFF is the format's own NaN and counts none (DEDUCED, log 20). Elements
of BS4 that exceed FP32 under code 0xFD are free values (log 20). -/
def widenBlock (bs8 : Bool) (b : Blk) : List F32 × Ev :=
  if b.scale = 0xFF then (List.replicate 32 f32Nan, Ev.zero)
  else if b.scale > (if bs8 then 0xF6 else 0xFD) then (List.replicate 32 f32Nan, Ev.oneInvalid)
  else
    (b.elems.map fun c =>
      if !bs8 && decide (b.scale = 0xFD) && decide (c % 8 ≥ 6) then Config.bs4Beyond (BitVec.ofNat 4 c)
      else f32OfX (elemValue bs8 b.scale c), Ev.zero)

/-- Element codes of the 32 bytes or 16 bytes of a block (R42, R43). -/
def elemsOfBytes (bs8 : Bool) (bs : List Byte) : List Nat :=
  if bs8 then bs.map BitVec.toNat else bs.flatMap fun b => [b.toNat % 16, b.toNat / 16]

def bytesOfElems (bs8 : Bool) (es : List Nat) : List Byte :=
  if bs8 then es.map (BitVec.ofNat 8)
  else (chunksOf 2 es).map fun p => BitVec.ofNat 8 (p.headD 0 + 16 * p.getD 1 0)

/-- Words of a block group. -/
def groupWords (bs8 : Bool) : Nat := if bs8 then 33 else 17

/-- The 32 blocks of a block group (R42, R43). -/
def blocksOfGroup (bs8 : Bool) (ws : List EccWord) : List Blk :=
  let n := groupWords bs8
  let bs := chunksOf (if bs8 then 32 else 16) (bytesOfWords (ws.take (n - 1)))
  let scales := bytesOfWord (ws.getD (n - 1) 0)
  (bs.zip scales).map fun p => ⟨p.2.toNat, elemsOfBytes bs8 p.1⟩

/-- A block group of up to 32 blocks, padded under R44. -/
def groupOfBlocks (bs8 : Bool) (bl : List Blk) : List EccWord :=
  let full := (bl ++ List.replicate 32 blkZero).take 32
  wordsOfBytes (full.flatMap fun b => bytesOfElems bs8 b.elems) ++
    [wordOfBytes (full.map fun b => BitVec.ofNat 8 b.scale)]

end Sys2Proof.Machine
end

