-- ==== Sys2Proof/Machine/Dot.lean ====
section
/-! DEFINITION. Dot products: the array sum (02 R52, R56-R60) and the near-bank sum (R61). -/

namespace Sys2Proof.Machine

/-- Elements of one row or vector as values without block scale, in element order (Table 3.3). -/
def rowElems (fmt : Nat) (ws : List EccWord) : List Xf :=
  let bs := bytesOfWords ws
  match fmt with
  | 0 => bs.map xOfE4m3
  | 4 => bs.map xOfE4m3
  | 1 => bs.map xOfE5m2
  | 2 => (chunksOf 2 bs).map fun p => xOfBf16 (BitVec.ofNat 16 (leNat p))
  | 3 => (chunksOf 4 bs).map fun p => xOfF32 (BitVec.ofNat 32 (leNat p))
  | _ => (elemsOfBytes false bs).map fun c => xOfE2m1 (BitVec.ofNat 4 c)

/-- The scale code of a group of 32 elements; 1.0 for the formats without blocks. -/
def scaleAt (scales : List Nat) (g : Nat) : Nat := scales.getD g 127

/-- Steps 1 to 3 of R56 with the special values of R58 for one group of 32 pairs. -/
def groupSum (ps : List (Xf × Xf)) (ca cb : Nat) : F32 × Ev :=
  if decide (ca = 0xFF) || decide (cb = 0xFF) || ps.any (fun p => p.1.isNan || p.2.isNan) then
    (f32Nan, Ev.zero)
  else
    let prods := ps.map fun p => p.1.mul p.2
    let s := prods.foldl Xf.add (.fin false 0 0)
    if s.isNan then (f32Nan, Ev.oneInvalid)
    else
      let r := f32OfX (s.scale ((ca : Int) - 127 + ((cb : Int) - 127)))
      if s.isZero then (0, Ev.zero)
      else (r, if s.isFin && (xOfF32 r).isInf then Ev.oneInf else Ev.zero)

/-- A pass of 128 pairs in narrow formats (R56): the new accumulator. -/
def narrowPass (a b : List Xf) (sa sb : List Nat) (acc : F32) : F32 × Ev :=
  let ps := a.zip b
  let g := fun i => groupSum ((ps.drop (32 * i)).take 32) (scaleAt sa i) (scaleAt sb i)
  let g0 := g 0; let g1 := g 1; let g2 := g 2; let g3 := g 3
  let s01 := f32Add g0.1 g1.1
  let s23 := f32Add g2.1 g3.1
  let s := f32Add s01.1 s23.1
  let r := f32Add acc s.1
  (r.1, ((((((g0.2.plus g1.2).plus g2.2).plus g3.2).plus s01.2).plus s23.2).plus s.2).plus r.2)

/-- Elements with their block scales applied, exactly (R52). -/
def scaledElems (l : List Xf) (scales : List Nat) : List Xf :=
  l.zipIdx.map fun p => p.1.blockScale (scaleAt scales (p.2 / 32))

/-- A BF16 pass of 128 pairs (R60). -/
def widePass (a b : List Xf) (acc : F32) : F32 × Ev :=
  let prods := evMap (fun (p : Xf × Xf) => f32Result [p.1, p.2] (p.1.mul p.2)) (a.zip b)
  let t := pairTree f32Add 7 prods.1
  let r := f32Add acc t.1
  (r.1, (prods.2.plus t.2).plus r.2)

/-- One row against one vector into an accumulator: the pass, or for 256 elements the two passes in
order (R59). -/
def rowDot (fmtB : Nat) (vb : List EccWord) (sb : List Nat) (fmtF : Nat) (vf : List EccWord)
    (sf : List Nat) (acc : F32) : F32 × Ev :=
  let a := rowElems fmtB vb
  let b := rowElems fmtF vf
  if fmtB = 2 ∨ fmtF = 2 then widePass (scaledElems a sb) (scaledElems b sf) acc
  else if fmtB = 6 then
    let r := narrowPass (a.take 128) (b.take 128) (sb.take 4) (sf.take 4) acc
    let r' := narrowPass (a.drop 128) (b.drop 128) (sb.drop 4) (sf.drop 4) r.1
    (r'.1, r.2.plus r'.2)
  else narrowPass a b sb sf acc

/-- A step of R61: the product, exact and rounded once as in R60, then its sum with p, rounded. -/
def nbStep (p : F32) (w v : Xf) : F32 × Ev :=
  let prod := f32Result [w, v] (w.mul v)
  let sum := f32Add p prod.1
  (sum.1, prod.2.plus sum.2)

/-- Partial sums of the 16 lanes, 16 elements at a time. -/
def nbLanes : List (List (Xf × Xf)) → List F32 → List F32 × Ev
  | [], p => (p, Ev.zero)
  | c :: cs, p =>
    let r := evMap (fun (q : F32 × (Xf × Xf)) => nbStep q.1 q.2.1 q.2.2) (p.zip c)
    let more := nbLanes cs (r.1 ++ p.drop c.length)
    (more.1, r.2.plus more.2)

/-- The near-bank dot product (R61). -/
def nbDot (w v : List Xf) : F32 × Ev :=
  let r := nbLanes (chunksOf 16 (w.zip v)) (List.replicate 16 0)
  let t := pairTree f32Add 4 r.1
  (t.1, r.2.plus t.2)

end Sys2Proof.Machine
end

