-- ==== Sys2Proof/Machine/Operands.lean ====
section
/-! DEFINITION. Op words and route words: fields, operands and the encodings the module accepts
(03 Tables 3.2-3.13, 04 Table 4.2, 06 Table 6.4, 08 Table 8.8). -/

namespace Sys2Proof.Machine

/-- Bits [hi:lo] of an op word. -/
def ow (w : OpWord) (hi lo : Nat) : Nat := fld w lo (hi + 1 - lo)

def opSlot (w : OpWord) : Nat := ow w 9 0
def opAdv (w : OpWord) : Nat := ow w 13 10
def opUnit (w : OpWord) : Nat := ow w 16 14
def opCode (w : OpWord) : Nat := ow w 23 17
def opNonSat (w : OpWord) : Bool := bit w 24
def opRateBits (w : OpWord) : Nat := ow w 26 25
/-- ECC words per ac (Table 3.2 RATE). -/
def opRate (w : OpWord) : Nat := 4 * 2 ^ opRateBits w

/-- Unit codes of Table 3.2. -/
def uCtrl : Nat := 0
def uArray : Nat := 1
def uFeed : Nat := 2
def uDrain : Nat := 3
def uVec : Nat := 4
def uMove : Nat := 5
def uVmem : Nat := 6

/-- The SRAM operand of R77. -/
def opAbase (w : OpWord) : Nat := ow w 35 32
def opOffset (w : OpWord) : Nat := ow w 58 36
def opAddrField (w : OpWord) : Nat := ow w 58 32
/-- Format in [62:59]: FMT_B, FMT, DFMT. -/
def opFmt (w : OpWord) : Nat := ow w 62 59
def runFmtF (w : OpWord) : Nat := ow w 66 63
def runT (w : OpWord) : Nat := ow w 74 67 + 1
def runAcc (w : OpWord) : Nat := ow w 82 75
def runU (w : OpWord) : Nat := ow w 89 83 + 1
def runInit (w : OpWord) : Bool := bit w 90
def runPop (w : OpWord) : Bool := bit w 91
def runBsrc (w : OpWord) : Bool := bit w 92
def floadU0 (w : OpWord) : Nat := ow w 69 63
def floadN (w : OpWord) : Nat := ow w 76 70 + 1
def drainAcc (w : OpWord) : Nat := ow w 70 63
def drainN (w : OpWord) : Nat := ow w 78 71 + 1
def drainVd (w : OpWord) : Nat := ow w 83 79
def vecD (w : OpWord) : Nat := ow w 36 32
def vecA (w : OpWord) : Nat := ow w 41 37
def vecB (w : OpWord) : Nat := ow w 46 42
def vecC (w : OpWord) : Nat := ow w 51 47
def vecLanes (w : OpWord) : Nat := ow w 60 52
def vecImm (w : OpWord) : BitVec 32 := BitVec.ofNat 32 (ow w 95 64)
def vecRule (w : OpWord) : Nat := ow w 97 96
def vrotHalf (w : OpWord) : Nat := ow w 70 64 + 1
def vrotAdjacent (w : OpWord) : Bool := bit w 71
def vupdBf16 (w : OpWord) : Bool := bit w 64
def vupdMonly (w : OpWord) : Bool := bit w 65
def vmemV (w : OpWord) : Nat := ow w 67 63
def vmemSr (w : OpWord) : Bool := bit w 68
def moveLen (w : OpWord) : Nat := ow w 78 59 + 1
def moveBank (w : OpWord) : Nat := ow w 82 79
def moveXword (w : OpWord) : Nat := ow w 102 83
def loopCount (w : OpWord) : Nat := ow w 55 32
def loopBody (w : OpWord) : Nat := ow w 75 56
def loopSpan (w : OpWord) : Nat := ow w 95 76
def stakeRdv (w : OpWord) : Nat := ow w 43 32
def stakeTimeout (w : OpWord) : Nat := ow w 59 44
def skipN (w : OpWord) : Nat := ow w 51 32
def aregN (w : OpWord) : Nat := ow w 35 32
def asetValue (w : OpWord) : BitVec 23 := BitVec.ofNat 23 (ow w 58 36)
def aaddImm (w : OpWord) : BitVec 23 := BitVec.ofNat 23 (ow w 59 36)
def routeIn (w : OpWord) : Nat := ow w 34 32
def routeOut (w : OpWord) : Nat := ow w 42 35
def routeHold (w : OpWord) : Nat := ow w 52 43
def routeOpen (w : OpWord) : Bool := bit w 53
def routeVsink (w : OpWord) : Bool := bit w 54

/-- A timeout field in ms: 0 means 1,000 (Table 3.13, R140). -/
def timeoutMs (n : Nat) : Nat := if n = 0 then 1000 else n

/-- Mask of bits [hi:lo]. -/
def ones (hi lo : Nat) : Nat := 2 ^ (hi + 1) - 2 ^ lo

/-- Operand bits that the tables name for an op (R74); none for a reserved UNIT or OPCODE. A row
that a table qualifies by ops names its bits for those ops only (DEDUCED, log 23). -/
def namedBits (unit code : Nat) : Option Nat :=
  match unit, code with
  | 0, 0 => some 0
  | 0, 1 => some 0
  | 0, 2 => some (ones 95 32)
  | 0, 3 => some 0
  | 0, 4 => some (ones 59 32)
  | 0, 5 => some (ones 51 32)
  | 0, 6 => some (ones 58 32)
  | 0, 7 => some (ones 59 32)
  | 1, 1 => some (ones 92 32)
  | 2, 1 => some (ones 76 32)
  | 3, 1 => some (ones 78 32)
  | 3, 2 => some (ones 83 63)
  | 4, c => if 1 ≤ c ∧ c ≤ 0x16 then
      some (ones 60 32 + ones 95 64 + (if c = 0x15 then ones 97 96 else 0)) else none
  | 5, 1 => some (ones 102 32)
  | 5, 2 => some (ones 102 32)
  | 5, 3 => some (ones 78 32)
  | 5, 4 => some (ones 78 32)
  | 5, 5 => some (ones 78 32 + ones 102 83)
  | 6, c => if 1 ≤ c ∧ c ≤ 4 then some (ones 68 32) else none
  | _, _ => none

def routeNamedBits (unit code : Nat) : Option Nat :=
  match unit, code with
  | 0, c => if c ≤ 5 then namedBits 0 c else none
  | 1, 1 => some (ones 54 32)
  | _, _ => none

/-- Whether SAT may be 1: an op that narrows (Table 3.2). -/
def opNarrows (w : OpWord) : Bool :=
  (decide (opUnit w = uVmem) && (decide (opCode w = 4) || (decide (opCode w = 2) && decide (opFmt w ≠ 3))))
  || (decide (opUnit w = uDrain) && decide (opCode w = 1) && decide (opFmt w = 2))

def headerOk (w : OpWord) (rateOk satOk : Bool) : Bool :=
  decide (ow w 31 27 = 0) && (rateOk || decide (opRateBits w = 0)) && (satOk || !opNonSat w)

def onlyNamed (w : OpWord) (named : Option Nat) : Bool :=
  match named with
  | none => false
  | some m => decide ((w.toNat / 2 ^ 32 * 2 ^ 32) &&& m = w.toNat / 2 ^ 32 * 2 ^ 32)

/-- R80: the pairs of Table 2.7. -/
def fmtPairOk (b f : Nat) : Bool :=
  decide ((b ≤ 1 ∧ f ≤ 1) ∨ (b = 4 ∧ (f = 4 ∨ f = 5)) ∨ (b = 5 ∧ f = 4) ∨ (b = 6 ∧ f = 6)
    ∨ (b = 2 ∧ (f = 0 ∨ f = 1 ∨ f = 2 ∨ f = 4 ∨ f = 5))
    ∨ (f = 2 ∧ (b = 0 ∨ b = 1 ∨ b = 4 ∨ b = 5)))

/-- Rows of FLOAD must come in multiples of this (Table 3.7). -/
def floadMultiple (fmt : Nat) : Nat := if fmt = 4 ∨ fmt = 5 then 8 else if fmt = 6 then 4 else 1

/-- The rules of each op's operands (R77 apart, which needs the address register). VLDB and VSTB name four registers, and the
spec is silent on a V above 28, which would name registers beyond v31: the model takes such a word as one of reserved
encoding (R94; DESIGN CHOICE, log 68). -/
def operandsOk (w : OpWord) : Bool :=
  match opUnit w with
  | 1 => fmtPairOk (opFmt w) (runFmtF w) && decide (runAcc w + runT w ≤ 256) &&
      (!runBsrc w || decide (opAddrField w = 0))
  | 2 => decide (opFmt w ≤ 6 ∧ opFmt w ≠ 3) && decide (floadU0 w + floadN w ≤ 128) &&
      decide (floadN w % floadMultiple (opFmt w) = 0)
  | 3 => decide (drainAcc w + drainN w ≤ 256) &&
      (if opCode w = 1 then decide (opFmt w = 2 ∨ opFmt w = 3) else decide (drainVd w + (drainN w - 1) / 2 ≤ 31))
  | 4 => decide (1 ≤ vecLanes w ∧ vecLanes w ≤ 256) &&
      (if opCode w = 0x14 then
        decide (ow w 95 72 = 0) &&
          decide (vecLanes w % (if vrotAdjacent w then 2 else 2 * vrotHalf w) = 0)
      else if opCode w = 0x15 then
        decide (ow w 95 66 = 0) && (!vupdMonly w || decide (vecRule w = 1 ∨ vecRule w = 3)) &&
          decide (vecC w + (if vecRule w = 3 then 3 else 1) ≤ 31) &&
          decide (vecD w + (if vecRule w = 3 then 2 else if vecRule w = 0 then 0 else 1) ≤ 31)
      else true)
  | 6 => (if opCode w ≤ 2 then decide (opFmt w ≤ 3)
      else decide (opFmt w = 4 ∨ opFmt w = 5) && decide (vmemV w + 3 ≤ 31)) &&
      (!vmemSr w || (decide (opCode w = 4) && decide (opFmt w = 4)))
  | _ => true

/-- An op word of a core that no rule of its encoding breaks (R5, R74, R80, R91, R95, R228, R308). -/
def coreWordOk (w : OpWord) : Bool :=
  headerOk w (decide (opUnit w = uFeed) || decide (opUnit w = uVmem)) (opNarrows w) &&
    onlyNamed w (namedBits (opUnit w) (opCode w)) && operandsOk w

/-- A route word that no rule of its encoding breaks (R116, Table 4.2). -/
def routeWordOk (w : OpWord) : Bool :=
  headerOk w false false && onlyNamed w (routeNamedBits (opUnit w) (opCode w)) &&
    (decide (opUnit w = 0) || decide (routeOut w ≠ 0))

/-- Words of one row or vector (Table 3.3). -/
def rowWords (fmt : Nat) : Nat :=
  match fmt with
  | 2 => 8
  | 5 => 2
  | _ => 4

/-- Blocks of one row; 0 for formats without blocks. -/
def rowBlocks (fmt : Nat) : Nat := if fmt = 6 then 8 else if fmt = 4 ∨ fmt = 5 then 4 else 0

/-- Rows in one block group (R82, R84). -/
def rowsPerGroup (fmt : Nat) : Nat := if fmt = 6 then 4 else 8

/-- Words of one block group. -/
def groupLen (fmt : Nat) : Nat := if fmt = 4 then 33 else 17

/-- Words read by FLOAD (Table 3.7). -/
def floadWords (fmt n : Nat) : Nat :=
  if rowBlocks fmt = 0 then rowWords fmt * n else groupLen fmt * (n / rowsPerGroup fmt)

/-- Latency and interval of VEC ops (Table 3.10). -/
def vecTiming (code : Nat) : Nat × Nat :=
  if code ≤ 6 then (4, 1)
  else if code ≤ 0x0A then (2, 1)
  else if code ≤ 0x0F then (10, 2)
  else match code with
    | 0x10 => (14, 4)
    | 0x11 => (14, 4)
    | 0x12 => (20, 4)
    | 0x13 => (12, 4)
    | 0x14 => (12, 2)
    | 0x15 => (18, 2)
    | _ => (1, 1)

/-- Words of a VMEM op: 256 elements of the format, or one block group. -/
def vmemWords (code fmt : Nat) : Nat :=
  if code ≥ 3 then groupLen fmt else if fmt ≤ 1 then 8 else if fmt = 2 then 16 else 32

end Sys2Proof.Machine
end

