-- ==== Sys2Proof/Machine/Table.lean ====
section
/-! DEFINITION. Sparse tables as plain data: keys strictly rising, no entry equal to what an
unlisted key reads as, so that equal tables are equal lists. -/

namespace Sys2Proof.Machine

/-- A sparse table: pairs of key and value, keys strictly rising. -/
abbrev Tbl (α : Type) := List (Nat × α)

/-- The entry at a key. -/
def tblFind {α : Type} : Tbl α → Nat → Option α
  | [], _ => none
  | (k, v) :: t, q => if q = k then some v else tblFind t q

/-- Reading a table whose unlisted keys read as d. -/
def tblGet {α : Type} (d : α) (t : Tbl α) (k : Nat) : α := (tblFind t k).getD d

/-- Enter or replace an entry. -/
def tblPut {α : Type} : Tbl α → Nat → α → Tbl α
  | [], q, v => [(q, v)]
  | (k, w) :: t, q, v =>
    if q < k then (q, v) :: (k, w) :: t
    else if q = k then (q, v) :: t
    else (k, w) :: tblPut t q v

/-- Remove an entry. -/
def tblDel {α : Type} : Tbl α → Nat → Tbl α
  | [], _ => []
  | (k, w) :: t, q => if q = k then tblDel t q else (k, w) :: tblDel t q

/-- Write a table whose unlisted keys read as d: writing d removes the entry. -/
def tblSet {α : Type} [DecidableEq α] (d : α) (t : Tbl α) (k : Nat) (v : α) : Tbl α :=
  if v = d then tblDel t k else tblPut t k v

/-- Every key of the table is above a bound and the keys rise strictly. -/
def tblRising {α : Type} : Option Nat → Tbl α → Bool
  | _, [] => true
  | lo, (k, _) :: t => (match lo with | none => true | some b => decide (b < k)) && tblRising (some k) t

/-- The canonical form of a table with default d. -/
def tblWf {α : Type} [DecidableEq α] (d : α) (t : Tbl α) : Bool :=
  tblRising none t && t.all (fun e => decide (e.2 ≠ d))

/-- Change an entry by a function of its value. -/
def tblMod {α : Type} [DecidableEq α] (d : α) (t : Tbl α) (k : Nat) (f : α → α) : Tbl α :=
  tblSet d t k (f (tblGet d t k))

/-- Write a list of values at consecutive keys. -/
def tblFill {α : Type} [DecidableEq α] (d : α) : Tbl α → Nat → List α → Tbl α
  | t, _, [] => t
  | t, k, v :: vs => tblFill d (tblSet d t k v) (k + 1) vs

end Sys2Proof.Machine
end

