-- ==== Sys2Proof/Machine/TypesCore.lean ====
section
/-! DEFINITION. State of cores, routers, wells, vault controllers and the umpire (03, 04, 05).
Times named sigma are schedule ac: ac from program stroke 0 with held strokes left out (R131, R453). -/

namespace Sys2Proof.Machine

/-- A LOOP in progress (R99): store indices of the first body word and of the word after the body,
COUNT, iteration, the stroke p, SPAN, and whether EXIT_IF has ended it. -/
structure LoopFrame where
  first : Nat
  stop : Nat
  count : Nat
  iter : Nat
  base : Nat
  spanStrokes : Nat
  leaving : Bool
deriving DecidableEq, Repr

/-- The issue logic of a core or router (R75, R99-R102). `reached` is the sigma of the last op's
start, `doneAt` the sigma from which all issued ops are complete, `win` the end of the variant in
issue and the word after its window (R216). -/
structure Issue where
  idx : Nat
  stroke : Nat
  reached : Nat
  frames : List LoopFrame
  win : Option (Nat × Nat)
  halted : Bool
  waiting : Option Nat
  stakeStroke : Nat
  outcome : BitVec 32
  stopped : Bool
  doneAt : Nat
  unitBusy : Tbl Nat
deriving DecidableEq, Repr

def Issue.start : Issue :=
  { idx := 0, stroke := 0, reached := 0, frames := [], win := none, halted := false, waiting := none,
    stakeStroke := 0, outcome := 0, stopped := false, doneAt := 0, unitBusy := [] }

/-- A row in a feeder queue: the FLOAD in flight that brings it (its id, its store index) and which of its rows it is,
format code, element words in order, block scales, and the sigma from which it is valid (R86-R88). -/
structure FeedRow where
  id : Nat
  op : Nat
  k : Nat
  fmt : Nat
  words : List EccWord
  scales : List Nat
  validFrom : Nat
deriving DecidableEq, Repr

/-- What a unit of a core or of its vault does in one ac of an op in flight; j counts the op's words. `read` takes word j
at an address; `lost` is such an access that a bank collision kept from being performed (R103); `put` writes word j of the
op, `store` a word known already; `push`, `row`, `enter`, `slot` and `pop` are the feeder and array steps of R86 to R88 and
Table 3.5; `drain` reads accumulator slot ACC + i (R89); `load` ends a load of registers; `flit` fills flit f of an MSEND;
`want` is a delivery that an op expects, `unserved` a flit that nothing takes (R115); `fault` is a fault that falls due;
`nbRead`, `nbForm` and `nbEnd` are steps of the command in a bank (R201, R202). -/
inductive Act where
  | read (j addr : Nat)
  | lost (j : Nat)
  | put (j addr : Nat)
  | store (addr : Nat) (word : EccWord)
  | push (q k validFrom : Nat)
  | row (q k : Nat)
  | enter
  | slot (i : Nat)
  | pop
  | drain (i : Nat)
  | load
  | flit (f : Nat)
  | want (op : Nat)
  | unserved (op : Nat)
  | fault (op code detail : Nat)
  | nbRead (bank j addr : Nat)
  | nbForm (bank : Nat)
  | nbEnd (bank : Nat)
deriving DecidableEq, Repr

/-- A step of work with its sigma; a late one falls at the end of its ac. `id` names the op in flight. -/
structure Job where
  at' : Nat
  late : Bool
  id : Nat
  act : Act
deriving DecidableEq, Repr

/-- An op in flight: its id (start sigma * 32768 + store index + 1), start, store index, word, effective SRAM offset, the words
it has read so far by number, and the rows a RUN found at the heads of its queues. -/
structure Flight where
  id : Nat
  start : Nat
  op : Nat
  word : OpWord
  off : Nat
  got : Tbl EccWord
  rows : List FeedRow
deriving DecidableEq, Repr

/-- A result on its way to vector registers: readable from sigma `ready` (R92, R93). -/
structure RegWrite where
  ready : Nat
  vals : List (Nat × F32)
deriving DecidableEq, Repr

/-- What takes a flit delivered in a given ac (R113-R115): an MRECV, or the RUN in flight of an id. -/
inductive Taker where
  | recv (addr : Nat) (n : Nat)
  | run (id : Nat)
deriving DecidableEq, Repr

structure Expect where
  at' : Nat
  op : Nat
  taker : Taker
deriving DecidableEq, Repr

/-- What a flit is: words of a core, a WREAD descriptor with its requester (core number), a well
reply flit, or an open flit with its route and the port whose engine sent it (R109, R120-R127). -/
inductive FlitKind where
  | data
  | desc (xword len core : Nat)
  | reply (xword len f : Nat)
  | opened (route port : Nat)
deriving DecidableEq, Repr

/-- A mesh flit: eight ECC words; an empty flit carries no valid mark. -/
structure MeshFlit where
  valid : Bool
  kind : FlitKind
  words : List EccWord
deriving DecidableEq, Repr

/-- A flit delivered to a core in ac `at'` and not yet taken. -/
structure Arrived where
  at' : Nat
  flit : MeshFlit
deriving DecidableEq, Repr

/-- A WREAD whose reply is not complete: its op index, next flit expected (R97, R122). -/
structure WreadWait where
  op : Nat
  xword : Nat
  len : Nat
  addr : Nat
  nextFlit : Nat
deriving DecidableEq, Repr

/-- One core (Table 3.1). Registers are keyed by reg*256 + lane, accumulators by unit*256 + slot; `todo` is the work of its
ops in flight, and of the near-bank commands of its vault, in the order of its ac. -/
structure CoreState where
  iss : Issue
  aregs : Tbl (BitVec 23)
  aPend : List (Nat × Nat × BitVec 23)
  vregs : Tbl F32
  vPend : List RegWrite
  acc : Tbl F32
  accReady : Tbl Nat
  feed : Tbl (List FeedRow)
  gens : Tbl (BitVec 16)
  seeded : Bool
  bankUse : List Nat
  todo : List Job
  flights : List Flight
  expects : List Expect
  arrived : List Arrived
  wreads : List WreadWait
deriving DecidableEq, Repr

/-- A core as R69 leaves it when a program starts. -/
def CoreState.start : CoreState :=
  { iss := Issue.start, aregs := [], aPend := [], vregs := [], vPend := [], acc := [], accReady := [],
    feed := [], gens := [], seeded := false, bankUse := [], todo := [], flights := [], expects := [],
    arrived := [], wreads := [] }

/-- A connection that a ROUTE holds (R117): `shown` is the sigma of the next open flit to present. -/
structure Conn where
  idx : Nat
  inp : Nat
  out : Nat
  since : Nat
  last : Nat
  opened : Bool
  vsink : Bool
  shown : Nat
deriving DecidableEq, Repr

/-- A router: its issue logic, the connections that it holds, and the outputs that a flit took lately, as ac * 8 + port
(R112, R115). -/
structure RouterState where
  iss : Issue
  conns : List Conn
  outUse : List Nat
deriving DecidableEq, Repr

def RouterState.start : RouterState := { iss := Issue.start, conns := [], outUse := [] }

/-- A flit on its way to a router input: column number, port code, sigma of presence (R110); and, for one that an MSEND or a
well read has still to fill, the id of that op or read and its number there. -/
structure InFlight where
  col : Nat
  port : Nat
  at' : Nat
  flit : MeshFlit
  from' : Nat := 0
  nth : Nat := 0
deriving DecidableEq, Repr

/-- A merge group of a well controller (R121): first arrival, operands, members as arrival and core number. -/
structure MergeGroup where
  first : Nat
  xword : Nat
  len : Nat
  members : List (Nat × Nat)
deriving DecidableEq, Repr

/-- A read of a well that is due (R122): its sigma, the operands of its group, its flit, the id under which the reply flits
of the group wait for their words, and the members. -/
structure WellRead where
  at' : Nat
  xword : Nat
  len : Nat
  flit : Nat
  id : Nat
  cores : List Nat
deriving DecidableEq, Repr

/-- A well controller: descriptors on the way (arrival, XWORD, LEN, core number), merge groups, reads that are due, reply
flits by the sigma of their read and of their presentation (R124), bank use. -/
structure WellState where
  inbox : List (Nat × Nat × Nat × Nat)
  groups : List MergeGroup
  reads : List WellRead
  replies : List (Nat × Nat)
  bankUse : List Nat
deriving DecidableEq, Repr

def WellState.idle : WellState := { inbox := [], groups := [], reads := [], replies := [], bankUse := [] }

/-- An open flit on its way into its sink: it reached the sink's router output in sigma `at'` and is not yet written
(R128, R180). -/
structure OpenFlit where
  words : List EccWord
  route : Nat
  port : Nat
  at' : Nat
deriving DecidableEq, Repr

/-- A near-bank command in its bank (R200-R202): start and end in sigma, start of its final phase, its word, the words it
has read by number, and its result words by physical address. A REDUCE stands in every bank that it names, with what it
has read and its results in the bank of its results. -/
structure NbRun where
  start : Nat
  final : Nat
  stop : Nat
  word : EccWord
  got : Tbl EccWord
  results : List (Nat × EccWord)
deriving DecidableEq, Repr

/-- A near-bank unit: commands that wait for their start boundary, and the one that runs. -/
structure NbUnit where
  queued : List (Nat × EccWord)
  running : Option NbRun
deriving DecidableEq, Repr

def NbUnit.idle : NbUnit := { queued := [], running := none }

/-- A host access held at a bank (R207): its tag, direction, physical address, and for a write each
word with its stamp. -/
structure HeldAcc where
  tag : Nat
  write : Bool
  addrs : List Nat
  words : List (EccWord × Option (BitVec 32))
  arrived : Nat
deriving DecidableEq, Repr

/-- A vault controller: spare bonds in use, times of corrected symbols by bond (R182), bonds due for
replacement, whether the channel has retired its core (R183), channel and bank use by scheduled transfers, latest refresh
row by bank, refreshes so far, and the start of the present round over the rows (R192). -/
structure VaultState where
  spares : Nat
  symbols : List (Nat × Time)
  dueBonds : List Nat
  retired : Bool
  chanUse : List (Nat × Bool)
  bankUse : List Nat
  refreshRow : Tbl Nat
  refreshes : Tbl Nat
  roundAt : Tbl Time
  held : Tbl (List HeldAcc)
deriving DecidableEq, Repr

def VaultState.idle : VaultState :=
  { spares := 0, symbols := [], dueBonds := [], retired := false, chanUse := [], bankUse := [], refreshRow := [],
    refreshes := [], roundAt := [], held := [] }

/-- Patrol scrub (R193-R195): words read in the pass, as address / 32, start of the pass, its interval in
hours, and whether the present interval has been counted late. -/
structure ScrubState where
  seen : List Nat
  passStart : Time
  hours : Nat
  late : Bool
deriving DecidableEq, Repr

/-- The restart point of R143: issue state and address registers by unit. -/
structure RestartPoint where
  stroke : Nat
  cores : List (Nat × Issue × Tbl (BitVec 23))
  routers : List (Nat × Issue)
deriving DecidableEq, Repr

/-- A repair in progress (Table 4.13): the lost cores with the causes of their loss (R486)
and the instant of the boundary. -/
structure Repair where
  lost : List (CoreId × Nat)
  since : Time
deriving DecidableEq, Repr

/-- A release that is due (R136, R450): rendezvous, release word, the program stroke at whose boundary
it takes place, and whether shedding delays it. -/
structure Due where
  rdv : Nat
  word : BitVec 32
  at' : Nat
  shed : Bool
deriving DecidableEq, Repr

/-- The umpire (04): start pending and its stroke 0 in ac; held strokes so far; the schedule stroke
in progress and the ac of the next boundary; whether the stroke in progress is held; whether its rendezvous are evaluated, and the instant of the latest evaluation; mailboxes;
arrivals at rendezvous (rendezvous, unit id, sigma); timers (R138); releases due; step state; the
split selections set for the dispatches to come with their batch sizes, and the one in force, as variants by
window (R215-R217); the agreed level that waits for a step release (R458); cores whose program has moved one place east under a shift repair (R163), by
the number of the original position; the instant at which the latest program left RUNNING (R402). -/
structure Umpire where
  startPending : Bool
  zeroAc : Nat
  begun : Bool
  held : Nat
  stroke : Nat
  nextB : Nat
  holding : Bool
  evaluated : Bool
  evalAt : Time
  mailboxes : Tbl (BitVec 64)
  arrivals : List (Nat × Nat × Nat)
  timers : Tbl Time
  due : List Due
  stepBegun : Bool
  deadlineBase : Time
  stepStart : Time
  restart : Option RestartPoint
  repair : Option Repair
  selNext : List (Nat × List (Nat × Nat))
  sel : List (Nat × Nat)
  agreed : Option Nat
  moved : List Nat
  leftAt : Option Time
deriving DecidableEq, Repr

def Umpire.idle : Umpire :=
  { startPending := false, zeroAc := 0, begun := false, held := 0, stroke := 0, nextB := 0,
    holding := false, evaluated := false, evalAt := 0, mailboxes := [], arrivals := [], timers := [], due := [],
    stepBegun := false, deadlineBase := 0, stepStart := 0, restart := none, repair := none,
    selNext := [], sel := [], agreed := none, moved := [], leftAt := none }

/-- A rendezvous of the image (Table 4.8) with its participants (R133) and its shed delay D in strokes,
0 when it is not sheddable (R451). -/
structure RdvEntry where
  id : Nat
  refs : List (Nat × Nat)
  release : Bool
  timeoutMs : Nat
  units : List Nat
  shed : Nat
deriving DecidableEq, Repr

/-- A mailbox of the image (Table 4.9). -/
structure MbEntry where
  id : Nat
  kind : Nat
  watch : Nat
  tag : Nat
deriving DecidableEq, Repr

/-- A split table entry (Table 5.11): layer, window, variants, SEL for 9-31, SHARE for 1-6. -/
structure SplitEntry where
  layerId : Nat
  window : Nat
  nvar : Nat
  sel : List Nat
  share : List Nat
deriving DecidableEq, Repr

/-- A variant map record (Table 5.12). -/
structure VariantRec where
  uid : Nat
  window : Nat
  first : Nat
  lens : List Nat
deriving DecidableEq, Repr

/-- The split table as loaded (R214). -/
structure Split where
  rdv : Nat
  entries : List SplitEntry
  recs : List VariantRec
deriving DecidableEq, Repr

/-- The thermal ledger (R155, R156): windows, REPEAT, and the entries' bytes. -/
structure Ledger where
  windows : Nat
  repeatAt : Nat
  bytes : List Byte
deriving DecidableEq, Repr

/-- A pair of the shift section (R165). -/
structure ShiftPair where
  bank : Nat
  a : Nat
  b : Nat
  len : Nat
deriving DecidableEq, Repr

/-- An open route (R126): key router number * 16384 + route word index, the port of its engine, and
the sinks it ends at by sink key. -/
structure OpenRoute where
  key : Nat
  port : Nat
  sinks : List Nat
deriving DecidableEq, Repr

/-- The loaded image beyond its programs (Table 4.6): programs as UNIT_ID and word count, and the
numbers of the cores that the floor plan listed as not usable at load (R160). -/
structure Image where
  digest : BitVec 384
  floorGen : BitVec 64
  floorDigest : BitVec 384
  reserve : Bool
  stepRdv : Nat
  deadlineMs : Nat
  programs : List (Nat × Nat)
  rdvs : List RdvEntry
  mbs : List MbEntry
  ledger : Ledger
  pairs : List ShiftPair
  openRoutes : List OpenRoute
  split : Option Split
  deadCores : List Nat
deriving DecidableEq, Repr

/-- A floor plan (13 Table 13.8): generation, bytes of the sections by offset (unlisted bytes are 0),
and shift records. -/
structure Plan where
  gen : BitVec 64
  units : Tbl Byte
  shifts : List (BitVec 64)
deriving DecidableEq, Repr

end Sys2Proof.Machine
end

