-- ==== Sys2Proof/Machine/CoreData.lean ====
section
/-! DEFINITION. What the ops of a core read, when, and what they compute from it, without the state of the module (03 R79-R95,
Tables 3.5, 3.7, 3.8, 3.11; 02 R42-R60). -/

namespace Sys2Proof.Machine

/-- An access of an op to core SRAM: sigma, byte offset, and whether it reads. -/
structure SramAcc where
  at' : Nat
  off : Nat
  read : Bool
deriving DecidableEq, Repr

/-- Bank and ac of an access as one key (R70). -/
def SramAcc.key (a : SramAcc) : Nat := a.at' * 32 + a.off / 32 % 32

/-- Word offset, from the first word of a tile, of word j of row i (R82, R84). -/
def rowWordOff (fmt i j : Nat) : Nat :=
  if rowBlocks fmt = 0 then i * rowWords fmt + j
  else i / rowsPerGroup fmt * groupLen fmt + i % rowsPerGroup fmt * rowWords fmt + j

/-- Word offset of the scale word of row i's group. -/
def scaleWordOff (fmt i : Nat) : Nat := i / rowsPerGroup fmt * groupLen fmt + groupLen fmt - 1

/-- The scales of row i in its group's scale word. -/
def rowScales (fmt i : Nat) (scaleWord : EccWord) : List Nat :=
  let r := rowBlocks fmt
  (List.range r).map fun b => (byteAt scaleWord (i % rowsPerGroup fmt * r + b)).toNat

def runWide (w : OpWord) : Bool := decide (opFmt w = 2) || decide (runFmtF w = 2)

/-- The ac in which word j of vector i is read or delivered (Table 3.5). -/
def runWordAc (w : OpWord) (sg i j : Nat) : Nat :=
  if runWide w then sg + 4 * i + 4 * j / rowWords (opFmt w) else sg + i

/-- Whether the run reads the scale word with vector i (R82). -/
def runReadsScale (w : OpWord) (i : Nat) : Bool :=
  decide (rowBlocks (opFmt w) ≠ 0) && decide (i % rowsPerGroup (opFmt w) = 0)

/-- Accesses of a RUN that reads core SRAM, vector by vector. -/
def runAccs (w : OpWord) (sg off : Nat) : List SramAcc :=
  (List.range (runT w)).flatMap fun i =>
    ((List.range (rowWords (opFmt w))).map fun j =>
      ({ at' := runWordAc w sg i j, off := off + 32 * rowWordOff (opFmt w) i j, read := true } : SramAcc)) ++
    (if runReadsScale w i then
      [{ at' := runWordAc w sg i 0, off := off + 32 * scaleWordOff (opFmt w) i, read := true }] else [])

/-- Slot key of a unit (R79). -/
def accKey (u a : Nat) : Nat := u * 256 + a

/-- Add the dot products of one vector to slot `a` of units u0 onward. -/
def addVector (fmtB fmtF : Nat) (vw : List EccWord) (vs : List Nat) (init : Bool) (a : Nat) :
    List FeedRow → Nat → Tbl F32 × Ev → Tbl F32 × Ev
  | [], _, r => r
  | h :: hs, u, (t, e) =>
    let old := if init then 0 else tblGet 0 t (accKey u a)
    let d := rowDot fmtB vw vs fmtF h.words h.scales old
    addVector fmtB fmtF vw vs init a hs (u + 1) (tblSet 0 t (accKey u a) d.1, e.plus d.2)

/-- End of ac in which slot ACC + i is updated, plus one: drainable from then on (R81, R90). -/
def slotReady (w : OpWord) (sg i : Nat) : Nat := if runWide w then sg + 4 * i + 16 else sg + i + 13

/-- ARRAY's busy time (Table 3.5). -/
def runBusy (w : OpWord) : Nat := if runWide w then 4 * runT w else runT w

/-- FEED's busy time (R85). -/
def floadBusy (w : OpWord) : Nat := ceilDiv (floadWords (opFmt w) (floadN w)) (opRate w)

/-- Ac in which word j of an FLOAD is read (R85). -/
def floadAc (w : OpWord) (sg j : Nat) : Nat := sg + j / opRate w

/-- Slot of all 128 units, in unit order. -/
def CoreState.slot (k : CoreState) (a : Nat) : List F32 := (List.range 128).map fun u => tblGet 0 k.acc (accKey u a)

/-- Words of a slot in core SRAM: FP32, or BF16 under R45 and R48. -/
def slotWords (fmt : Nat) (vals : List F32) : List EccWord × Ev :=
  if fmt = 3 then (packWords 4 (vals.map BitVec.toNat), Ev.zero)
  else
    let r := evMap (fun v => narrowBf16 (xOfF32 v)) vals
    (packWords 2 (r.1.map BitVec.toNat), r.2)

/-- Enter a register result, ordered by the ac from which it may be read; of one ac the later in
store order stands last and prevails (R93). -/
def insertResult (r : RegWrite) : List RegWrite → List RegWrite
  | [] => [r]
  | v :: vs => if r.ready < v.ready then r :: v :: vs else v :: insertResult r vs

def CoreState.addResults (k : CoreState) (rs : List RegWrite) : CoreState :=
  { k with vPend := rs.foldl (fun l r => insertResult r l) k.vPend }

/-- Key of a register lane. -/
def laneKey (v lane : Nat) : Nat := v * 256 + lane

/-- Results to lanes 0 onward of a register. -/
def regWrite (ready v : Nat) (vals : List F32) : RegWrite :=
  { ready := ready, vals := vals.zipIdx.map fun p => (laneKey v p.2, p.1) }

/-- Bytes of one element of FMT 0x0 to 0x3. -/
def elemBytes (fmt : Nat) : Nat := if fmt ≤ 1 then 1 else if fmt = 2 then 2 else 4

/-- Widening of one element to FP32; FP32 patterns move unchanged (R94, R226). -/
def widenElem (fmt n : Nat) : F32 :=
  match fmt with
  | 0 => f32OfX (xOfE4m3 (BitVec.ofNat 8 n))
  | 1 => f32OfX (xOfE5m2 (BitVec.ofNat 8 n))
  | 2 => f32OfX (xOfBf16 (BitVec.ofNat 16 n))
  | _ => BitVec.ofNat 32 n

/-- Narrowing of one FP32 lane (R45-R48); FP32 patterns move unchanged. -/
def narrowElem (fmt : Nat) (nonSat : Bool) (v : F32) : Nat × Ev :=
  match fmt with
  | 0 => let r := narrowE4m3 nonSat (xOfF32 v); (r.1.toNat, r.2)
  | 1 => let r := narrowE5m2 nonSat (xOfF32 v); (r.1.toNat, r.2)
  | 2 => let r := narrowBf16 (xOfF32 v); (r.1.toNat, r.2)
  | _ => (v.toNat, Ev.zero)

def vmemBusy (w : OpWord) : Nat := ceilDiv (vmemWords (opCode w) (opFmt w)) (opRate w)

end Sys2Proof.Machine
end

