-- ==== Sys2Proof/Machine/Geometry.lean ====
section
/-! DEFINITION. Coordinates, regions, wells, router ports and the address map (01 R13-R22, R108,
R110; Table 4.1). -/

namespace Sys2Proof
open Machine

/-- Column number n = s*360 + y*18 + x (R156). -/
def colNum (s x y : Nat) : Nat := s * 360 + y * 18 + x

def ColId.num (c : ColId) : Nat := colNum c.s.val c.x.val c.y.val

def CoreId.col (c : CoreId) : ColId := ⟨c.s, c.x, c.y⟩

/-- Number of a core or vault: three to a column, by LAYER code. -/
def CoreId.num (c : CoreId) : Nat := 3 * c.col.num + (c.layer.code - 1)

def layerOfCode (n : Nat) : Layer := if n = 1 then .c2 else if n = 2 then .c4 else .c6

/-- A column from its number. -/
def colOfNum (n : Nat) : ColId :=
  ⟨Fin.ofNat 12 (n / 360), Fin.ofNat 18 (n % 18), Fin.ofNat 20 (n % 360 / 18)⟩

def coreOfNum (n : Nat) : CoreId :=
  let c := colOfNum (n / 3)
  ⟨c.s, c.x, c.y, layerOfCode (n % 3 + 1)⟩

/-- UNIT_ID of Tables 3.16 and 4.7: STACK [3:0], X [8:4], Y [13:9], LAYER [15:14]. -/
def unitId (s x y layer : Nat) : Nat := s + 16 * x + 512 * y + 16384 * layer

def CoreId.uid (c : CoreId) : Nat := unitId c.s.val c.x.val c.y.val c.layer.code

def ColId.uid (c : ColId) : Nat := unitId c.s.val c.x.val c.y.val 0

/-- The unit of a UNIT_ID: LAYER 0b00 names a router; none outside the module. -/
def unitOfUid (u : Nat) : Option UnitId :=
  let s := u % 16; let x := u / 16 % 32; let y := u / 512 % 32; let l := u / 16384
  if hs : s < 12 then
    if hx : x < 18 then
      if hy : y < 20 then
        if l = 0 then some (.router ⟨⟨s, hs⟩, ⟨x, hx⟩, ⟨y, hy⟩⟩)
        else some (.core ⟨⟨s, hs⟩, ⟨x, hx⟩, ⟨y, hy⟩, layerOfCode l⟩)
      else none
    else none
  else none

/-- Power region of a column (R16). -/
def ColId.region (c : ColId) : RegionId := ⟨c.s, Fin.ofNat 30 (c.y.val / 4 * 6 + c.x.val / 3)⟩

def RegionId.num (w : RegionId) : Nat := w.s.val * 30 + w.r.val

def regionOfNum (n : Nat) : RegionId := ⟨Fin.ofNat 12 (n / 30), Fin.ofNat 30 n⟩

/-- The well router of a region (R108). -/
def RegionId.router (w : RegionId) : ColId :=
  ⟨w.s, Fin.ofNat 18 (3 * (w.r.val % 6) + 1), Fin.ofNat 20 (4 * (w.r.val / 6) + 1)⟩

/-- Columns of a region. -/
def RegionId.cols (w : RegionId) : List ColId :=
  (span (4 * (w.r.val / 6)) 4).flatMap fun y =>
    (span (3 * (w.r.val % 6)) 3).map fun x => ⟨w.s, Fin.ofNat 18 x, Fin.ofNat 20 y⟩

/-- The region whose well router this column holds. -/
def ColId.wellOf (c : ColId) : Option RegionId :=
  if c.region.router = c then some c.region else none

end Sys2Proof

namespace Sys2Proof.Machine

/-- Port code of Table 4.1. -/
def portCode : RPort → Nat
  | .n => 0 | .e => 1 | .s => 2 | .w => 3 | .l2 => 4 | .l4 => 5 | .l6 => 6 | .aux => 7

def portOfCode (n : Nat) : RPort :=
  match n with
  | 0 => .n | 1 => .e | 2 => .s | 3 => .w | 4 => .l2 | 5 => .l4 | 6 => .l6 | _ => .aux

/-- The layer of an L port. -/
def portLayer : RPort → Option Layer
  | .l2 => some .c2 | .l4 => some .c4 | .l6 => some .c6 | _ => none

def layerPort : Layer → RPort
  | .c2 => .l2 | .c4 => .l4 | .c6 => .l6

/-- The neighbour on a mesh port and the input port it is reached at (Table 4.1, R18). -/
def neighbour (c : ColId) (p : RPort) : Option (ColId × RPort) :=
  let s := c.s.val; let x := c.x.val; let y := c.y.val
  let at' := fun s x y => (⟨Fin.ofNat 12 s, Fin.ofNat 18 x, Fin.ofNat 20 y⟩ : ColId)
  match p with
  | .n => if y > 0 then some (at' s x (y - 1), .s) else if s ≥ 4 then some (at' (s - 4) x 19, .s) else none
  | .e => if x < 17 then some (at' s (x + 1) y, .w) else if s % 4 < 3 then some (at' (s + 1) 0 y, .w) else none
  | .s => if y < 19 then some (at' s x (y + 1), .n) else if s ≤ 7 then some (at' (s + 4) x 0, .n) else none
  | .w => if x > 0 then some (at' s (x - 1) y, .e) else if s % 4 > 0 then some (at' (s - 1) 17 y, .e) else none
  | _ => none

/-- Hop cost between neighbouring routers (R110, R15). -/
def hopCost (a b : ColId) : Nat :=
  if a.s ≠ b.s then 6
  else if a.x.val / 9 ≠ b.x.val / 9 ∨ a.y.val / 10 ≠ b.y.val / 10 then 3 else 2

/-- Base address of a core's SRAM (R20). -/
def sramBase (c : CoreId) : Nat :=
  2 ^ 52 + c.s.val * 2 ^ 48 + c.x.val * 2 ^ 43 + c.y.val * 2 ^ 38 + c.layer.code * 2 ^ 36

/-- Address of a vault bank (R19). -/
def bankBase (c : CoreId) (bank : Nat) : Nat :=
  c.s.val * 2 ^ 48 + c.x.val * 2 ^ 43 + c.y.val * 2 ^ 38 + c.layer.code * 2 ^ 36 + bank * 2 ^ 25

/-- Base address of a well (R21). -/
def wellBase (w : RegionId) : Nat := 2 * 2 ^ 52 + w.s.val * 2 ^ 48 + w.r.val * 2 ^ 43

/-- Bytes populated in a vault bank, a core SRAM and a well. -/
def bankBytes : Nat := 0x1C00000
def sramBytes : Nat := 0x800000
def wellBytes : Nat := 0x1000000

/-- What a physical address names. -/
inductive Place where
  | vault (c : CoreId) (bank : Nat) (off : Nat)
  | sram (c : CoreId) (off : Nat)
  | well (w : RegionId) (off : Nat)
deriving DecidableEq, Repr

/-- Decode a physical address (R19-R21); none where R22's address conditions, other than naming a
dead unit, are met. -/
def placeOf (a : Nat) : Option Place :=
  let sp := a / 2 ^ 52
  let s := a / 2 ^ 48 % 16
  let x := a / 2 ^ 43 % 32
  let y := a / 2 ^ 38 % 32
  let l := a / 2 ^ 36 % 4
  if s ≥ 12 then none
  else if sp = 2 then
    if x ≥ 30 ∨ a / 2 ^ 24 % 2 ^ 19 ≠ 0 then none
    else some (.well ⟨Fin.ofNat 12 s, Fin.ofNat 30 x⟩ (a % 2 ^ 24))
  else if sp > 2 ∨ x ≥ 18 ∨ y ≥ 20 ∨ l = 0 then none
  else
    let c : CoreId := ⟨Fin.ofNat 12 s, Fin.ofNat 18 x, Fin.ofNat 20 y, layerOfCode l⟩
    if sp = 0 then
      if a / 2 ^ 29 % 2 ^ 7 ≠ 0 ∨ a % 2 ^ 25 ≥ bankBytes then none
      else some (.vault c (a / 2 ^ 25 % 16) (a % 2 ^ 25))
    else if a / 2 ^ 23 % 2 ^ 13 ≠ 0 then none
    else some (.sram c (a % 2 ^ 23))

/-- Cost of the hop from column x to column x + 1 of a stack (R161). -/
def eastCost (x : Nat) : Nat := if x = 8 then 3 else 2

/-- Sink keys of open routes: a vault by its core's number, a well after them. -/
def sinkKey : SinkId → Nat
  | .vault c => c.num
  | .well w => 12960 + w.num

/-- The sink that holds an address (R126). -/
def sinkOf (p : Place) : Option SinkId :=
  match p with
  | .vault c _ _ => some (.vault c)
  | .well w _ => some (.well w)
  | .sram _ _ => none

/-- Routers of a port (Table 9.1), as stack and cells. -/
def portRouters (i : Nat) : Nat × List (Nat × Nat) :=
  let row := fun y => (span 7 5).map fun x => (x, y)
  let colm := fun x => (span 7 5).map fun y => (x, y)
  match i with
  | 0 => (0, [(0, 9)]) | 1 => (0, [(5, 0)]) | 2 => (0, [(12, 0)])
  | 3 => (1, [(5, 0)]) | 4 => (1, [(12, 0)]) | 5 => (2, [(5, 0)]) | 6 => (2, [(12, 0)])
  | 7 => (3, [(5, 0)]) | 8 => (3, [(12, 0)]) | 9 => (3, [(17, 9)])
  | 10 => (4, [(0, 5)]) | 11 => (4, [(0, 14)]) | 12 => (7, [(17, 5)]) | 13 => (7, [(17, 14)])
  | 14 => (8, [(0, 9)]) | 15 => (8, [(5, 19)]) | 16 => (8, [(12, 19)])
  | 17 => (9, [(5, 19)]) | 18 => (9, [(12, 19)]) | 19 => (10, [(5, 19)]) | 20 => (10, [(12, 19)])
  | 21 => (11, [(5, 19)]) | 22 => (11, [(12, 19)]) | 23 => (11, [(17, 9)])
  | 24 => (1, row 0) | 25 => (2, row 0) | 26 => (4, colm 0) | 27 => (7, colm 17)
  | 28 => (9, row 19) | 29 => (10, row 19) | 30 => (0, [(2, 0)])
  | _ => (0, [])

/-- The port engine attached to a column's AUX port. -/
def portOfRouter (c : ColId) : Option Nat :=
  (List.range 31).find? fun i =>
    let r := portRouters i
    decide (r.1 = c.s.val) && r.2.contains (c.x.val, c.y.val)

end Sys2Proof.Machine
end

