-- ==== Sys2Proof/Machine/Objects.lean ====
section
/-! DEFINITION. The object directory (10 Table 10.7 and the object tables it names): for each index
the subindices from .00, with access, type width in bytes and reset value (log 5, 13, 18). -/

namespace Sys2Proof.Machine

/-- Access codes (Table 0.3) with the states of an RWS field. -/
inductive Acc where
  | ro | rw | wo | w1c | rl | rlh | br
deriving DecidableEq, Repr

/-- How a subindex holds its value: a number, a byte string of fixed length, or a DOMAIN. -/
inductive ObjKind where
  | num | str | dom
deriving DecidableEq, Repr

structure ObjRow where
  acc : Acc
  kind : ObjKind
  size : Nat
  reset : Nat
  kept : Bool
deriving DecidableEq, Repr

def num (a : Acc) (size reset : Nat) : ObjRow := ⟨a, .num, size, reset, false⟩
def numKept (a : Acc) (size reset : Nat) : ObjRow := ⟨a, .num, size, reset, true⟩
def str (a : Acc) (size : Nat) : ObjRow := ⟨a, .str, size, 0, false⟩
def domn (a : Acc) : ObjRow := ⟨a, .dom, 0, 0, false⟩

/-- Subindices of 7010h+c (07_reduction.md). -/
def crewRows : List ObjRow :=
    [num .ro 1 12, num .rl 4 0, domn .rl, num .rl 4 0, domn .rl, str .ro 48, num .ro 1 0, num .ro 4
    0] ++ List.replicate 5 (num .ro 8 0)

/-- Subindices of 7210h+i (09_ports.md). -/
def portRows : List ObjRow :=
    [num .ro 1 10, num .ro 1 0, num .ro 1 0] ++ List.replicate 6 (num .ro 8 0) ++ [num .ro 4 0, num
    .ro 2 65535]

/-- Subindices of 7230h+ch (09_ports.md). -/
def copyRows : List ObjRow :=
    [num .ro 1 8, num .rw 8 0, num .rw 8 0, num .rw 8 0, num .wo 1 0, num .ro 1 0, num .ro 2 0, num
    .ro 8 0, num .ro 8 0]

/-- Subindices of 7410h+i (09_ports.md). -/
def fiRows : List ObjRow :=
    [num .ro 1 6, num .rw 4 0, num .rw 4 0, num .rw 4 0, num .rw 1 0, str .rw 32, num .ro 8 0]

/-- Objects 1000h to 1FFFh. -/
def objRows1 (idx : Nat) : List ObjRow :=
  match idx with
  | 0x1000 =>
    [num .ro 1 7, num .ro 4 0x474f52, str .ro 16, num .ro 8 0, num .ro 2 0, num .ro 4 0, num .ro 2
    256, num .ro 1 1]
  | 0x1001 =>
    [num .ro 1 5, num .ro 1 1, num .ro 8 0, num .ro 1 0, numKept .ro 1 0, num .ro 8 0]
  | 0x1003 =>
    [num .ro 1 1, num .wo 4 0]
  | 0x1020 =>
    [num .ro 1 8, num .ro 1 0, numKept .rw 1 8, numKept .rw 1 32, str .ro 6, str .ro 16, num .ro 2
    41248, num .ro 8 0, num .ro 8 0]
  | 0x1101 =>
    [num .ro 1 5, num .ro 2 0, num .ro 2 0, num .ro 1 0, num .ro 1 0, num .ro 8 0]
  | 0x1102 =>
    [num .ro 1 3, num .ro 8 0, num .ro 1 0, domn .ro]
  | 0x1110 =>
    [num .w1c 4 0]
  | 0x1111 =>
    [num .ro 1 16] ++ List.replicate 16 (num .ro 8 0)
  | _ => []

/-- Objects 2000h to 2FFFh. -/
def objRows2 (idx : Nat) : List ObjRow :=
  match idx with
  | 0x2000 =>
    [numKept .rw 1 0]
  | 0x2001 =>
    [num .ro 1 3, num .br 1 0, num .br 1 255, num .ro 1 255]
  | 0x2002 =>
    [num .ro 1 12, num .ro 1 0, num .ro 8 0] ++ List.replicate 10 (str .ro 32)
  | 0x2003 =>
    [num .ro 1 5, str .ro 64, str .ro 64, str .ro 64, num .ro 1 0, num .ro 8 0]
  | 0x2010 =>
    [domn .ro]
  | 0x2011 =>
    [num .ro 8 0]
  | _ => []

/-- Objects 3000h to 3FFFh. -/
def objRows3 (idx : Nat) : List ObjRow :=
  match idx with
  | 0x3000 =>
    [num .ro 1 12] ++ List.replicate 5 (num .ro 4 0) ++ [num .ro 4 20000, num .ro 1 0, num .ro 1 0,
    num .ro 1 0, num .ro 8 0, num .ro 8 0, num .ro 4 0]
  | 0x3010 =>
    [num .ro 1 48] ++ List.replicate 48 (num .ro 4 0)
  | 0x3020 =>
    [num .ro 8 0]
  | 0x3030 =>
    [num .ro 1 3, num .rl 4 20000, num .rl 1 4, num .rl 4 0]
  | 0x3040 =>
    [num .ro 1 6, num .ro 1 1, num .ro 1 1, num .ro 1 255, num .ro 1 0, num .ro 1 0, num .ro 8 0]
  | 0x3041 =>
    [num .rl 1 0]
  | 0x3050 =>
    [num .ro 1 6, domn .ro, str .ro 12, num .ro 8 0, num .ro 2 0, num .ro 2 0, num .ro 8 0]
  | 0x3060 =>
    [num .ro 1 2, domn .ro, num .ro 8 0]
  | _ => []

/-- Objects 4000h to 4FFFh. -/
def objRows4 (idx : Nat) : List ObjRow :=
  match idx with
  | 0x4000 =>
    [num .ro 1 11] ++ List.replicate 6 (num .ro 2 0) ++ [num .ro 8 0, num .ro 1 255, num .ro 4
    0xffffffff, num .ro 4 0, num .ro 2 0]
  | 0x4010 =>
    [num .ro 1 1, domn .ro]
  | 0x4020 =>
    [num .ro 1 7, num .ro 2 0, num .ro 2 0, num .ro 2 0, num .ro 1 0, num .ro 1 0, numKept .ro 4 0,
    numKept .ro 4 0]
  | 0x4030 =>
    [num .ro 1 1, domn .ro]
  | 0x4040 =>
    [num .ro 1 12] ++ List.replicate 12 (numKept .ro 4 0)
  | _ => []

/-- Objects 5000h to 5FFFh. -/
def objRows5 (idx : Nat) : List ObjRow :=
  match idx with
  | 0x5200 =>
    [num .ro 1 5] ++ List.replicate 5 (num .ro 8 0)
  | 0x5210 =>
    [num .ro 1 7, num .ro 1 0, num .ro 4 0, num .ro 8 0, num .ro 2 0, num .ro 4 0, num .ro 8 0, num
    .ro 8 0]
  | 0x5220 =>
    [num .ro 1 8] ++ List.replicate 8 (num .ro 8 0)
  | 0x5221 =>
    [num .ro 1 1, num .rw 1 24]
  | 0x5222 =>
    [num .ro 1 4, num .ro 1 0, num .ro 8 0, num .ro 8 0, num .ro 4 0]
  | 0x5230 =>
    [num .ro 1 3, num .ro 8 0, num .ro 8 0, num .ro 8 0]
  | _ => []

/-- Objects 6000h to 6FFFh. -/
def objRows6 (idx : Nat) : List ObjRow :=
  match idx with
  | 0x6000 =>
    [num .ro 1 3, num .rl 8 0, num .rl 8 0, num .rl 1 0]
  | 0x6001 =>
    [num .ro 1 2, num .wo 1 0, num .ro 8 0]
  | 0x6002 =>
    [num .ro 1 4, num .wo 1 0, num .ro 1 0, num .ro 8 0, num .ro 8 0]
  | 0x6003 =>
    [num .ro 1 3, num .ro 8 0, num .ro 4 0, num .ro 8 0]
  | 0x6005 =>
    [num .ro 1 6, num .ro 1 0, num .ro 2 0, num .ro 4 0, num .ro 8 0, num .ro 2 0, num .ro 8 0]
  | 0x6006 =>
    [num .ro 1 4, num .ro 2 0, num .ro 1 0, num .ro 8 0, num .ro 8 0]
  | 0x6010 =>
    [num .ro 1 2, num .rl 4 0, domn .rl]
  | 0x6011 =>
    [num .ro 1 3, num .ro 2 0, num .ro 2 0, num .ro 8 0]
  | 0x6020 =>
    [num .ro 1 2, num .rl 8 0, num .rl 8 0]
  | 0x6021 =>
    [num .ro 1 4, str .wo 16, num .rl 1 1, num .wo 4 0, num .ro 1 0]
  | 0x6022 =>
    [num .ro 1 10] ++ List.replicate 8 (num .ro 8 0) ++ [num .ro 2 0, num .ro 8 0]
  | 0x6023 =>
    [num .ro 1 2, num .rl 8 0, num .ro 8 0]
  | _ => []

/-- Objects 7000h to 7FFFh. -/
def objRows7 (idx : Nat) : List ObjRow :=
  match idx with
  | 0x7010 =>
    [num .ro 1 5, num .rl 2 0, num .rl 2 1, num .rl 4 0, num .ro 1 0, num .ro 2 0]
  | 0x7200 =>
    [num .ro 1 4, num .rl 2 0, num .rl 1 0, num .ro 2 0, num .ro 4 0]
  | 0x7300 =>
    [num .ro 1 3, num .rl 4 0, domn .rl, num .ro 2 0]
  | 0x7301 =>
    [num .ro 1 7, num .rlh 1 1, num .rlh 4 0xffffffff, num .wo 1 0, num .wo 1 0, num .ro 1 0, num
    .ro 4 0, num .ro 8 0]
  | 0x7302 =>
    [num .ro 1 3, num .ro 2 0, domn .ro, num .ro 8 0]
  | 0x7400 =>
    [num .ro 1 3, num .ro 1 0, num .rw 4 0, num .wo 1 0]
  | _ => []

/-- Objects 8000h to 8FFFh. -/
def objRows8 (idx : Nat) : List ObjRow :=
  match idx with
  | 0x8000 =>
    [num .ro 1 13, num .ro 1 0, num .wo 1 0, str .ro 48, num .rlh 4 0, domn .rlh, num .ro 1 0, num
    .ro 4 0, str .ro 48, num .rlh 8 0, num .rlh 8 0, num .wo 1 0, num .ro 2 0, num .ro 8 0]
  | 0x8010 =>
    [num .ro 1 6, str .rw 32, num .wo 1 0, num .ro 1 0, domn .ro, domn .ro, num .ro 8 0]
  | 0x8020 =>
    [num .ro 1 5, num .rlh 4 0, domn .rlh, num .ro 1 0, num .ro 4 0, num .wo 1 0]
  | _ => []

/-- Subindices of an object from .00; empty for an index that is not populated (R391). -/
def objRows (idx : Nat) : List ObjRow :=
  if 0x7011 ≤ idx ∧ idx ≤ 0x710F then crewRows
  else if 0x7210 ≤ idx ∧ idx ≤ 0x722E then portRows
  else if 0x7230 ≤ idx ∧ idx ≤ 0x723F then copyRows
  else if 0x7410 ≤ idx ∧ idx ≤ 0x742E then fiRows
  else match idx / 0x1000 with
    | 1 => objRows1 idx
    | 2 => objRows2 idx
    | 3 => objRows3 idx
    | 4 => objRows4 idx
    | 5 => objRows5 idx
    | 6 => objRows6 idx
    | 7 => objRows7 idx
    | 8 => objRows8 idx
    | _ => []

def objRow (idx sub : Nat) : Option ObjRow := (objRows idx)[sub]?

/-- Key of a subindex in the register table. -/
def regKey (idx sub : Nat) : Nat := idx * 256 + sub

/-- The value that a numeric subindex reads as when nothing has been written to it. -/
def regReset (k : Nat) : BitVec 64 :=
  match objRow (k / 256) (k % 256) with
  | some r => BitVec.ofNat 64 r.reset
  | none => 0

/-- Marked kept: unchanged by a bring-up (R392). -/
def regKept (k : Nat) : Bool :=
  match objRow (k / 256) (k % 256) with
  | some r => r.kept
  | none => false

end Sys2Proof.Machine
end

