-- ==== Sys2Proof/Machine/TypesCrew.lean ====
section
/-! DEFINITION. State of the crews and the link engine (07). -/

namespace Sys2Proof.Machine

/-- A layer of a crew: shared and local entries (Tables 7.4, 7.6); carry and dest are none for 0xF_FFFF. -/
structure CrewLayer where
  id : Nat
  owner : Nat
  nk : Nat
  scaleOff : Nat
  contrib : Nat
  carry : Option Nat
  dest : Option Nat
deriving DecidableEq, Repr

/-- A crew as the latest load read it (R259): waitUs none is an unbounded window. -/
structure CrewDef where
  members : List Nat
  bs8 : Bool
  drop : Bool
  nonfin : Nat
  waitUs : Option Nat
  layers : List CrewLayer
  scaleAddr : Nat
  sealAddr : Nat
  sumMb : Nat
  extents : List (Nat × Nat)
deriving DecidableEq, Repr

/-- Body of a trailer or epilogue (Table 7.12); bitmaps as member indices. -/
structure LayerBody where
  nchunk : Nat
  nfSum : Bool
  satChunks : Nat
  absent : List Nat
  nf : List Nat
deriving DecidableEq, Repr

/-- A chunk received from a child: flags and widened elements, none for EMPTY. -/
structure ChunkIn where
  nf : Bool
  sat : Bool
  nfSum : Bool
  vals : Option (List F32)
deriving DecidableEq, Repr

/-- The node work of a layer in the current step (R272-R288): its ready notice, the ready instant,
whether the own contribution is excluded by the test pass (R291), whether it held a non-finite element,
children by position (true present, false absent), chunks by position * 2^24 + index, trailers by
position, the next chunk to sum, the first chunk no credit is held for, the node's own absences and
findings, whether its trailer is out, the layer's epilogue, whether an epilogue that named this module
absent came before the notice, whether the step was restarted under the node (R298), and at the root the codes c_j of the
chunks whose next code it has formed (R281). -/
structure NodeState where
  noticed : Bool
  ready : Option Time
  excluded : Bool
  ownNf : Bool
  children : Tbl Bool
  chunks : Tbl ChunkIn
  trailers : Tbl LayerBody
  next : Nat
  credit : Nat
  absent : List Nat
  nfSum : Bool
  satChunks : Nat
  trailerSent : Bool
  epilogue : Option LayerBody
  late : Bool
  restarted : Bool
  codes : Tbl Nat := []
deriving DecidableEq, Repr

def NodeState.start : NodeState :=
  { noticed := false, ready := none, excluded := false, ownNf := false, children := [], chunks := [],
    trailers := [], next := 0, credit := 0, absent := [], nfSum := false, satChunks := 0,
    trailerSent := false, epilogue := none, late := false, restarted := false }

/-- Body of a seal (Table 7.13). -/
structure SealBody where
  step : BitVec 32
  skip : Bool
  nfAny : Bool
  nfSum : Bool
  absentLayers : Nat
deriving DecidableEq, Repr

/-- A preamble held until its step (R271): sender, step, body. -/
structure HeldPreamble where
  src : Nat
  step : BitVec 32
  body : List EccWord
deriving DecidableEq, Repr

/-- A loaded crew: whether its program has started, the current step (R547), members whose preamble of
it has been counted with their RATE_REQ, completeness, held preambles, nodes by layer id, whether the
sealer has sent, the seal whose processing is not complete (R290), how far that is (0 before the carry actions, 1 while
carries are written, 2 while the seal record is), and the layers with a pending carry. -/
structure CrewRun where
  defn : CrewDef
  started : Bool
  step : BitVec 32
  counted : Tbl Nat
  complete : Bool
  held : List HeldPreamble
  nodes : Tbl NodeState
  sealSent : Bool
  sealed : Option SealBody
  sealStage : Nat := 0
  carries : List Nat
deriving DecidableEq, Repr

end Sys2Proof.Machine
end

