-- ==== Sys2Proof/Machine/TypesEnv.lean ====
section
/-! DEFINITION. State of the power controller, of the regulators and of the heat model (11, 12). -/

namespace Sys2Proof.Machine

/-- The power controller (R446-R457): 1 ms samples of input power, newest first, at most 30,000; the
power of each stack over the last 10 ms; shedding and since when Pwin has been low enough; the hold
fraction k; its history by millisecond (k + 16 while shedding), newest first, at most 10,000;
whether the drop rule held in this step; since when the raise rule has held; since when the level
has been in force; the last ballast. -/
structure PowerState where
  samples : List Nat
  stackW : List (List Nat)
  shedding : Bool
  lowSince : Option Time
  k : Nat
  kHist : List Nat
  dropSeen : Bool
  raiseSince : Option Time
  levelSince : Time
deriving DecidableEq, Repr

def PowerState.start : PowerState :=
  { samples := [], stackW := [], shedding := false, lowSince := none, k := 0, kHist := [],
    dropSeen := false, raiseSince := none, levelSince := 0 }

/-- Regulators and bricks (R436-R444): phases lost, by region * 4 + domain; STATE of regions other
than lost phases (2 retired, 3 lost, 0 neither); regions to be retired by a time; bricks lost by
stack; trims by region in mV, offset by 128; every supply but housekeeping removed in FAULT (R431). -/
structure SupplyState where
  phases : Tbl Nat
  region : Tbl Nat
  retireBy : Tbl Time
  bricks : Tbl Nat
  trim : Tbl Nat
  dark : Bool
deriving DecidableEq, Repr

def SupplyState.full : SupplyState := { phases := [], region := [], retireBy := [], bricks := [], trim := [], dark := false }

/-- A sensor: latest sample in 0.01 degree, failed (R407), disagreeing in that sample (R408), and how
many samples in a row have been above the trip limit (R421). -/
structure SensorRec where
  last : Option Int
  failed : Bool
  disagree : Bool
  above : Nat
deriving DecidableEq, Repr

def SensorRec.new : SensorRec := { last := none, failed := false, disagree := false, above := 0 }

/-- A region-layer: suspect (R411) and since when the model has exceeded its sensors; doubled refresh
and since when it has been cool (R420); latest model estimate and prediction. -/
structure LayerRec where
  suspect : Bool
  overSince : Option Time
  twice : Bool
  coolSince : Option Time
  est : Int
  pred : Int
deriving DecidableEq, Repr

def LayerRec.new : LayerRec :=
  { suspect := false, overSince := none, twice := false, coolSince := none, est := 0, pred := 0 }

/-- Heat (11): sensors by id (R406), region-layers by region * 7 + layer, coolant sensors (0, 1 inlet,
2, 3 outlet), the meter, flow readings of the last 100 ms newest first (0.01 L/min), samples and model
updates so far, budgets by (L * 360 + region) * 7 + layer, the solves of the last 10 s with their
times, generation and cause of the latest change, the inlet temperature at the latest solve, the estimates of the last
95 ms newest first and the ramp limit of R432, the zero
rule of R418 and since when flow has been at 10 L/min, the stop of R427 armed for a time, the thermal
limit and calm updates (R419), the coolant cap in force, the bands of R425, and the stacks that have
fallen below 40 degrees since their last count (R433). -/
structure HeatState where
  sensors : Tbl SensorRec
  layers : Tbl LayerRec
  coolant : Tbl SensorRec
  meterFailed : Bool
  flowHist : List Int
  samples : Nat
  updates : Nat
  budgets : Tbl Nat
  solves : List (Time × Tbl Nat)
  gen : Nat
  cause : Nat
  solvedInlet : Int
  past : List (Tbl Int)
  ramp : Option Nat
  zero : Bool
  okSince : Option Time
  stopBy : Option Time
  limit : Option Nat
  calm : Nat
  coolCap : Int
  capAt : Time
  flowInBand : Bool
  inletInBand : Bool
  coolStacks : List Nat
deriving DecidableEq, Repr

def HeatState.new : HeatState :=
  { sensors := [], layers := [], coolant := [], meterFailed := false, flowHist := [], samples := 0,
    updates := 0, budgets := [], solves := [], gen := 0, cause := 0, solvedInlet := 0, past := [], ramp := none, zero := false,
    okSince := none, stopBy := none, limit := none, calm := 0, coolCap := 0, capAt := 0, flowInBand := true,
    inletInBand := true, coolStacks := [] }

end Sys2Proof.Machine
end

