-- ==== Sys2Proof/Machine/TypesIo.lean ====
section
/-! DEFINITION. What the module sends (log 15): each message is appended to the outbox in the order in
which the module sends it. -/

namespace Sys2Proof.Machine

/-- A message of the module. `response` answers a dictionary request with its status, data and LAST;
`completion` answers a host-port request; `hostRequest` is a request of the copy engine to the host
(tag, whether it writes, host address, words, data); `packet` is a crew packet (header, body); `streamer`
a request to a streamer (port, its words); `lane` a flit on a lane of a port; `linkId` a LINK_ID; `rotation` the rotation index R that a port reports in training (R336);
and the answers to a
neighbour solicitation and an echo request. -/
inductive Msg where
  | response (src : Source) (status : BitVec 16) (data : List Byte) (last : Bool)
  | completion (tag : BitVec 8) (status : BitVec 16) (data : List Byte)
  | hostRequest (tag : BitVec 8) (write : Bool) (addr : BitVec 64) (words : Nat) (data : List Byte)
  | packet (hdr : EccWord) (body : List EccWord)
  | streamer (port : Nat) (words : List EccWord)
  | lane (port lane : Nat) (f : Flit)
  | linkId (port : Nat) (rank : BitVec 12) (own : BitVec 5)
  | rotation (port : Nat) (r : BitVec 32)
  | advertisement (target : BitVec 128)
  | echoReply (dest : BitVec 128) (data : List Byte)
deriving DecidableEq, Repr

end Sys2Proof.Machine
end

