-- ==== Sys2Proof/Machine/TypesPage.lean ====
section
/-! DEFINITION. State of the page manager, the loader and the snapshot (04, 06, 08). -/

namespace Sys2Proof.Machine

/-- A pool entry (Table 6.10). -/
structure PoolEntry where
  layer : Nat
  group : Nat
  fmt : Nat
  unit : Nat
  bank : Nat
  landing : Bool
  ord : Nat
  e : Nat
  slotBase : Nat
  nslot : Nat
  sarray : Nat
  q : Nat
deriving DecidableEq, Repr

/-- The pool as loaded (R236). -/
structure Pool where
  turnMb : Nat
  roundMb : Nat
  turnAddr : Nat
  nseq : Nat
  bmax : Nat
  entries : List PoolEntry
deriving DecidableEq, Repr

/-- States of a page slot (Table 6.14). -/
inductive Tier where
  | open | sealed | leaving | arriving
deriving DecidableEq, Repr

/-- A page: the slot it holds (entry index * 16384 + slot) or none while spilled; its ordinal, the sequences
that include it, whether the directory names it, its last use by turn, FILL, tokens, chain hash, the turn
in which its spill was cancelled, whether the words of its prefetch have come, and its handle. -/
structure Page where
  handle : Nat
  layer : Nat
  group : Nat
  ord : Nat
  slot : Option Nat
  tier : Tier
  seqs : List Nat
  inDir : Bool
  lastUse : Nat
  fill : Nat
  tokens : List (BitVec 32)
  hash : BitVec 64
  cancelled : Option Nat
  landed : Bool
deriving DecidableEq, Repr

/-- A directory node (R248): chain hash, parent hash, ordinal, token block. -/
structure DirNode where
  hash : BitVec 64
  parent : BitVec 64
  ord : Nat
  tokens : List (BitVec 32)
  lastUse : Nat
deriving DecidableEq, Repr

/-- A kept sequence: id, the position of the token to be computed, and the tokens before it. -/
structure SeqState where
  id : Nat
  pos : Nat
  tokens : List (BitVec 32)
deriving DecidableEq, Repr

/-- A lane of the present call (Table 6.12): the token to be computed, prompt tokens not yet taken, and
tokens still to generate. -/
structure LaneRec where
  seq : Nat
  release : Bool
  left : Nat
  stop : BitVec 32
  prompt : List (BitVec 32)
  intok : BitVec 32
  active : Bool
deriving DecidableEq, Repr

/-- A page that a lane leaves in landing: lane, layer, group, ordinal and landing slot. -/
structure Adopt where
  lane : Nat
  layer : Nat
  group : Nat
  ord : Nat
  land : Nat
deriving DecidableEq, Repr

/-- The page manager. `adopts` are pages of the present turn still to be sealed, and `blocks` the lanes and ordinals whose
blocks then enter the directory; `starting` while the first arrays and turn records of a call are not written, `turning`
while a turn is not complete, `delayed` when it waited for a prefetch; `ending` while a call that has ended has open pages
(`stores`) to put away; `waiting` the dispatch fills, as watched address and batch size, whose calls follow; `wanted` the
handles of pages whose prefetch waits for a slot; `round` the round to be started next; and the rise of the mask request
that the expander has not served (R224). -/
structure PageState where
  pool : Option Pool
  pages : List Page
  dir : List DirNode
  seqs : List SeqState
  call : List LaneRec
  adopts : List Adopt
  blocks : List (Nat × Nat)
  starting : Bool
  turning : Bool
  delayed : Bool
  ending : Bool
  stores : List Adopt
  waiting : List (Nat × Nat)
  wanted : List Nat
  round : Nat
  turn : Nat
  nextHandle : Nat
  maskRise : Nat
deriving DecidableEq, Repr

def PageState.empty : PageState :=
  { pool := none, pages := [], dir := [], seqs := [], call := [], adopts := [], blocks := [], starting := false,
    turning := false, delayed := false, ending := false, stores := [], waiting := [], wanted := [], round := 0, turn := 0,
    nextHandle := 0, maskRise := 0 }

/-- No call is in progress. -/
def PageState.noCall (p : PageState) : PageState :=
  { p with call := [], adopts := [], blocks := [], starting := false, turning := false, delayed := false, ending := false,
           stores := [], waiting := [], wanted := [], round := 0 }

/-- What the loader is at: a load, with what was staged at acceptance of the write, or the checks repeated
at start (R149, R154). -/
inductive LoadPhase where
  | none
  | load
  | start
deriving DecidableEq, Repr

/-- An owned tensor of the state table (Table 8.4) and a band record (Table 8.5). -/
structure StateTensor where
  layer : Nat
  tensor : Nat
  rule : Nat
  bf16 : Bool
  nband : Nat
  cb : Nat
  first : Nat
  cA : Nat
  cB : Nat
deriving DecidableEq, Repr

structure BandRec where
  wA : Nat
  wB : Nat
  mA : Nat
  mB : Nat
  rA : Nat
  rB : Nat
deriving DecidableEq, Repr

structure StateTab where
  tensors : List StateTensor
  bands : List BandRec
deriving DecidableEq, Repr

/-- The snapshot (R320-R323): SEAL fills held back, by mailbox; its step, none until the next step is
sealed; and the pieces that still go to the streamers as tensor, word offset, address and words. -/
structure SnapState where
  heldFills : List Nat
  step : Option Nat
  todo : List (Nat × Nat × Nat × Nat)
deriving DecidableEq, Repr

def SnapState.idle : SnapState := { heldFills := [], step := none, todo := [] }

end Sys2Proof.Machine
end

