-- ==== Sys2Proof/Machine/TypesPort.lean ====
section
/-! DEFINITION. State of the ports, the host port, the copy engine, the streamer requests and the
dictionary server (09, 10). -/

namespace Sys2Proof.Machine

/-- A DATA flit sent and not acknowledged: its rotation index, the tag and the source of its message, when it was last
sent, and the flit (R332, R335). -/
structure SentFlit where
  k : Nat
  tag : Nat
  msg : Nat := 0
  since : Time
  flit : Flit
deriving DecidableEq, Repr

/-- A lane of a port (R331-R336): the next SEQ to send, the replay buffer oldest first, the SEQ latest
acknowledged, since when its ACK has not advanced, and a flit that an injected exchange holds back;
the SEQ expected, flits received and not yet delivered in rotation, whether a NAK is out for the present
loss; the latest SEQ delivered, flits delivered and not yet acknowledged, and since when. -/
structure LaneState where
  txSeq : Nat
  replay : List SentFlit
  acked : Option Nat
  ackSince : Time
  swap : Option Flit
  rxSeq : Nat
  rxHeld : List Flit
  nakOut : Bool
  lastSeq : Nat
  owed : Nat
  owedSince : Time
deriving DecidableEq, Repr

def LaneState.start : LaneState :=
  { txSeq := 0, replay := [], acked := none, ackSince := 0, swap := none, rxSeq := 0, rxHeld := [],
    nakOut := false, lastSeq := 255, owed := 0, owedSince := 0 }

/-- A DATA flit that waits to be sent: virtual channel, SOP, EOP, payload, the tag of its message (the crew id of a crew
packet, 256 + channel for a copy request, 512 otherwise), and where the message comes from: 0 for this module, else the port
and virtual channel on which a passing packet comes in (R346). -/
structure OutFlit where
  vc : Nat
  sop : Bool
  eop : Bool
  payload : List Byte
  tag : Nat
  msg : Nat := 0
deriving DecidableEq, Repr

/-- A message received in part: its bytes, whether an injected drop spoils it, whether an injected reorder holds it behind
the next message (R371), and the port and virtual channel on which it passes on, flit by flit (R346). -/
structure InPart where
  bytes : List Byte
  spoilt : Bool
  late : Bool
  pass : Option (Nat × Nat) := none
deriving DecidableEq, Repr

/-- A port (R328-R339, R370): active lanes, lanes, the next rotation index to send and to deliver, DATA
flits that wait, flits sent by virtual channel against credits, credits to give back, messages in part by
virtual channel, messages held behind the next one, messages delivered with their virtual channel (4 for
what a core of the module sent), failed training attempts in a row, the fault generator, the source of the message that has
begun on a virtual channel and not ended (R338), and whether a LINK_ID is due once the port is up (R343). -/
structure PortState where
  active : List Nat
  lanes : Tbl LaneState
  txK : Nat
  rxK : Nat
  queue : List OutFlit
  used : Tbl Nat
  give : Tbl Nat
  part : Tbl InPart
  behind : Tbl (List Byte)
  inbox : List (Nat × List Byte)
  failures : Nat
  rng : BitVec 32
  held : Tbl Nat := []
  idDue : Bool := false
deriving DecidableEq, Repr

def PortState.down : PortState :=
  { active := [], lanes := [], txK := 0, rxK := 0, queue := [], used := [], give := [], part := [],
    behind := [], inbox := [], failures := 0, rng := 1 }

/-- A host-initiated request that waits for banks (R207, R362): direction, addresses of its words, words
records of words read so far by address, words still held, and its arrival. -/
structure HostTag where
  write : Bool
  addrs : List Nat
  got : Tbl (List Byte)
  left : List Nat
  since : Time
deriving DecidableEq, Repr

/-- A copy request (R365-R367): direction, format, host address, module address, words, words done and words in flight, the
status that ended it, when the host was last asked, and whether flits of it were lost with the host port unacknowledged. -/
structure CopyJob where
  toHost : Bool
  record : Bool
  hostAddr : Nat
  start : Nat
  words : Nat
  done : Nat
  asked : Nat
  status : Nat
  since : Time
  lost : Bool := false
deriving DecidableEq, Repr

/-- What a request to a streamer was (Table 9.6). -/
inductive StreamKind where
  | draw (dest words mb tensor : Nat)
  | spill (handle : Nat)
  | fetch (handle : Nat)
  | snap (tensor : Nat)
deriving DecidableEq, Repr

def StreamKind.isSnap : StreamKind → Bool
  | .snap _ => true
  | _ => false

/-- A request without a REPLY: id, port, kind, when it was sent, and how often. -/
structure StreamReq where
  id : Nat
  port : Nat
  kind : StreamKind
  since : Time
  sent : Nat
deriving DecidableEq, Repr

/-- A segmented write in progress (R382, R384): its source, object, bytes so far, the time of the
latest segment, and whether its time has run out; clients are numbered from 1, the mirror is 0. -/
structure SegWrite where
  source : Nat
  idx : Nat
  sub : Nat
  bytes : List Byte
  last : Time
  expired : Bool
deriving DecidableEq, Repr

/-- A read transfer fixed at OFFSET 0 (R385). -/
structure SegRead where
  source : Nat
  idx : Nat
  sub : Nat
  value : List Byte
deriving DecidableEq, Repr

/-- The answer recorded for a field source (R381). -/
structure Reply where
  client : Nat
  txn : BitVec 16
  status : Nat
  data : List Byte
  last : Bool
deriving DecidableEq, Repr

/-- The dictionary server. -/
structure DictState where
  replies : List Reply
  writes : List SegWrite
  reads : List SegRead
deriving DecidableEq, Repr

def DictState.start : DictState := { replies := [], writes := [], reads := [] }

end Sys2Proof.Machine
end

