-- ==== Sys2Proof/Machine/TypesTray.lean ====
section
/-! DEFINITION. State of the tray signals, of bring-up, of the configuration and of the security engine
(11 R428, 13, 14, 16). -/

namespace Sys2Proof.Machine

/-- The signals of the tray connector and of the supply (16 Table 16.2, R525, R529, R535): ENABLE, FLOW_OK,
input good, the reference clock, THERM_TRIP asserted, PLLs in holdover, and the latest fall of ENABLE. -/
structure Pins where
  enable : Bool
  flowOk : Bool
  inputGood : Bool
  refclk : Bool
  thermTrip : Bool
  holdOver : Bool
  fellAt : Option Time
deriving DecidableEq, Repr

/-- A SAFE_STOP (Table 11.5): t0, and whether recovery has begun. -/
structure SafeStop where
  since : Time
  recovering : Bool
deriving DecidableEq, Repr

/-- Bring-up (R463-R465): the stage that runs or was last started, whether it runs, since when, host-driven
mode, ST3 held (R472), stages ended, and whether the host chose the ruling copy (R473). -/
structure BootState where
  stage : Nat
  running : Bool
  since : Time
  hostMode : Bool
  held : Bool
  ended : Nat
  chosen : Bool
deriving DecidableEq, Repr

def BootState.start : BootState :=
  { stage := 0, running := true, since := 0, hostMode := false, held := false, ended := 0, chosen := false }

/-- A configuration copy (R471): generation, VALIDITY of Table 13.4, the defect map as unit bytes by
offset in the floor plan, and the number of in-service findings by offset. -/
structure ConfigCopy where
  gen : BitVec 64
  validity : Nat
  dead : Tbl Byte
  found : Tbl Nat
deriving DecidableEq, Repr

def ConfigCopy.first : ConfigCopy := { gen := 1, validity := 0, dead := [], found := [] }

/-- The three copies, the content that rules, and the floor plan last published in any powered period (R478). -/
structure ConfigState where
  copies : List ConfigCopy
  ruling : ConfigCopy
  keptGen : BitVec 64
  keptUnits : Option (Tbl Byte)
deriving DecidableEq, Repr

def ConfigState.new : ConfigState :=
  { copies := [ConfigCopy.first, ConfigCopy.first, ConfigCopy.first], ruling := ConfigCopy.first,
    keptGen := 0, keptUnits := none }

/-- A firmware image in a slot. -/
structure SlotImage where
  version : BitVec 32
  sec : BitVec 32
  digest : BitVec 384
deriving DecidableEq, Repr

/-- The security engine (14): life-cycle state, entries into DEBUG and fused security version (OTP); slots
rewritten by installs; the slot booted; draws from the entropy source; KIND of a passed record in
8000h.05; the test token in force as its end and PERMIT_FI; an install that runs as its address and
length; the nonce of the report that is generating. -/
structure SecState where
  lc : Nat
  debugEntries : Nat
  secVersion : BitVec 32
  slots : Tbl SlotImage
  booted : Nat
  drawn : Nat
  authKind : Option Nat
  token : Option (Time × Bool)
  install : Option (Nat × Nat)
  attNonce : Option (List Byte)
deriving DecidableEq, Repr

/-- The engine after manufacture and provisioning (log 19). -/
def SecState.new : SecState :=
  { lc := 1, debugEntries := 0, secVersion := 0, slots := [], booted := 0, drawn := 0, authKind := none,
    token := none, install := none, attNonce := none }

end Sys2Proof.Machine
end

