-- ==== Sys2Proof/Machine/State.lean ====
section
/-! DEFINITION. The state of the module as plain data (INVENTORY.md "State"), the reasons a command
can stop, and the state at reset. -/

namespace Sys2Proof.Machine

/-- The clock (log 1): wall time, D01, its level, and the origin of the ac count since the last
change of level; start of the current bring-up. -/
structure Clock where
  now : Time
  d01 : Bool
  level : Level
  baseWall : Time
  baseAc : Nat
  bootAt : Time
deriving DecidableEq, Repr

/-- The module states (10 Table 10.14) and OFF. -/
inductive ModState where
  | off | bringup | ready | loaded | running | held | safeStop | fault
deriving DecidableEq, Repr

/-- Events gathered since the last stroke boundary (R67, R327). -/
structure Gathered where
  ev : Ev
  nanGrad : Nat
  gated : Nat
  lanes : Nat
deriving DecidableEq, Repr

def Gathered.zero : Gathered := ⟨Ev.zero, 0, 0, 0⟩

/-- The module. -/
structure State where
  pending : List Instr
  fresh : Nat
  clk : Clock
  st : ModState
  halting : List Nat
  regs : Tbl (BitVec 64)
  mem : List Host.Cell
  ecc : Tbl (BitVec 2)
  stamps : Tbl (BitVec 34)
  opStores : Tbl (List OpWord)
  routeStores : Tbl (List OpWord)
  cores : Tbl CoreState
  routers : Tbl RouterState
  flits : List InFlight
  sinks : Tbl (List OpenFlit)
  openQ : Tbl (List MeshFlit)
  openUsed : Tbl Nat
  engineIn : Tbl (List MeshFlit)
  wells : Tbl WellState
  nb : Tbl NbUnit
  vaults : Tbl VaultState
  scrub : ScrubState
  umpire : Umpire
  gathered : Gathered
  image : Option Image
  plan : Plan
  work : Plan
  doms : Tbl (List Byte)
  latestSeal : Option (BitVec 32)
  startStep : BitVec 32
  heat : HeatState
  power : PowerState
  supply : SupplyState
  crews : Tbl CrewRun
  outbox : List Msg
  pins : Pins
  stop : Option SafeStop
  coxDark : Bool
  boot : BootState
  cfg : ConfigState
  sec : SecState
  ports : Tbl PortState
  hostTags : Tbl HostTag
  copies : Tbl CopyJob
  streams : List StreamReq
  nextReq : Nat
  streamTurn : Nat
  dict : DictState
  pages : PageState
  loading : LoadPhase
  stateTab : StateTab
  snap : SnapState
  testIr : TestIr
  deriving DecidableEq, Repr

/-- Faults: a command whose operand is no such thing at all. -/
inductive Fault where
  /-- A flit without its 244 payload bytes: raised by DATA_FLIT_RECEIVE and FILL_FLIT_RECEIVE, on operands that
  no lane can deliver. Safe: the machine does nothing. -/
  | badOperand
deriving DecidableEq, Repr

/-- Refusals. -/
inductive Refusal where
  /-- No meaning yet; raised by exec's arms only. Safe. -/
  | notModelled (mnemonic : String)
  /-- The test port's private instructions on an open port (14 R495), whose effect the spec does not
  give. Safe. -/
  | privateTestInstruction
deriving DecidableEq, Repr

/-- A module in which nothing runs and whose storage is wiped (R191, R500), with the settings that no
wipe touches (R491, Table 14.5): `kept` registers, configuration and security engine. -/
def State.wiped (now : Time) (kept : Tbl (BitVec 64)) (cfg : ConfigState) (sec : SecState) (pins : Pins) : State :=
  { pending := [], fresh := 0,
    clk := { now := now, d01 := false, level := .b, baseWall := now, baseAc := 0, bootAt := now },
    st := .bringup, halting := [], regs := kept, mem := [], ecc := [], stamps := [], opStores := [],
    routeStores := [], cores := [], routers := [], flits := [], sinks := [], openQ := [], openUsed := [],
    engineIn := [], wells := [], nb := [], vaults := [],
    scrub := { seen := [], passStart := now, hours := 24, late := false }, umpire := Umpire.idle,
    gathered := Gathered.zero, image := none,
    plan := { gen := 0, units := [], shifts := [] }, work := { gen := 0, units := [], shifts := [] },
    doms := [], latestSeal := none, startStep := 0, heat := HeatState.new, power := PowerState.start,
    supply := SupplyState.full, crews := [], outbox := [], pins := pins, stop := none, coxDark := false,
    boot := { BootState.start with since := now }, cfg := cfg, sec := sec, ports := [], hostTags := [],
    copies := [], streams := [], nextReq := 0, streamTurn := 29, dict := DictState.start, pages := PageState.empty,
    loading := .none, stateTab := { tensors := [], bands := [] }, snap := SnapState.idle,
    testIr := .idcode }

/-- The signals at reset: ENABLE, FLOW_OK and input good are high, the reference clock is there (log 3). -/
def Pins.good : Pins :=
  { enable := true, flowOk := true, inputGood := true, refclk := true, thermTrip := false, holdOver := false,
    fellAt := none }

/-- Reset: the start of a bring-up from OFF of a module whose kept settings are those of a new one (log 3). -/
def State.reset : State := State.wiped 0 [] ConfigState.new SecState.new Pins.good

end Sys2Proof.Machine
end

