-- ==== Sys2Proof/Machine/Ops.lean ====
section
/-! DEFINITION. Named operations over the state: clock, registers, memory, floor plan, faults and
the transitions of the state machine. -/

namespace Sys2Proof.Machine

/-! ### Clock (log 1) -/

/-- Units of time in a microsecond, a nanosecond times 1000. -/
def usUnits : Nat := 284820
def msUnits : Nat := 284820000

/-- Units of time in one ac (00 "Time and rate levels"). -/
def acPeriod : Level → Nat
  | .a => 282 | .b => 303 | .c => 404 | .d => 606 | .e => 1212

def levelCode : Level → Nat
  | .a => 0 | .b => 1 | .c => 2 | .d => 3 | .e => 4

def levelOfCode (n : Nat) : Level :=
  match n with | 0 => .a | 1 => .b | 2 => .c | 3 => .d | _ => .e

/-- The ac in progress; it stands still while D01 does not run. -/
def acNow (k : Clock) : Nat :=
  if k.d01 then k.baseAc + (k.now - k.baseWall) / acPeriod k.level else k.baseAc

/-- Wall time at which an ac begins. -/
def wallOfAc (k : Clock) (ac : Nat) : Time := k.baseWall + (ac - k.baseAc) * acPeriod k.level

/-- Time goes on to t; an instant already past leaves it. -/
def State.advance (s : State) (t : Time) : State := { s with clk := { s.clk with now := max s.clk.now t } }

/-- Time goes on to the beginning of an ac. -/
def State.advanceAc (s : State) (ac : Nat) : State := s.advance (wallOfAc s.clk ac)

/-- The ac that sigma counts from: program stroke 0 and the held strokes since; 0 while no program runs. -/
def sigmaOrigin (u : Umpire) : Nat := if u.begun then u.zeroAc + u.held * 1024 else 0

/-- The ac of a sigma (R131, R453). -/
def acOfSigma (u : Umpire) (sg : Nat) : Nat := sigmaOrigin u + sg

def State.advanceSigma (s : State) (sg : Nat) : State := s.advanceAc (acOfSigma s.umpire sg)

/-- The sigma in progress. -/
def State.sigmaNow (s : State) : Nat := acNow s.clk - sigmaOrigin s.umpire

/-- The program stroke in progress, held strokes included (R131). -/
def State.strokeNow (s : State) : Nat := s.umpire.stroke + s.umpire.held

/-- A free bit and a free word: each use advances the counter (log 7). -/
def State.drawBit (s : State) : Bool × State := (Config.freeBit s.fresh, { s with fresh := s.fresh + 1 })

def State.drawWord (s : State) : BitVec 64 × State :=
  (Config.freeWord s.fresh, { s with fresh := s.fresh + 1 })

/-! ### Registers of the dictionary -/

def State.reg (s : State) (idx sub : Nat) : BitVec 64 :=
  tblGet (regReset (regKey idx sub)) s.regs (regKey idx sub)

def State.regN (s : State) (idx sub : Nat) : Nat := (s.reg idx sub).toNat

def State.setReg (s : State) (idx sub : Nat) (v : BitVec 64) : State :=
  { s with regs := tblSet (regReset (regKey idx sub)) s.regs (regKey idx sub) v }

def State.setRegN (s : State) (idx sub v : Nat) : State := s.setReg idx sub (BitVec.ofNat 64 v)

/-- A counter that holds at 2^64 - 1. -/
def State.bumpReg (s : State) (idx sub n : Nat) : State := s.setReg idx sub (holdAdd (s.reg idx sub) n)

def State.dom (s : State) (idx sub : Nat) : List Byte := tblGet [] s.doms (regKey idx sub)

def State.setDom (s : State) (idx sub : Nat) (v : List Byte) : State :=
  { s with doms := tblSet [] s.doms (regKey idx sub) v }

/-- Set subindices lo to hi of an object to zero. -/
def State.zeroRegs (s : State) (idx : Nat) (subs : List Nat) : State :=
  subs.foldl (fun a k => a.setReg idx k 0) s

/-! ### Floor plan (Tables 13.8 to 13.11) -/

def offRegion (w : RegionId) : Nat := 64 + w.num
def offWell (w : RegionId) : Nat := 448 + w.num
def offColumn (c : ColId) : Nat := 832 + c.num
def offLink (c : ColId) : Nat := 5152 + c.num
def offCore (c : CoreId) : Nat := 9472 + c.num
def offVault (c : CoreId) : Nat := 22432 + c.num
def offPort (p : Nat) : Nat := 35392 + p

def Plan.byte (p : Plan) (off : Nat) : Byte := tblGet 0 p.units off

/-- STATE of a unit byte (Table 13.10). -/
def Plan.unitState (p : Plan) (off : Nat) : Nat := (p.byte off).toNat % 4

def Plan.usable (p : Plan) (off : Nat) : Bool := decide (p.unitState off = 0)

def Plan.setByte (p : Plan) (off : Nat) (b : Byte) : Plan := { p with units := tblSet 0 p.units off b }

/-- Unit byte of a state and cause. -/
def unitByte (st cause : Nat) (inService : Bool) : Byte :=
  BitVec.ofNat 8 (st + 4 * cause + (if inService then 64 else 0))

def State.coreUsable (s : State) (c : CoreId) : Bool := s.plan.usable (offCore c)
def State.columnUsable (s : State) (c : ColId) : Bool := s.plan.usable (offColumn c)
def State.vaultDead (s : State) (c : CoreId) : Bool := decide (s.plan.unitState (offVault c) = 1)
def State.vaultDrain (s : State) (c : CoreId) : Bool := decide (s.plan.unitState (offVault c) = 2)
def State.wellUsable (s : State) (w : RegionId) : Bool := s.plan.usable (offWell w)

/-- A unit that the floor plan lists dead (R22). -/
def State.placeDead (s : State) : Place → Bool
  | .vault c _ _ => s.vaultDead c
  | .sram c _ => !s.coreUsable c
  | .well w _ => !s.wellUsable w

/-! ### Memory -/

/-- What a byte that nothing has written reads as: bring-up fills all storage with zeros (R191; log 6). -/
def unlistedByte : Byte := 0

def readByte (m : List Host.Cell) (a : Nat) : Byte := tblGet unlistedByte m a

def writeByte (m : List Host.Cell) (a : Nat) (b : Byte) : List Host.Cell := tblSet unlistedByte m a b

/-- n bytes from an address. -/
def readBytes (m : List Host.Cell) (a n : Nat) : List Byte := (span a n).map (readByte m)

def writeBytes (m : List Host.Cell) : Nat → List Byte → List Host.Cell
  | _, [] => m
  | a, b :: bs => writeBytes (writeByte m a b) (a + 1) bs

/-- The canonical form of memory. -/
abbrev Memory.wf (m : List Host.Cell) : Prop := tblWf unlistedByte m = true

def State.word (s : State) (a : Nat) : EccWord := wordOfBytes (readBytes s.mem a 32)

/-- Store a word with fresh check bits (R189). -/
def State.putWord (s : State) (a : Nat) (w : EccWord) : State :=
  { s with mem := writeBytes s.mem a (bytesOfWord w), ecc := tblSet 0 s.ecc (a / 32) 0 }

/-- Check state of a word: 0 good, 1 correctable, 2 uncorrectable (R186). -/
def State.eccOf (s : State) (a : Nat) : Nat := (tblGet 0 s.ecc (a / 32)).toNat

/-- Stamp of a vault word: value in bits 31:0, state in bits 33:32 (R209). -/
def State.stampOf (s : State) (a : Nat) : BitVec 34 := tblGet 0 s.stamps (a / 32)

def State.setStamp (s : State) (a : Nat) (st : Nat) (v : BitVec 32) : State :=
  { s with stamps := tblSet 0 s.stamps (a / 32) (BitVec.ofNat 34 (2 ^ 32 * st + v.toNat)) }

/-- A write by a unit of the module: a HOST stamp becomes MODULE_WRITTEN (R211). -/
def State.unitWrite (s : State) (a : Nat) (w : EccWord) : State :=
  let s := s.putWord a w
  let st := s.stampOf a
  if st.toNat / 2 ^ 32 = 1 then s.setStamp a 2 (st.setWidth 32) else s

def State.unitWrites (s : State) (a : Nat) (ws : List EccWord) : State :=
  ws.zipIdx.foldl (fun s p => s.unitWrite (a + 32 * p.2) p.1) s

/-- n words from an address. -/
def State.words (s : State) (a n : Nat) : List EccWord := (List.range n).map fun j => s.word (a + 32 * j)

/-! ### Error counters of reads (R187, R188, Table 5.4) -/

/-- Requesters of 5220h.06. -/
def reqCore : Nat := 1
def reqNearBank : Nat := 2
def reqPort : Nat := 3
def reqHost : Nat := 4
def reqCox : Nat := 5
def reqScrub : Nat := 6

/-- 5220h.01 vault, .02 core SRAM and op stores, .03 well. -/
def ceSub (a : Nat) : Nat := if a / 2 ^ 52 = 0 then 1 else if a / 2 ^ 52 = 1 then 2 else 3

def State.setScrub (s : State) (k : ScrubState) : State := { s with scrub := k }

/-- A halt falls due at the next stroke boundary, with its cause of Table 10.14 (R402). -/
def State.haltSoon (s : State) (cause : Nat) : State := { s with halting := s.halting ++ [cause] }

/-! ### Mailboxes and module events -/

def State.mailbox (s : State) (m : Nat) : BitVec 64 := tblGet 0 s.umpire.mailboxes m

def State.fillMailbox (s : State) (m n : Nat) : State :=
  { s with umpire := { s.umpire with mailboxes := tblSet 0 s.umpire.mailboxes m (s.mailbox m + BitVec.ofNat 64 n) } }

/-! ### Cores and routers -/

def State.core (s : State) (c : CoreId) : CoreState := tblGet CoreState.start s.cores c.num

def State.setCore (s : State) (c : CoreId) (v : CoreState) : State :=
  { s with cores := tblSet CoreState.start s.cores c.num v }

def State.router (s : State) (r : ColId) : RouterState := tblGet RouterState.start s.routers r.num

def State.setRouter (s : State) (r : ColId) (v : RouterState) : State :=
  { s with routers := tblSet RouterState.start s.routers r.num v }

def State.vault (s : State) (c : CoreId) : VaultState := tblGet VaultState.idle s.vaults c.num

def State.setVault (s : State) (c : CoreId) (v : VaultState) : State :=
  { s with vaults := tblSet VaultState.idle s.vaults c.num v }

def State.well (s : State) (w : RegionId) : WellState := tblGet WellState.idle s.wells w.num

def State.setWell (s : State) (w : RegionId) (v : WellState) : State :=
  { s with wells := tblSet WellState.idle s.wells w.num v }

def nbKey (c : CoreId) (bank : Nat) : Nat := 16 * c.num + bank

def State.nbUnit (s : State) (c : CoreId) (bank : Nat) : NbUnit := tblGet NbUnit.idle s.nb (nbKey c bank)

def State.setNb (s : State) (c : CoreId) (bank : Nat) (v : NbUnit) : State :=
  { s with nb := tblSet NbUnit.idle s.nb (nbKey c bank) v }

/-- The op words of a unit's program. -/
def State.store (s : State) : UnitId → List OpWord
  | .core c => tblGet [] s.opStores c.num
  | .router r => tblGet [] s.routeStores r.num

def State.issue (s : State) : UnitId → Issue
  | .core c => (s.core c).iss
  | .router r => (s.router r).iss

def State.setIssue (s : State) (u : UnitId) (i : Issue) : State :=
  match u with
  | .core c => s.setCore c { s.core c with iss := i }
  | .router r => s.setRouter r { s.router r with iss := i }

def unitUid : UnitId → Nat
  | .core c => c.uid
  | .router r => r.uid

end Sys2Proof.Machine
end

