-- ==== Sys2Proof/Machine/Damage.lean ====
section
/-! DEFINITION. Damage to state tensors and reduced gradients (08 R303-R306, R324, Table 8.10). -/

namespace Sys2Proof.Machine

/-- Address of a word offset in the bank that holds an address (Table 8.5). -/
def inBank (a off : Nat) : Nat := a / 2 ^ 25 * 2 ^ 25 + 32 * off

/-- An area of a tensor: address, length, kind of Table 8.10, copy, band, bytes of an element, and
elements of a row. -/
structure StateArea where
  addr : Nat
  len : Nat
  kind : Nat
  copy : Nat
  band : Nat
  esize : Nat
  cols : Nat
deriving DecidableEq, Repr

/-- Elements of a stored row. -/
def StateTensor.cols (t : StateTensor) : Nat := 32 * t.cb

/-- Bytes of a momentum element. -/
def StateTensor.mSize (t : StateTensor) : Nat := if t.bf16 then 2 else 4

/-- The areas of one band (Table 8.1, R304). -/
def StateTensor.bandAreas (t : StateTensor) (k : Nat) (b : BandRec) : List StateArea :=
  let area := fun addr len kind copy es => (⟨addr, len, kind, copy, k, es, t.cols⟩ : StateArea)
  [area b.wA (128 * t.cols) 0 0 4, area (inBank b.wA b.wB) (128 * t.cols) 0 1 4] ++
    (if t.rule = 0 then [] else
      [area (inBank b.wA b.mA) (32 * t.cols * t.mSize) 1 0 t.mSize,
       area (inBank b.wA b.mB) (32 * t.cols * t.mSize) 1 1 t.mSize]) ++
    (if t.rule = 3 then [area (inBank b.wA b.rA) 128 2 0 4, area (inBank b.wA b.rB) 128 2 1 4] else [])

/-- The areas of the column statistics. -/
def StateTensor.colAreas (t : StateTensor) : List StateArea :=
  if t.rule = 3 then
    [⟨t.cA, 4 * t.cols, 3, 0, 0, 4, t.cols⟩, ⟨inBank t.cA t.cB, 4 * t.cols, 3, 1, 0, 4, t.cols⟩]
  else []

def StateTab.areas (st : StateTab) (t : StateTensor) : List StateArea :=
  (((st.bands.drop t.first).take t.nband).zipIdx.flatMap fun p => t.bandAreas p.2 p.1) ++ t.colAreas

/-- The block column that a word of an area lies in. -/
def StateArea.blockCol (r : StateArea) (a : Nat) : Nat :=
  if r.kind = 2 then 0 else (a - r.addr) / r.esize % r.cols / 32

/-- A record of Table 8.10. -/
def damageRec (tensor band col kind copy : Nat) : List Byte :=
  leBytes 8 (tensor + 2 ^ 16 * (band % 2 ^ 24) + 2 ^ 40 * (col % 2 ^ 15) + 2 ^ 56 * kind + 2 ^ 59 * copy)

/-- Extents of one purpose of a layer from its first index, with the chunk each begins at, with the
layer's chunks in all (R261). -/
def extentRun (exts : List (Nat × Nat)) (first chunks : Nat) : List (Nat × Nat × Nat) :=
  ((exts.drop first).foldl
    (fun (a : Nat × List (Nat × Nat × Nat)) e =>
      if a.1 ≥ chunks then a else (a.1 + e.2, a.2 ++ [(e.1, e.2, a.1)])) (0, [])).2

/-- Chunks of a layer (R260). -/
def CrewLayer.chunks (l : CrewLayer) : Nat := ceilDiv l.nk 4

/-- The layer's owner's node work is complete with its epilogue, another node's with its trailer. -/
def CrewRun.nodeDone (r : CrewRun) (rank : Nat) (e : Nat × NodeState) : Bool :=
  if r.defn.layers.any fun l => decide (l.id = e.1) && decide (l.owner = rank) then e.2.epilogue.isSome else e.2.trailerSent

/-- A node whose work is discarded: it begins anew on the restarted step's notice, and takes no part when an epilogue has
named this module absent already. -/
def NodeState.again (n : NodeState) (own : Nat) : NodeState :=
  { n with noticed := false, ready := none, excluded := false, ownNf := false, chunks := [], trailers := [], next := 0,
           nfSum := false, satChunks := 0, restarted := true
           late := n.late || (match n.epilogue with | some b => b.absent.contains own | none => false) }

/-- The halt of a shift repair (R298): partial sums of the layers not completed are discarded. -/
def CrewRun.halted (r : CrewRun) (rank : Nat) : CrewRun :=
  { r with nodes := r.nodes.map fun e => (e.1, if r.nodeDone rank e then e.2 else e.2.again (r.defn.members.idxOf rank)) }

/-- Carry extents of a crew, as addresses and bytes. -/
def CrewDef.carryAreas (d : CrewDef) : List (Nat × Nat) :=
  d.layers.flatMap fun l => match l.carry with
    | some f => (extentRun d.extents f l.chunks).map fun e => (e.1, 16384 * e.2.1)
    | none => []

/-- The element of a layer's destination at an address. -/
def CrewDef.destElement (d : CrewDef) (l : CrewLayer) (a : Nat) : Option Nat :=
  match l.dest with
  | none => none
  | some f =>
    ((extentRun d.extents f l.chunks).find? fun e => decide (e.1 ≤ a) && decide (a < e.1 + 16384 * e.2.1)).map
      fun e => 4096 * e.2.2 + (a - e.1) / 4

/-- The record of the area or destination that holds a word. A destination of a layer without an entry of the state table
has no tensor and no band there: those fields are free values (log 66). -/
def State.damageAt (s : State) (a : Nat) : Option (List Byte) :=
  let inState := s.stateTab.tensors.findSome? fun t =>
    ((s.stateTab.areas t).find? fun r => decide (r.addr ≤ a) && decide (a < r.addr + r.len)).map fun r =>
      damageRec t.tensor r.band (r.blockCol a) r.kind r.copy
  match inState with
  | some r => some r
  | none =>
    s.crews.findSome? fun (e : Nat × CrewRun) =>
      e.2.defn.layers.findSome? fun l => (e.2.defn.destElement l a).map fun i =>
        match s.stateTab.tensors.find? fun t => t.layer = l.id with
        | some t => damageRec t.tensor (i / t.cols / 32) (i % t.cols / 32) 4 0
        | none => leBytes 8 ((Config.destBlock l.id i).toNat + 2 ^ 56 * 4)

/-- R324: whoever met the word, its block is recorded while there is room. -/
def State.recordDamage (s : State) (a : Nat) : State :=
  match s.damageAt a with
  | none => s
  | some r =>
    let n := s.regN 0x7302 1
    let s1 := s.bumpReg 0x7302 3 1
    if n < 4096 then (s1.setRegN 0x7302 1 (n + 1)).setDom 0x7302 2 (s1.dom 0x7302 2 ++ r) else s1

end Sys2Proof.Machine
end

