-- ==== Sys2Proof/Machine/Flags.lean ====
section
/-! DEFINITION. Flags and counters: event flags (R394), arithmetic events (R66, R67), core faults
(R104, R105), read errors (R187, R188) and the transitions of the state machine (R401). -/

namespace Sys2Proof.Machine

/-- Set a bit of 1110h and advance its counter in 1111h (R394, R6). -/
def State.event (s : State) (k : Nat) : State :=
  (s.setReg 0x1110 0 (s.reg 0x1110 0 ||| BitVec.ofNat 64 (2 ^ k))).bumpReg 0x1111 (k + 1) 1

/-! Bits of 1110h (Table 10.10). -/
def evState : Nat := 0
def evFloorPlan : Nat := 1
def evLoadDone : Nat := 2
def evProgramEnded : Nat := 3
def evStepEnded : Nat := 4
def evCoreFault : Nat := 5
def evEccUncorrectable : Nat := 6
def evCrewError : Nat := 7
def evPortChanged : Nat := 8
def evCopyEnded : Nat := 9
def evSnapshot : Nat := 10
def evThermal : Nat := 11
def evPower : Nat := 12
def evRateChanged : Nat := 13
def evStateConflict : Nat := 14
def evCoolant : Nat := 15

/-- Events gathered in the stroke (R67); they reach 5200h and 5230h at the boundary. -/
def Gathered.plus (g : Gathered) (e : Ev) : Gathered := { g with ev := g.ev.plus e }

def State.gather (s : State) (e : Ev) : State := { s with gathered := s.gathered.plus e }

/-- Add what was gathered to the counters (R66, R67, R327). -/
def State.addGathered (s : State) : State :=
  let g := s.gathered
  let s := ((((s.bumpReg 0x5200 1 g.ev.sat).bumpReg 0x5200 2 g.ev.ovfNan).bumpReg 0x5200 3 g.ev.inf).bumpReg
    0x5200 4 g.ev.invalid).bumpReg 0x5200 5 g.ev.blockNan
  let s := ((s.bumpReg 0x5230 1 g.nanGrad).bumpReg 0x5230 2 g.gated).bumpReg 0x5230 3 g.lanes
  { s with gathered := Gathered.zero }

/-- Codes of 1001h.01 (Table 10.9). OFF is never read. -/
def modCode : ModState → Nat
  | .off => 0 | .bringup => 1 | .ready => 2 | .loaded => 3 | .running => 4 | .held => 5
  | .safeStop => 6 | .fault => 7

/-- A transition (R401): sequence, previous state, cause, event flag; out of RUNNING also 6002h. -/
def State.transition (s : State) (dest : ModState) (cause : Option Nat) : State :=
  let s1 := (s.bumpReg 0x1001 2 1).setRegN 0x1001 3 (modCode s.st)
  let s2 := match cause with
    | some c => s1.setRegN 0x1001 4 c
    | none => s1
  let s3 :=
    if s.st = .running then
      let s4 := match cause with
        | some c => s2.setRegN 0x6002 2 c
        | none => s2
      ((s4.setRegN 0x6002 4 s.strokeNow).bumpReg 0x6002 3 1).event evProgramEnded
    else s2
  { (s3.event evState) with st := dest, umpire := { s.umpire with leftAt := none } }

/-- Place of a fault for the order of R105: stroke, ac, stack, y, x, layer, op index. -/
def faultRank (stroke ac uid op : Nat) : List Nat :=
  [stroke, ac, uid % 16, uid / 512 % 32, uid / 16 % 32, uid / 16384, op]

def lexLt : List Nat → List Nat → Bool
  | a :: as, b :: bs => decide (a < b) || (decide (a = b) && lexLt as bs)
  | [], _ :: _ => true
  | _, _ => false

/-- A program stroke and ac of a sigma. -/
def State.placeOfSigma (s : State) (sg : Nat) : Nat × Nat := (sg / 1024 + s.umpire.held, sg % 1024)

/-- Record a fault in 5210h (R105) and have the module halt at the next boundary (R104). -/
def State.recordFault (s : State) (code uid sg op detail : Nat) : State :=
  let p := s.placeOfSigma sg
  let old := faultRank (s.regN 0x5210 3) (s.regN 0x5210 4) (s.regN 0x5210 2) (s.regN 0x5210 5)
  let s1 :=
    if s.regN 0x5210 7 = 0 || lexLt (faultRank p.1 p.2 uid op) old then
      (((((s.setRegN 0x5210 1 code).setRegN 0x5210 2 uid).setRegN 0x5210 3 p.1).setRegN 0x5210 4 p.2).setRegN
        0x5210 5 op).setRegN 0x5210 6 detail
    else s
  let s2 := (s1.bumpReg 0x5210 7 1).event evCoreFault
  s2.haltSoon 0x07

/-! Codes of Table 3.15. -/
def fBusEcc : Nat := 0x01
def fBusAddr : Nat := 0x02
def fBank : Nat := 0x03
def fUnderflow : Nat := 0x04
def fOverflow : Nat := 0x05
def fFormat : Nat := 0x06
def fAcc : Nat := 0x07
def fVreg : Nat := 0x08
def fBusy : Nat := 0x09
def fSlot : Nat := 0x0A
def fIllegal : Nat := 0x0B

/-- A core or router stops with a fault at its current op (R104). -/
def State.unitFault (s : State) (u : UnitId) (code sg detail : Nat) : State :=
  let i := s.issue u
  (s.setIssue u { i with stopped := true }).recordFault code (unitUid u) sg i.idx detail

/-- A core stops with a fault at an op it has issued before (R104, Table 3.16). -/
def State.coreFaultAt (s : State) (c : CoreId) (op code sg detail : Nat) : State :=
  let i := s.issue (.core c)
  (s.setIssue (.core c) { i with stopped := true }).recordFault code c.uid sg op detail

/-- Op index of the WREAD of a core that awaits a reply. -/
def CoreState.wreadOp (k : CoreState) (x l : Nat) : Nat :=
  match k.wreads.find? fun r => r.xword = x ∧ r.len = l with
  | some r => r.op
  | none => k.iss.idx

/-- Count the check state of a word read (R187, R188); damage to state is recorded (R324). -/
def State.countRead (s : State) (a req : Nat) : State :=
  match s.eccOf a with
  | 0 => s
  | 1 => s.bumpReg 0x5220 (ceSub a) 1
  | _ => ((((s.bumpReg 0x5220 4 1).setRegN 0x5220 5 a).setRegN 0x5220 6 req).event evEccUncorrectable).recordDamage a

/-- Count the reads of words in order up to the first that is uncorrectable, which is answered. -/
def State.countReads (s : State) (req : Nat) : List Nat → State × Option Nat
  | [] => (s, none)
  | a :: as => if s.eccOf a ≥ 2 then (s.countRead a req, some a) else (s.countRead a req).countReads req as

/-- The state conflict record of R395 (Table 10.12), newest first, at most 16. -/
def State.conflict (s : State) (idx sub source detail : Nat) : State :=
  let us := (s.clk.now - s.clk.bootAt) / usUnits
  let r := leBytes 2 idx ++ leBytes 1 sub ++ leBytes 1 (modCode s.st + 16 * source) ++ leBytes 4 detail ++ leBytes 8 us
  let d := (r ++ s.dom 0x1102 3).take 256
  (((s.bumpReg 0x1102 1 1).setRegN 0x1102 2 (d.length / 16)).setDom 0x1102 3 d).event evStateConflict

end Sys2Proof.Machine
end

