-- ==== Sys2Proof/Machine/Elementary.lean ====
section
/-! DEFINITION. The correctly rounded functions of the vector engine (R62, R227): exp, exp2, log2,
and cosine and sine of a 32-bit fraction of a turn. Each is formed in fixed point with 192 bits
after the point and rounded once; an irrational result carries a sticky bit (DEDUCED, log 22). -/

namespace Sys2Proof.Machine

/-- Bits after the point. -/
def fixF : Nat := 192

/-- floor(ln 2 * 2^192). -/
def fixLn2 : Nat := 4350955369971217654477563090224794165364344896676135745069

/-- floor(pi * 2^192). -/
def fixPi : Nat := 19720096697726538562396133364228268891463450865190089732560

def fixOne : Nat := 2 ^ fixF

def fixMul (a b : Int) : Int := (a * b) / (fixOne : Int)

/-- Sum of the Taylor series of exp from term k on, with `fuel` terms: `term` is r^k / k!. -/
def expSeries (r : Int) : Nat → Nat → Int → Int
  | 0, _, _ => 0
  | fuel + 1, k, term => term + expSeries r fuel (k + 1) (fixMul term r / ((k + 1 : Nat) : Int))

/-- exp(r) for |r| at most 1, in fixed point. -/
def fixExp (r : Int) : Nat := (expSeries r 60 0 (fixOne : Int)).toNat

/-- 2^k * e^r as a value that is not exact. -/
def expScaled (r k : Int) : Xf := jam false (fixExp r) false (k - fixF)

/-- e^x for x = (-1)^neg m 2^e, not zero. Beyond |x| = 256 the result overflows or is below every
subnormal. -/
def expFin (neg : Bool) (m : Nat) (e : Int) : Xf :=
  if e + (Nat.log2 m : Nat) ≥ 8 then (if neg then .fin false 1 (-1000) else .fin false 1 1000)
  else
    let x := signedAt neg m e (-(fixF : Int))
    let k := x / (fixLn2 : Int)
    expScaled (x - k * fixLn2) k

def Xf.exp (a : Xf) : Xf :=
  match a with
  | .nan => .nan
  | .inf n => if n then .fin false 0 0 else .inf false
  | .fin n m e => if m = 0 then .fin false 1 0 else expFin n m e

/-- 2^x for a finite x that is not zero. -/
def exp2Fin (neg : Bool) (m : Nat) (e : Int) : Xf :=
  if e + (Nat.log2 m : Nat) ≥ 9 then (if neg then .fin false 1 (-1000) else .fin false 1 1000)
  else
    let x := signedAt neg m e (-(fixF : Int))
    let k := x / (fixOne : Int)
    let f := x - k * fixOne
    if f = 0 then .fin false 1 k else expScaled (fixMul f fixLn2) k

def Xf.exp2 (a : Xf) : Xf :=
  match a with
  | .nan => .nan
  | .inf n => if n then .fin false 0 0 else .inf false
  | .fin n m e => if m = 0 then .fin false 1 0 else exp2Fin n m e

/-- Sum of z^(2k+1) / (2k+1) from index k on: `pw` is z^(2k+1). -/
def atanhSeries (z2 : Int) : Nat → Nat → Int → Int
  | 0, _, _ => 0
  | fuel + 1, k, pw =>
    pw / ((2 * k + 1 : Nat) : Int) + atanhSeries z2 fuel (k + 1) (fixMul pw z2)

/-- log2 of y = m / 2^n with 1 < y < 2, in fixed point. -/
def fixLog2 (m n : Nat) : Int :=
  let z : Int := (((m - 2 ^ n) * fixOne / (m + 2 ^ n) : Nat) : Int)
  (2 * atanhSeries (fixMul z z) 66 0 z * (fixOne : Int)) / (fixLn2 : Int)

def Xf.log2 (a : Xf) : Xf :=
  match a with
  | .nan => .nan
  | .inf n => if n then .nan else .inf false
  | .fin n m e =>
    if m = 0 then .inf true
    else if n then .nan
    else
      let len := Nat.log2 m
      let k := e + (len : Int)
      if m = 2 ^ len then .fin (decide (k < 0)) k.natAbs 0
      else
        let v := k * (fixOne : Int) + fixLog2 m len
        jam (decide (v < 0)) v.natAbs false (-(fixF : Int))

/-- Sum of (-1)^k x^(2k+o) / (2k+o)! from a term on; `n` is the next factor 2k+o+1. -/
def trigSeries (x2 : Int) : Nat → Nat → Int → Int
  | 0, _, _ => 0
  | fuel + 1, n, term =>
    term + trigSeries x2 fuel (n + 2) (-(fixMul term x2) / ((n * (n + 1) : Nat) : Int))

/-- Angle 2 pi f / 2^32 of a fraction below a quarter turn. -/
def fixAngle (f : Nat) : Int := ((2 * fixPi * f / 2 ^ 32 : Nat) : Int)

/-- Cosine and sine of 2 pi f / 2^32 for 0 < f < 2^30, as inexact values. -/
def quadrant (f : Nat) : Xf × Xf :=
  let x := fixAngle f
  let x2 := fixMul x x
  let co := trigSeries x2 48 1 (fixOne : Int)
  let si := trigSeries x2 48 2 x
  (jam false co.toNat false (-(fixF : Int)), jam false si.toNat false (-(fixF : Int)))

/-- Cosine and sine of t / 2^32 of a turn, each exact or with sticky bit; an exact zero is +0
(R227 and its worked example). -/
def cosSin (t : Nat) : Xf × Xf :=
  let q := t / 2 ^ 30 % 4
  let f := t % 2 ^ 30
  let b := if f = 0 then (Xf.fin false 1 0, Xf.fin false 0 0) else quadrant f
  let negz := fun (x : Xf) => if x.isZero then Xf.fin false 0 0 else x.negate
  match q with
  | 0 => b
  | 1 => (negz b.2, b.1)
  | 2 => (negz b.1, negz b.2)
  | _ => (b.2, negz b.1)

def f32Exp (a : F32) : F32 × Ev := f32Result [xOfF32 a] (xOfF32 a).exp
def f32Exp2 (a : F32) : F32 × Ev := f32Result [xOfF32 a] (xOfF32 a).exp2
def f32Log2 (a : F32) : F32 × Ev := f32Result [xOfF32 a] (xOfF32 a).log2

end Sys2Proof.Machine
end

