-- ==== Sys2Proof/Machine/NbData.lean ====
section
/-! DEFINITION. What near-bank commands compute from the words of their bank (05 R203-R206; 06 R229-R234), and when they
read those words. -/

namespace Sys2Proof.Machine

/-! ### The command word (Table 5.7) -/

def nbOp (w : EccWord) : Nat := fld w 0 4
def nbBank (w : EccWord) : Nat := fld w 4 4
def nbWfmt (w : EccWord) : Nat := fld w 8 4
def nbBf16 (w : EccWord) : Bool := bit w 12
def nbW (w : EccWord) : Nat := fld w 16 20
def nbX (w : EccWord) : Nat := fld w 36 20
def nbY (w : EccWord) : Nat := fld w 56 20
def nbRows (w : EccWord) : Nat := fld w 76 16 + 1
def nbK (w : EccWord) : Nat := 32 * (fld w 92 8 + 1)
def nbG (w : EccWord) : Nat := fld w 76 4 + 1
def nbD (w : EccWord) : Nat := 32 * (fld w 92 3 + 1)
def nbMask (w : EccWord) : Nat := fld w 100 16
def nbScale (w : EccWord) : F32 := BitVec.ofNat 32 (fld w 116 32)

def maskBanks (m : Nat) : List Nat := (List.range 16).filter fun b => m.testBit b

/-- R206: no reserved bit, and the limits of Table 5.8. -/
def nbWordOk (w : EccWord) : Bool :=
  decide (fld w 13 3 = 0) && decide (fld w 148 108 = 0) &&
    match nbOp w with
    | 1 => decide (nbWfmt w = 0 ∨ nbWfmt w = 1 ∨ nbWfmt w = 4 ∨ nbWfmt w = 5) && decide (nbMask w = 0)
        && decide (nbScale w = 0)
    | 2 => decide (nbWfmt w = 0) && !nbBf16 w && decide (fld w 80 12 = 0) && decide (fld w 95 5 = 0)
        && decide (nbMask w = 0)
    | 3 => decide (nbWfmt w = 0) && !nbBf16 w && decide (nbX w = 0) && decide (fld w 92 8 = 0)
        && decide ((maskBanks (nbMask w)).length ≥ 2) && decide (nbScale w = 0)
    | _ => false

/-- Near-bank strokes of the final phase (R202). -/
def nbFinal (w : EccWord) : Nat :=
  match nbOp w with
  | 1 => ceilDiv (nbRows w) 512
  | 2 => ceilDiv (nbG w * (1 + nbD w / 8)) 64
  | _ => ceilDiv (nbRows w) 8

/-- Duration in near-bank strokes (Table 5.8). -/
def nbDuration (w : EccWord) : Nat :=
  match nbOp w with
  | 1 => ceilDiv (nbK w) 1024 + ceilDiv (nbRows w * nbK w) 1024 + nbFinal w
  | 2 => ceilDiv (nbG w * nbD w) 1024 + ceilDiv (nbG w * nbD w) 8 + nbFinal w
  | _ => 2 * ceilDiv (nbRows w) 8 + 1

/-- Words of the vector of an MV, and of the queries of an ATTN. -/
def nbXWords (w : EccWord) : Nat := if nbOp w = 1 then nbK w / 16 else nbG w * nbD w / 16

/-! ### Rows of a matrix in bank memory (R84, R203, R229) -/

/-- Words that hold `rows` rows of k elements in a format. -/
def matrixWords (fmt rows k : Nat) : Nat :=
  if fmt ≤ 1 then rows * k / 32
  else if fmt = 2 then rows * k / 16
  else ceilDiv (rows * k / 32) 32 * groupWords (decide (fmt = 4))

/-- The rows as exact values with block scales applied (R52). -/
def matrixRows (fmt rows k : Nat) (ws : List EccWord) : List (List Xf) :=
  if fmt ≤ 2 then (chunksOf k (rowElems fmt ws)).take rows
  else
    let bs8 := decide (fmt = 4)
    let blocks := (chunksOf (groupWords bs8) ws).flatMap (blocksOfGroup bs8)
    (chunksOf k (blocks.flatMap fun b => b.elems.map (elemValue bs8 b.scale))).take rows

/-- BF16 values of a vector of k elements. -/
def bf16Vector (k : Nat) (ws : List EccWord) : List Xf := (rowElems 2 ws).take k

/-! ### MV, ATTN, REDUCE -/

/-- MV: one dot product a row (R203), narrowed when OUTF asks. -/
def mvResults (w : EccWord) (weights x : List EccWord) : List EccWord × Ev :=
  let v := bf16Vector (nbK w) x
  let r := evMap (fun row => nbDot row v) (matrixRows (nbWfmt w) (nbRows w) (nbK w) weights)
  if nbBf16 w then
    let n := evMap (fun y => narrowBf16 (xOfF32 y)) r.1
    (packWords 2 (n.1.map BitVec.toNat), r.2.plus n.2)
  else (packWords 4 (r.1.map BitVec.toNat), r.2)

/-- Visibility of token t (R232). -/
def tokenVisible (slot h0 : EccWord) (t : Nat) : Bool :=
  decide (t < fld h0 8 7) &&
    match fld slot 24 2 with
    | 0 => false
    | 1 => true
    | 2 => bit slot (128 + t)
    | _ => decide (fld h0 64 48 + t ≤ fld slot 64 48)

/-- One head over a page (R204). -/
def attnHead (scale : F32) (d : Nat) (q : List Xf) (keys vals : List (List Xf)) (vis : List Bool) :
    (F32 × F32 × List F32) × Ev :=
  let sc := evMap (fun k =>
    let a := nbDot k q
    let b := f32Mul a.1 scale
    (b.1, a.2.plus b.2)) keys
  let seen := (sc.1.zip vis).filter Prod.snd
  let m := match seen with
    | [] => f32Inf true
    | p :: ps => ps.foldl (fun m x => (f32Max m x.1).1) p.1
  let p := evMap (fun (x : F32 × Bool) =>
    if x.2 then
      let a := f32Sub x.1 m
      let b := f32Exp a.1
      (b.1, a.2.plus b.2)
    else (0, Ev.zero)) (sc.1.zip vis)
  let l := pairTree f32Add 6 p.1
  let o := evMap (fun i => nbDot (p.1.map xOfF32) (vals.map fun v => v.getD i (.fin false 0 0))) (List.range d)
  ((m, l.1, o.1), ((sc.2.plus p.2).plus l.2).plus o.2)

/-- Result words of a head: m and l, then o in FP32. -/
def headWords (r : F32 × F32 × List F32) : List EccWord :=
  BitVec.ofNat 256 (r.1.toNat + 2 ^ 32 * r.2.1.toNat) :: packWords 4 (r.2.2.map BitVec.toNat)

/-- W of Table 6.6. -/
def pageRegion (fmt d : Nat) : Nat := matrixWords fmt 64 d

/-- Formats a page may have (Table 6.5). -/
def pageFmtOk (f : Nat) : Bool := decide (f ≤ 2 ∨ f = 4 ∨ f = 5)

/-- Attention over a page for every head (R204). -/
def attnResults (w slot h0 : EccWord) (x keys vals : List EccWord) : List EccWord × Ev :=
  let d := nbD w
  let fmt := fld h0 0 4
  let vis := (List.range 64).map (tokenVisible slot h0)
  let r := evMap (fun q => attnHead (nbScale w) d q (matrixRows fmt 64 d keys) (matrixRows fmt 64 d vals) vis)
    (chunksOf d (bf16Vector (nbG w * d) x))
  (r.1.flatMap headWords, r.2)

/-- The result of a command that names no page (R233). -/
def emptyAttn (w : EccWord) : List EccWord :=
  (List.range (nbG w)).flatMap fun _ => headWords (f32Inf true, 0, List.replicate (nbD w) 0)

/-- REDUCE: element by element over a pairwise tree of the source banks (R205). -/
def reduceResults (sources : List (List EccWord)) : List EccWord × Ev :=
  let lv := ceilLog2 sources.length
  let vals := sources.map fun ws => (chunksOf 4 (bytesOfWords ws)).map fun b => BitVec.ofNat 32 (leNat b)
  let n := (vals.headD []).length
  let r := evMap (fun i => pairTree f32Add lv
    (vals.map (fun v => v.getD i 0) ++ List.replicate (2 ^ lv - sources.length) 0)) (List.range n)
  (packWords 4 (r.1.map BitVec.toNat), r.2)

end Sys2Proof.Machine
end

