-- ==== Sys2Proof/Machine/Jobs.lean ====
section
/-! DEFINITION. Work in flight (log 10): what the ops of a core and the commands of its vault do in the ac after their start.
Each ac's work is a job; a core's jobs stand in the order of their ac and are done when its next op, a flit, a boundary
or another access comes (03 R71-R73, R81-R93, R103, R104; 04 R113-R115; 05 R173, R176, R177, R201, R202). -/

namespace Sys2Proof.Machine

/-! ### The calendar -/

/-- Place of a job in the calendar: its ac, late jobs after the others. -/
def Job.rank (j : Job) : Nat := 2 * j.at' + (if j.late then 1 else 0)

/-- Enter a job after those of the same place. -/
def insertJob (j : Job) : List Job → List Job
  | [] => [j]
  | i :: is => if j.rank < i.rank then j :: i :: is else i :: insertJob j is

def CoreState.plan (k : CoreState) (js : List Job) : CoreState :=
  { k with todo := js.foldl (fun l j => insertJob j l) k.todo }

/-- The id of an op in flight, above 0, and the op. -/
def flightId (sg op : Nat) : Nat := sg * 32768 + op + 1

def CoreState.flight (k : CoreState) (id : Nat) : Option Flight := k.flights.find? fun f => f.id = id

def CoreState.setFlight (k : CoreState) (f : Flight) : CoreState :=
  { k with flights := k.flights.map fun g => if g.id = f.id then f else g }

/-- Word j that the op has read. -/
def Flight.word' (f : Flight) (j : Nat) : EccWord := tblGet 0 f.got j

/-- The id under which the work of a bank's command stands. -/
def nbId (bank : Nat) : Nat := 2 ^ 96 + bank

/-- The id under which work without an op in flight stands. -/
def looseId : Nat := 2 ^ 97

/-- Work of commands of the vault, which goes on when a program ends (R166). -/
def Job.ofVault (j : Job) : Bool :=
  match j.act with
  | .nbRead _ _ _ => true
  | .nbForm _ => true
  | .nbEnd _ => true
  | _ => false

/-! ### Faults of work in flight (R104) -/

/-- An op in flight that faults does no more (R104): its later work, the rows it has brought to queues, and the flits that
it has not filled are gone. -/
def State.cancel (s : State) (c : CoreId) (id : Nat) : State :=
  let k := s.core c
  let s1 := s.setCore c { k with
    todo := k.todo.filter fun j => j.id ≠ id
    flights := k.flights.filter fun f => f.id ≠ id
    feed := (k.feed.map fun e => (e.1, e.2.filter fun r => r.id ≠ id)).filter fun e => e.2 ≠ []
    expects := match k.flight id with
      | some f => k.expects.filter fun e => e.op ≠ f.op
      | none => k.expects }
  { s1 with flits := s1.flits.filter fun g => !(decide (g.flit.words = []) && decide (g.flit.kind = .data) && decide (g.from' = id)) }

/-- The op in flight of an id faults, in an ac after its start. -/
def State.flightFault (s : State) (c : CoreId) (f : Flight) (code sg detail : Nat) : State :=
  (s.cancel c f.id).coreFaultAt c f.op code sg detail

/-! ### Reading and writing -/

/-- Word j at an address is read by an op in flight: an uncorrectable one is a fault and is not delivered (R72, R188).
FAULT_AC is the ac of the read that meets it (log 60). -/
def State.jobRead (s : State) (c : CoreId) (f : Flight) (sg j addr : Nat) : State :=
  let r := s.countReads reqCore [addr]
  match r.2 with
  | some a => r.1.flightFault c f fBusEcc sg a
  | none => r.1.setCore c ((r.1.core c).setFlight { f with got := tblSet 0 f.got j (s.word addr) })

/-! ### Queues and the array (R81, R86-R88) -/

def CoreState.queue (k : CoreState) (u : Nat) : List FeedRow := tblGet [] k.feed u

/-- A row takes a position in its queue; a ninth is a fault of its FLOAD (R86). -/
def State.jobPush (s : State) (c : CoreId) (f : Flight) (sg q i validFrom : Nat) : State :=
  let k := s.core c
  if (k.queue q).length ≥ 8 then s.flightFault c f fOverflow sg q
  else
    let r : FeedRow := { id := f.id, op := f.op, k := i, fmt := opFmt f.word, words := [], scales := [], validFrom := validFrom }
    s.setCore c { k with feed := tblMod [] k.feed q (· ++ [r]) }

/-- What a row of an FLOAD holds, once its last word is read (R84, R87). -/
def Flight.rowOf (f : Flight) (r : FeedRow) : FeedRow :=
  let fmt := opFmt f.word
  { r with
    words := (List.range (rowWords fmt)).map fun j => f.word' (rowWordOff fmt r.k j)
    scales := if rowBlocks fmt = 0 then [] else rowScales fmt r.k (f.word' (scaleWordOff fmt r.k)) }

def State.jobRow (s : State) (c : CoreId) (f : Flight) (q i : Nat) : State :=
  let k := s.core c
  s.setCore c { k with feed := tblMod [] k.feed q (·.map fun r => if r.id = f.id ∧ r.k = i then f.rowOf r else r) }

/-- The heads of the active queues. -/
def CoreState.heads (k : CoreState) (w : OpWord) : List (Nat × Option FeedRow) :=
  (List.range (runU w)).map fun u => (u, (k.queue u).head?)

/-- R88: the first active head of another format. -/
def wrongFormat (w : OpWord) (hs : List (Nat × Option FeedRow)) : Option Nat :=
  (hs.find? fun h => match h.2 with | some r => decide (r.fmt ≠ runFmtF w) | none => false).map Prod.fst

/-- R87: the first active head that is absent, or not valid in ac t. -/
def notValid (t : Nat) (hs : List (Nat × Option FeedRow)) : Option Nat :=
  (hs.find? fun h => match h.2 with | some r => decide (r.validFrom > t) | none => true).map Prod.fst

/-- Vector 0 enters the array: the heads are judged, and the run keeps what they hold. A head of another format is a fault
of the start ac (R88), one that is absent or not valid a fault of this ac (R87). -/
def State.jobEnter (s : State) (c : CoreId) (f : Flight) (sg : Nat) : State :=
  let hs := (s.core c).heads f.word
  match wrongFormat f.word hs, notValid sg hs with
  | some q, _ => s.flightFault c f fFormat f.start q
  | none, some q => s.flightFault c f fUnderflow sg q
  | none, none => s.setCore c ((s.core c).setFlight { f with rows := hs.filterMap Prod.snd })

/-- Words and scales of vector i of a run (R82). -/
def Flight.vector (f : Flight) (i : Nat) : List EccWord × List Nat :=
  let fmt := opFmt f.word
  ((List.range (rowWords fmt)).map fun j => f.word' (rowWordOff fmt i j),
    if rowBlocks fmt = 0 then [] else rowScales fmt i (f.word' (scaleWordOff fmt i)))

/-- INIT sets slot a of inactive units to +0 (R79). -/
def clearInactive (w : OpWord) (a : Nat) (t : Tbl F32) : Tbl F32 :=
  if runInit w then (span (runU w) (128 - runU w)).foldl (fun t u => tblDel t (accKey u a)) t else t

/-- Slot ACC + i is updated (R79, Table 3.5). -/
def State.jobSlot (s : State) (c : CoreId) (f : Flight) (i : Nat) : State :=
  let k := s.core c
  let w := f.word
  let v := f.vector i
  let r := addVector (opFmt w) (runFmtF w) v.1 v.2 (runInit w) (runAcc w + i) f.rows 0 (k.acc, Ev.zero)
  (s.setCore c { k with acc := clearInactive w (runAcc w + i) r.1 }).gather r.2

/-- The heads of the active queues are popped (Table 3.5). -/
def State.jobPop (s : State) (c : CoreId) (f : Flight) : State :=
  let k := s.core c
  s.setCore c { k with feed := (List.range (runU f.word)).foldl (fun t u => tblMod [] t u List.tail) k.feed }

/-! ### Registers and slots -/

/-- The result of an op in flight stands among those on their way from its start on; its values come with the words. -/
def CoreState.fillResult (k : CoreState) (ready : Nat) (vals : List (Nat × F32)) : CoreState :=
  { k with vPend := k.vPend.map fun r =>
      if r.ready = ready ∧ r.vals.map Prod.fst = vals.map Prod.fst then { r with vals := vals } else r }

/-- Lanes that slot i of a DRAIN to registers reaches (R89). -/
def drainLane (w : OpWord) (i u : Nat) : Nat := laneKey (drainVd w + i / 2) (i % 2 * 128 + u)

/-- Words of one slot in core SRAM (R89). -/
def drainPer (w : OpWord) : Nat := if opFmt w = 3 then 16 else 8

/-- Slot ACC + i is read (R89); before its last update that is a fault (R90). -/
def State.jobDrain (s : State) (c : CoreId) (f : Flight) (sg i : Nat) : State :=
  let k := s.core c
  let w := f.word
  let a := drainAcc w + i
  if tblGet 0 k.accReady a > sg then s.flightFault c f fAcc sg a
  else if opCode w = 1 then
    let r := slotWords (opFmt w) (k.slot a)
    (s.setCore c (k.setFlight { f with got := tblFill 0 f.got (drainPer w * i) r.1 })).gather r.2
  else s.setCore c (k.fillResult (sg + 3) ((k.slot a).zipIdx.map fun p => (drainLane w i p.2, p.1)))

/-- Words of a load in order. -/
def Flight.words (f : Flight) (n : Nat) : List EccWord := (List.range n).map f.word'

/-- The registers that a load fills, and its events (R94). -/
def loadValues (w : OpWord) (ws : List EccWord) : List (Nat × F32) × Ev :=
  if opCode w = 1 then
    (((chunksOf (elemBytes (opFmt w)) (bytesOfWords ws)).zipIdx.map fun p =>
      (laneKey (vmemV w) p.2, widenElem (opFmt w) (leNat p.1))), Ev.zero)
  else
    let bs8 := decide (opFmt w = 4)
    let r := evMap (widenBlock bs8) (blocksOfGroup bs8 ws)
    (r.1.flatten.zipIdx.map fun p => (laneKey (vmemV w) 0 + p.2, p.1), r.2)

/-- The ac from which a load's registers may be read (Table 3.11). -/
def loadReady (w : OpWord) (sg : Nat) : Nat := sg + vmemBusy w + 2

def State.jobLoad (s : State) (c : CoreId) (f : Flight) : State :=
  let r := loadValues f.word (f.words (vmemWords (opCode f.word) (opFmt f.word)))
  (s.setCore c ((s.core c).fillResult (loadReady f.word f.start) r.1)).gather r.2

/-- Flit i of an MSEND has its words (R113). -/
def State.jobFlit (s : State) (f : Flight) (i : Nat) : State :=
  let n := min 8 (moveLen f.word - 8 * i)
  let ws := ((List.range n).map fun j => f.word' (8 * i + j)) ++ List.replicate (8 - n) 0
  { s with flits := s.flits.map fun g =>
      if g.from' = f.id ∧ g.nth = i then { g with flit := { g.flit with words := ws } } else g }

/-! ### Near-bank commands (R201, R202, R206) -/

/-- The banks of a command, by their run: those that started with it. -/
def State.nbDrop (s : State) (c : CoreId) (r : NbRun) : State :=
  (List.range 16).foldl (fun (s : State) b =>
    let n := s.nbUnit c b
    if n.running.any fun q => q.start = r.start ∧ q.word = r.word then s.setNb c b { n with running := none } else s) s

/-- A command that meets an uncorrectable word stops (Table 5.2). -/
def State.nbStop (s : State) (c : CoreId) (bank sg addr : Nat) (r : NbRun) : State :=
  let k := s.core c
  ((s.setCore c { k with todo := k.todo.filter fun j => j.id ≠ nbId bank }).nbDrop c r).recordFault fBusEcc c.uid sg 0 addr

def State.jobNbRead (s : State) (c : CoreId) (sg bank j addr : Nat) : State :=
  let n := s.nbUnit c bank
  match n.running with
  | none => s
  | some r =>
    let q := s.countReads reqNearBank [addr]
    match q.2 with
    | some a => q.1.nbStop c bank sg a r
    | none => q.1.setNb c bank { n with running := some { r with got := tblSet 0 r.got j (s.word addr) } }

/-- The results of a command from the words it has read. -/
def nbResults (w : EccWord) (got : Tbl EccWord) : List EccWord × Ev :=
  let rd := fun o n => (List.range n).map fun j => tblGet 0 got (o + j)
  match nbOp w with
  | 1 =>
    let xn := nbXWords w
    mvResults w (rd xn (matrixWords (nbWfmt w) (nbRows w) (nbK w))) (rd 0 xn)
  | 2 =>
    let xn := nbXWords w
    let slot := tblGet 0 got 0
    if !bit slot 20 then (emptyAttn w, Ev.zero)
    else
      let h0 := tblGet 0 got (1 + xn)
      let n := pageRegion (fld h0 0 4) (nbD w)
      attnResults w slot h0 (rd 1 xn) (rd (11 + xn) n) (rd (11 + xn + n) n)
  | _ =>
    let n := 8 * nbRows w
    reduceResults ((maskBanks (nbMask w)).zipIdx.map fun p => rd (p.2 * n) n)

/-- The final phase begins: the results stand in the unit (R202). -/
def State.jobNbForm (s : State) (c : CoreId) (bank : Nat) : State :=
  let n := s.nbUnit c bank
  match n.running with
  | none => s
  | some r =>
    let q := nbResults r.word r.got
    let res := q.1.zipIdx.map fun p => (bankBase c bank + 32 * (nbY r.word + p.2), p.1)
    (s.setNb c bank { n with running := some { r with results := res } }).gather q.2

/-- Results reach the bank at the end boundary, and the units are idle again (R201). -/
def State.endNb (s : State) (c : CoreId) (bank : Nat) : State :=
  let n := s.nbUnit c bank
  match n.running with
  | none => s
  | some r => (r.results.foldl (fun s p => s.unitWrite p.1 p.2) s).setNb c bank { n with running := none }

/-- The end of the command that ends with ac sg. -/
def State.jobNbEnd (s : State) (c : CoreId) (sg bank : Nat) : State :=
  if (s.nbUnit c bank).running.any fun r => r.stop = sg + 1 then s.endNb c bank else s

/-! ### Deliveries (R115) -/

/-- An op that finds no flit, or an empty one, in an ac in which it expects a delivery: a RUN in flight does no more (R104). -/
def State.expectFault (s : State) (c : CoreId) (e : Expect) : State :=
  match e.taker with
  | .run id => (s.cancel c id).coreFaultAt c e.op fBusEcc e.at' 0
  | .recv _ _ => s.coreFaultAt c e.op fBusEcc e.at' 0

def State.jobWant (s : State) (c : CoreId) (sg op : Nat) : State :=
  let k := s.core c
  match k.expects.find? fun e => e.at' = sg ∧ e.op = op with
  | some e => (s.setCore c { k with expects := k.expects.filter fun x => x ≠ e }).expectFault c e
  | none => s

/-- A flit that nothing takes in the ac of its delivery: recorded with the op that the core has reached (log 60). -/
def State.jobUnserved (s : State) (c : CoreId) (sg op : Nat) : State :=
  let k := s.core c
  if k.arrived.any fun a => a.at' = sg then
    (s.setCore c { k with arrived := k.arrived.filter fun a => a.at' ≠ sg }).coreFaultAt c op fBusEcc sg 0
  else s

/-! ### Doing the work -/

/-- A step of an op in flight. -/
def State.flightJob (s : State) (c : CoreId) (f : Flight) (sg : Nat) : Act → State
  | .read j a => s.jobRead c f sg j a
  | .lost j => s.setCore c ((s.core c).setFlight { f with got := tblSet 0 f.got j (Config.unreadWord (f.id + j)) })
  | .put j a => s.unitWrite a (f.word' j)
  | .push q k v => s.jobPush c f sg q k v
  | .row q k => s.jobRow c f q k
  | .enter => s.jobEnter c f sg
  | .slot i => s.jobSlot c f i
  | .pop => s.jobPop c f
  | .drain i => s.jobDrain c f sg i
  | .load => s.jobLoad c f
  | .flit i => s.jobFlit f i
  | _ => s

/-- One job. -/
def State.runJob (s : State) (c : CoreId) (j : Job) : State :=
  match j.act with
  | .store a w => s.unitWrite a w
  | .fault op code d => s.coreFaultAt c op code j.at' d
  | .want op => s.jobWant c j.at' op
  | .unserved op => s.jobUnserved c j.at' op
  | .nbRead b i a => s.jobNbRead c j.at' b i a
  | .nbForm b => s.jobNbForm c b
  | .nbEnd b => s.jobNbEnd c j.at' b
  | a =>
    match (s.core c).flight j.id with
    | some f => s.flightJob c f j.at' a
    | none => s

/-- Jobs of a core of the ac before sigma sg, in order, at most n of them. -/
def State.runJobs (c : CoreId) (sg : Nat) : Nat → State → State
  | 0, s => s
  | n + 1, s =>
    match (s.core c).todo with
    | [] => s
    | j :: js => if j.at' < sg then State.runJobs c sg n ((s.setCore c { s.core c with todo := js }).runJob c j) else s

/-- Ops whose work is done are in flight no more. -/
def CoreState.dropFlights (k : CoreState) : CoreState :=
  { k with flights := k.flights.filter fun f => k.todo.any fun j => j.id = f.id }

/-- The work of a core and of its vault up to sigma sg is done: every job of an earlier ac. -/
def State.catchUp (s : State) (c : CoreId) (sg : Nat) : State :=
  let s1 := State.runJobs c sg (s.core c).todo.length s
  s1.setCore c (s1.core c).dropFlights

/-- The same for every core. -/
def State.catchUpAll (s : State) (sg : Nat) : State :=
  (s.cores.map Prod.fst).foldl (fun s n => s.catchUp (coreOfNum n) sg) s

end Sys2Proof.Machine
end

