-- ==== Sys2Proof/Machine/Control.lean ====
section
/-! DEFINITION. Issue of op words and route words (03 R75, R76, R99-R102, R545; 05 R216) and the
control ops of Table 3.13. A command for an op takes effect when the unit issues and its next word
is that op; on any other state it leaves the state as it is (log 4). -/

namespace Sys2Proof.Machine

/-- What the issue logic finds for a command. -/
inductive Fetched where
  | idle
  | fault (code : Nat) (sg : Nat) (detail : Nat)
  | op (w : OpWord) (sg : Nat)
deriving DecidableEq, Repr

/-- Units follow the schedule: a program runs, its stroke 0 has begun, no repair is under way and
the stroke is not held (R453). -/
def State.issuing (s : State) : Bool :=
  decide (s.st = .running) && s.umpire.begun && s.umpire.repair.isNone && !s.umpire.holding

def Issue.live (i : Issue) : Bool := !i.halted && !i.stopped && i.waiting.isNone

/-- Start sigma of a word after the words issued before it (R75). -/
def startSigma (i : Issue) (w : OpWord) : Nat := (i.stroke + opAdv w) * 1024 + opSlot w

/-- Check-state key of a store word (R73). -/
def storeEccKey (u : UnitId) (idx : Nat) : Nat :=
  match u with
  | .core c => 2 ^ 52 + c.num * 32768 + idx / 2
  | .router r => 2 ^ 53 + r.num * 32768 + idx / 2

def unitWordOk (u : UnitId) (w : OpWord) : Bool :=
  match u with | .core _ => coreWordOk w | .router _ => routeWordOk w

def unitNamed (u : UnitId) (unit code : Nat) : Bool :=
  match u with
  | .core _ => (namedBits unit code).isSome
  | .router _ => (routeNamedBits unit code).isSome

/-- Fault code by unit kind: a router reports every condition of its issue as 0x0B, but for the
conflicts of mesh use (R546). -/
def issueCode (u : UnitId) (code : Nat) : Nat :=
  match u with | .core _ => code | .router _ => fIllegal

/-- Busy key: a ROUTE is judged by its input (R117), any other op by its unit (R76). -/
def busyKey (u : UnitId) (w : OpWord) : Nat :=
  match u with
  | .core _ => opUnit w
  | .router _ => if opUnit w = 0 then 0 else 16 + routeIn w

/-- Check state of the unit's next store word (R73). -/
def State.storeState (s : State) (u : UnitId) : Nat := (tblGet 0 s.ecc (storeEccKey u (s.issue u).idx)).toNat

/-- The issue logic has read the unit's next store word (R73, R187, Table 5.4; log 62). -/
def State.storeRead (s : State) (u : UnitId) : State :=
  match s.storeState u with
  | 0 => s
  | 1 => s.bumpReg 0x5220 2 1
  | _ => (((s.bumpReg 0x5220 4 1).setRegN 0x5220 5 (Config.storeWordAddr (storeEccKey u (s.issue u).idx)).toNat).setRegN
      0x5220 6 reqCore).event evEccUncorrectable

def State.fetch (s : State) (u : UnitId) (unit code : Nat) : Fetched :=
  let i := s.issue u
  if !s.issuing || !i.live || (s.store u).isEmpty then .idle
  else
    match (s.store u)[i.idx]? with
    | none => .fault fIllegal i.reached 0
    | some w =>
      let sg := startSigma i w
      if sg / 1024 > s.umpire.stroke then .idle
      else if s.storeState u ≥ 2 then .fault fBusEcc sg (Config.storeWordAddr (storeEccKey u i.idx)).toNat
      else if !unitNamed u (opUnit w) (opCode w) then .fault fIllegal sg 0
      else if decide (opUnit w ≠ unit) || decide (opCode w ≠ code) then .idle
      else if !unitWordOk u w then .fault fIllegal sg 0
      else if sg < i.reached then .fault (issueCode u fSlot) sg 0
      else if sg < tblGet 0 i.unitBusy (busyKey u w) then
        .fault (match u with | .core _ => fBusy | .router _ => if unit = 0 then fIllegal else fBusEcc) sg 0
      else .op w sg

/-- Records of the split map for a unit (R216). -/
def State.variantRecs (s : State) (uid : Nat) : List VariantRec :=
  match s.image with
  | some im => match im.split with
    | some sp => sp.recs.filter fun r => r.uid = uid
    | none => []
  | none => []

/-- Variant selected for a window; variant 0 before any dispatch. -/
def State.variantOf (s : State) (window : Nat) : Nat :=
  ((s.umpire.sel.find? fun p => p.1 = window).map Prod.snd).getD 0

/-- One step of settling (R99, R216): the end of an iteration of the innermost loop, the end of a variant, the start of a
window; none when the next word is reached. A loop inside a variant ends before the variant does, even where both end
with one word; a loop around the window is judged past the window, where the variant has jumped. -/
def settleOnce (recs : List VariantRec) (sel : Nat → Nat) (i : Issue) : Option Issue :=
  match i.frames.head?.filter fun f => i.idx = f.stop with
  | some f =>
    let stroke := f.base + (f.iter + 1) * f.spanStrokes
    if f.leaving || (decide (f.count ≠ 0) && decide (f.iter + 1 ≥ f.count)) then
      some { i with frames := i.frames.tail, stroke := stroke }
    else
      some { i with frames := { f with iter := f.iter + 1 } :: i.frames.tail, stroke := stroke, idx := f.first }
  | none =>
    if i.win.any fun p => i.idx = p.1 then
      some { i with idx := (i.win.getD (0, 0)).2, win := none }
    else
      match recs.find? fun r => i.win.isNone && decide (r.first = i.idx) with
      | some r =>
        let v := sel r.window
        let start := r.first + (r.lens.take v).sum
        some { i with idx := start, win := some (start + r.lens.getD v 0, r.first + r.lens.sum) }
      | none => none

def settleIssue (recs : List VariantRec) (sel : Nat → Nat) : Nat → Issue → Issue
  | 0, i => i
  | fuel + 1, i =>
    match settleOnce recs sel i with
    | some j => settleIssue recs sel fuel j
    | none => i

/-- A unit's issue state with loops and windows settled. -/
def State.settled (s : State) (u : UnitId) (i : Issue) : Issue :=
  settleIssue (s.variantRecs (unitUid u)) s.variantOf 64 i

/-- Move past the op issued at sigma sg: its unit is busy for `busy` ac and the op is complete from
`done` on. -/
def Issue.after (i : Issue) (key sg busy done : Nat) : Issue :=
  { i with idx := i.idx + 1, stroke := sg / 1024, reached := sg, doneAt := max i.doneAt done,
           unitBusy := tblSet 0 i.unitBusy key (sg + busy) }

def State.issued (s : State) (u : UnitId) (w : OpWord) (sg busy done : Nat) : State :=
  s.setIssue u (s.settled u ((s.issue u).after (busyKey u w) sg busy done))

/-- The state at sigma sg as a unit's next op finds it: time has gone on, and a core's work of earlier ac is done. -/
def State.atStart (s : State) (u : UnitId) (sg : Nat) : State :=
  match u with
  | .core c => (s.advanceSigma sg).catchUp c sg
  | .router _ => s.advanceSigma sg

/-- Run an op of a unit: its effect, given the word and its start sigma. Work of earlier ac that stops the unit with a
fault comes first (R104). -/
def State.runOp (s : State) (u : UnitId) (unit code : Nat) (f : State → OpWord → Nat → State) : State :=
  match s.fetch u unit code with
  | .idle => s
  | .fault c sg d => let t := s.atStart u sg; if (t.issue u).live then (t.storeRead u).unitFault u c sg d else t
  | .op w sg => let t := s.atStart u sg; if (t.issue u).live then f (t.storeRead u) w sg else t

/-- NOP: the next word in order (Table 3.13). -/
def execNop (u : UnitId) (s : State) : Host.Outcome State Fault Refusal :=
  .next (s.runOp u 0 0 fun s w sg => s.issued u w sg 1 (sg + 1))

/-- HALT: the unit issues no further op (Table 3.13, R102). -/
def execHalt (u : UnitId) (s : State) : Host.Outcome State Fault Refusal :=
  .next (s.runOp u 0 1 fun s _ sg =>
    s.setIssue u { (s.issue u).after 0 sg 1 (sg + 1) with halted := true })

/-- A LOOP with a COUNT is entered (R99); an empty body takes its strokes at once (log 24). -/
def Issue.enterLoop (i : Issue) (w : OpWord) (sg count : Nat) : Issue :=
  let j := i.after 0 sg 1 (sg + 1)
  if loopBody w = 0 then { j with stroke := sg / 1024 + count * loopSpan w }
  else
    let f : LoopFrame :=
      { first := i.idx + 1, stop := i.idx + 1 + loopBody w, count := count,
        iter := 0, base := sg / 1024, spanStrokes := loopSpan w, leaving := false }
    { j with frames := f :: i.frames }

/-- LOOP (R99). A fifth nested loop is a condition that the loader refuses (R546). An empty body
repeats nothing: COUNT 0 never ends and leaves the unit at the LOOP (log 24). -/
def State.startLoop (s : State) (u : UnitId) (w : OpWord) (sg : Nat) : State :=
  let i := s.issue u
  if i.frames.length ≥ 4 then s.unitFault u fIllegal sg 0
  else if loopBody w = 0 ∧ loopCount w = 0 then s
  else s.setIssue u (s.settled u (i.enterLoop w sg (loopCount w)))

def execLoop (u : UnitId) (s : State) : Host.Outcome State Fault Refusal :=
  .next (s.runOp u 0 2 fun s w sg => s.startLoop u w sg)

/-- EXIT_IF: the innermost loop ends after the current iteration when outcome bit 1 is set (R101). -/
def leaveLoop (i : Issue) : Issue :=
  match i.frames with
  | f :: fs => if i.outcome.getLsbD 1 then { i with frames := { f with leaving := true } :: fs } else i
  | [] => i

def execExitIf (u : UnitId) (s : State) : Host.Outcome State Fault Refusal :=
  .next (s.runOp u 0 3 fun s _ sg =>
    s.setIssue u (s.settled u ((leaveLoop (s.issue u)).after 0 sg 1 (sg + 1))))

/-- Ops of a core that still wait for flits or well replies (R97, R100). -/
def State.awaits (s : State) : UnitId → Bool
  | .core c => let k := s.core c; !k.wreads.isEmpty || !k.expects.isEmpty
  | .router _ => false

/-- STAKE: starts after every earlier op is complete, then waits (R100, R135). -/
def State.stake (s : State) (u : UnitId) (w : OpWord) (sg : Nat) : State :=
  if s.awaits u then s else
  let i := s.issue u
  let arr := max sg i.doneAt
  let j := i.after 0 sg 1 (sg + 1)
  let s1 := s.setIssue u { j with waiting := some (stakeRdv w), stakeStroke := sg / 1024 }
  { s1 with umpire := { s1.umpire with arrivals := s1.umpire.arrivals ++ [(stakeRdv w, unitUid u, arr)] } }

def execStake (u : UnitId) (s : State) : Host.Outcome State Fault Refusal :=
  .next (s.runOp u 0 4 fun s w sg => s.stake u w sg)

/-- SKIP: N strokes more before the next op (Table 3.13). -/
def execSkip (u : UnitId) (s : State) : Host.Outcome State Fault Refusal :=
  .next (s.runOp u 0 5 fun s w sg =>
    let j := (s.issue u).after 0 sg 1 (sg + 1)
    s.setIssue u (s.settled u { j with stroke := sg / 1024 + skipN w }))

/-! ### Address registers (R98) -/

/-- Reading a register in ac sg: changes made in earlier ac have taken effect; a0 is zero. -/
def CoreState.areg (c : CoreState) (sg n : Nat) : BitVec 23 :=
  if n = 0 then 0
  else
    (c.aPend.filter fun p => p.1 < sg && p.2.1 = n).foldl (fun _ p => p.2.2) (tblGet 0 c.aregs n)

/-- Enter a change made in ac sg, after settling the changes of earlier ac. -/
def CoreState.setAreg (c : CoreState) (sg n : Nat) (v : BitVec 23) : CoreState :=
  let old := c.aPend.filter fun p => p.1 < sg
  let keep := c.aPend.filter fun p => ¬ p.1 < sg
  { c with aregs := old.foldl (fun t p => tblSet 0 t p.2.1 p.2.2) c.aregs,
           aPend := if n = 0 then keep else keep ++ [(sg, n, v)] }

/-- Effective SRAM offset of R77. -/
def CoreState.effOffset (c : CoreState) (w : OpWord) (sg : Nat) : Nat :=
  ((c.areg sg (opAbase w)).toNat + opOffset w) % 2 ^ 23

def execAset (c : CoreId) (s : State) : Host.Outcome State Fault Refusal :=
  .next (s.runOp (.core c) 0 6 fun s w sg =>
    (s.setCore c ((s.core c).setAreg sg (aregN w) (asetValue w))).issued (.core c) w sg 1 (sg + 1))

def execAadd (c : CoreId) (s : State) : Host.Outcome State Fault Refusal :=
  .next (s.runOp (.core c) 0 7 fun s w sg =>
    let k := s.core c
    (s.setCore c (k.setAreg sg (aregN w) (k.areg sg (aregN w) + aaddImm w))).issued (.core c) w sg 1 (sg + 1))

end Sys2Proof.Machine
end

