-- ==== Sys2Proof/Machine/Sram.lean ====
section
/-! DEFINITION. Core SRAM as the ops reach it (03 R70-R72, R77, R103): accesses with their ac, bank collisions, and the start
of an op in flight. -/

namespace Sys2Proof.Machine

/-- The first access that meets another in its bank and ac (R103). -/
def firstCollision : List Nat → List SramAcc → Option SramAcc
  | _, [] => none
  | used, a :: as => if used.contains a.key then some a else firstCollision (a.key :: used) as

/-- Bank and ac of a job's access to core SRAM. -/
def Job.sramKey (j : Job) : Option Nat :=
  let key := fun a : Nat => if a / 2 ^ 52 = 1 then some (j.at' * 32 + a / 32 % 32) else none
  match j.act with
  | .read _ a => key a
  | .put _ a => key a
  | .store a _ => key a
  | _ => none

/-- An access in flight that a later one meets in its bank and ac is not performed: a word to be read stays unread, a word
to be written is not written (R103). -/
def Job.lose (key : Nat) (j : Job) : Option Job :=
  if j.sramKey = some key then
    match j.act with
    | .read i _ => some { j with act := .lost i }
    | _ => none
  else some j

/-- Bank uses by ac that can still be met from sigma sg on. -/
def CoreState.claims (k : CoreState) (sg : Nat) : List Nat := k.bankUse.filter fun u => u ≥ sg * 32

/-- The start of an op in flight: its entry, its work, and the issue of the next op. -/
def State.launch (s : State) (c : CoreId) (w : OpWord) (sg off busy fin : Nat) (jobs : List Job) : State :=
  let k := s.core c
  let f : Flight := { id := flightId sg k.iss.idx, start := sg, op := k.iss.idx, word := w, off := off, got := [], rows := [] }
  (s.setCore c ({ k with flights := k.flights ++ [f] }.plan jobs)).issued (.core c) w sg busy fin

/-- Accesses enter the SRAM banks. Where one meets another in its bank and ac, neither is performed (R103), and it is
answered, and its op alone, the later to start, is charged (DESIGN CHOICE, log 60). -/
def State.claimSram (s : State) (c : CoreId) (sg : Nat) (accs : List SramAcc) : State × Option SramAcc :=
  let k := s.core c
  match firstCollision (k.claims sg) accs with
  | some a => (s.setCore c { k with todo := k.todo.filterMap (Job.lose a.key) }, some a)
  | none => (s.setCore c { k with bankUse := accs.map SramAcc.key ++ k.claims sg }, none)

/-- Bank of an access (R70). -/
def SramAcc.bank (a : SramAcc) : Nat := a.off / 32 % 32

/-- Run an op that reaches core SRAM at its effective offset (R77). Every word lies in the SRAM, or the op faults at its
start (log 25). Where one of its accesses meets another in its bank and ac, the op, the later of the two, faults in that ac
with no part done (R103; the model's choice, log 60). -/
def State.withSram (s : State) (c : CoreId) (w : OpWord) (sg busy fin : Nat) (accs : Nat → List SramAcc)
    (f : State → Nat → State) : State :=
  let off := (s.core c).effOffset w sg
  if off % 32 ≠ 0 then s.unitFault (.core c) fBusAddr sg (sramBase c + off)
  else
    match (accs off).find? fun a => a.off ≥ sramBytes with
    | some a => s.unitFault (.core c) fBusAddr sg (sramBase c + a.off)
    | none =>
      let r := s.claimSram c sg (accs off)
      match r.2 with
      | none => f r.1 off
      | some a =>
        if a.at' = sg then r.1.unitFault (.core c) fBank sg a.bank
        else
          let k := r.1.core c
          (r.1.setCore c (k.plan
            [{ at' := a.at', late := false, id := looseId, act := .fault k.iss.idx fBank a.bank }])).issued (.core c) w sg busy fin

/-- n words from an offset, word j read or written in ac `acOf j`. -/
def sramRun (off n : Nat) (read : Bool) (acOf : Nat → Nat) : List SramAcc :=
  (List.range n).map fun j => { at' := acOf j, off := off + 32 * j, read := read }

/-- Reads and writes of word j of an op at addresses from `base` on. -/
def readJobs (id base n : Nat) (acOf : Nat → Nat) : List Job :=
  (List.range n).map fun j => { at' := acOf j, late := false, id := id, act := .read j (base + 32 * j) }

def putJobs (id base n : Nat) (acOf : Nat → Nat) : List Job :=
  (List.range n).map fun j => { at' := acOf j, late := true, id := id, act := .put j (base + 32 * j) }

/-- Writes of words known already. -/
def storeJobs (base : Nat) (ws : List EccWord) (acOf : Nat → Nat) : List Job :=
  ws.zipIdx.map fun p => { at' := acOf p.2, late := true, id := looseId, act := .store (base + 32 * p.2) p.1 }

/-- The id of the op that a core is about to put in flight. -/
def State.nextId (s : State) (c : CoreId) (sg : Nat) : Nat := flightId sg (s.core c).iss.idx

end Sys2Proof.Machine
end

