-- ==== Sys2Proof/Machine/Array.lean ====
section
/-! DEFINITION. The array, the feeder queues and draining (03 R79-R90): what these ops put in flight at their start. -/

namespace Sys2Proof.Machine

/-! ### RUN (R79-R83, R87, R88) -/

/-- The ac at whose end the heads are popped (Table 3.5). -/
def popAc (w : OpWord) (sg : Nat) : Nat := if runWide w then sg + 4 * runT w + 2 else sg + runT w + 2

/-- Words that a RUN reads, as accesses; a BS8 group's scale word lies in the bank of word 0 and comes with it in one access
of the broadcast reader (R82, log 56). -/
def runClaims (w : OpWord) (sg off : Nat) : List SramAcc :=
  if opFmt w = 4 then
    (List.range (runT w)).flatMap fun i => (List.range (rowWords 4)).map fun j =>
      { at' := runWordAc w sg i j, off := off + 32 * rowWordOff 4 i j, read := true }
  else runAccs w sg off

/-- Work of a RUN after its start: vector 0 enters, each slot is updated, the heads are popped (Table 3.5). -/
def runSteps (w : OpWord) (id sg : Nat) : List Job :=
  ({ at' := sg + 3, late := false, id := id, act := .enter } ::
    (List.range (runT w)).map fun i => { at' := slotReady w sg i - 1, late := true, id := id, act := .slot i }) ++
    (if runPop w then [{ at' := popAc w sg, late := true, id := id, act := .pop }] else [])

/-- Reads of a RUN from core SRAM: each word under its offset from the first (R81, R82). -/
def runReads (w : OpWord) (id sg base off : Nat) : List Job :=
  (runAccs w sg off).map fun a => { at' := a.at', late := false, id := id, act := .read ((a.off - off) / 32) (base + a.off) }

/-- Pops of a queue that still fall due. -/
def CoreState.pendingPops (k : CoreState) (u : Nat) : Nat :=
  (k.todo.filter fun j => decide (j.act = .pop) && ((k.flight j.id).any fun f => decide (u < runU f.word))).length

/-- The heads that the vectors of a RUN will meet, as far as they stand in the queues at its start. -/
def CoreState.headsAhead (k : CoreState) (w : OpWord) : List (Nat × Option FeedRow) :=
  (List.range (runU w)).map fun u => (u, (k.queue u)[k.pendingPops u]?)

/-- Slots that a RUN has begun to update are not ready until it has (R90). -/
def CoreState.slotTimes (k : CoreState) (w : OpWord) (sg : Nat) : CoreState :=
  { k with accReady := (List.range (runT w)).foldl (fun t i => tblSet 0 t (runAcc w + i) (slotReady w sg i)) k.accReady }

/-- Distinct ac in which a router-fed run expects a delivery: those in which the SRAM reader would
read a word (R83, R114). -/
def runDeliveryAcs (w : OpWord) (sg : Nat) : List Nat :=
  ((List.range (runT w)).flatMap fun i =>
    (List.range (rowWords (opFmt w))).map fun j => runWordAc w sg i j).eraseDups

/-- Words that a RUN takes from the flit of ac t, under their offsets, the scale word being the flit's word 7 (R114). -/
def runFlitWords (w : OpWord) (sg t : Nat) (ws : List EccWord) : List (Nat × EccWord) :=
  let due := (List.range (runT w)).flatMap fun i =>
    ((List.range (rowWords (opFmt w))).filter fun j => runWordAc w sg i j = t).map fun j => rowWordOff (opFmt w) i j
  let scales := ((List.range (runT w)).filter fun i => runReadsScale w i && decide (runWordAc w sg i 0 = t)).map fun i =>
    (scaleWordOff (opFmt w) i, ws.getD 7 0)
  (due.zipIdx.map fun p => (p.1, ws.getD p.2 0)) ++ scales

/-- Deliveries that an op expects, and the check of each at the end of its ac (R113-R115). -/
def State.expect (s : State) (c : CoreId) (es : List Expect) : State :=
  let k := s.core c
  s.setCore c ({ k with expects := k.expects ++ es }.plan
    (es.map fun (e : Expect) => { at' := e.at', late := true, id := looseId, act := .want e.op }))

/-- RUN. A head of another format that its vectors are to meet is a fault at once (R88). -/
def State.run (s : State) (c : CoreId) (w : OpWord) (sg : Nat) : State :=
  let k := s.core c
  let id := s.nextId c sg
  let fin := slotReady w sg (runT w - 1)
  match wrongFormat w (k.headsAhead w) with
  | some q => s.unitFault (.core c) fFormat sg q
  | none =>
    if runBsrc w then
      let s1 := s.expect c ((runDeliveryAcs w sg).map fun t => { at' := t, op := k.iss.idx, taker := .run id })
      (s1.setCore c ((s1.core c).slotTimes w sg)).launch c w sg 0 (runBusy w) fin (runSteps w id sg)
    else
      s.withSram c w sg (runBusy w) fin (runClaims w sg) fun s off =>
        (s.setCore c ((s.core c).slotTimes w sg)).launch c w sg off (runBusy w) fin
          (runReads w id sg (sramBase c) off ++ runSteps w id sg)

/-! ### FLOAD (R85-R87) -/

/-- The first and the last ac in which words of row k are read (R86, R87). -/
def rowAcs (w : OpWord) (sg k : Nat) : Nat × Nat :=
  let fmt := opFmt w
  let first := rowWordOff fmt k 0
  (floadAc w sg first,
    floadAc w sg (if rowBlocks fmt = 0 then first + rowWords fmt - 1 else scaleWordOff fmt k))

/-- A row takes its position with its first word and is whole with its last. -/
def rowJobs (w : OpWord) (id sg k : Nat) : List Job :=
  let a := rowAcs w sg k
  [{ at' := a.1, late := false, id := id, act := .push (floadU0 w + k) k (a.2 + 3) },
   { at' := a.2, late := true, id := id, act := .row (floadU0 w + k) k }]

def State.fload (s : State) (c : CoreId) (w : OpWord) (sg : Nat) : State :=
  let busy := floadBusy w
  let n := floadWords (opFmt w) (floadN w)
  let id := s.nextId c sg
  s.withSram c w sg busy (sg + busy + 2) (fun off => sramRun off n true (floadAc w sg)) fun s off =>
    s.launch c w sg off busy (sg + busy + 2)
      ((List.range (floadN w)).flatMap (rowJobs w id sg) ++ readJobs id (sramBase c + off) n (floadAc w sg))

/-! ### DRAIN (R89, R90) -/

/-- The slots are read one an ac (R89). -/
def drainReads (w : OpWord) (id sg : Nat) : List Job :=
  (List.range (drainN w)).map fun i => { at' := sg + i, late := false, id := id, act := .drain i }

def State.drainSram (s : State) (c : CoreId) (w : OpWord) (sg : Nat) : State :=
  let n := drainN w
  let per := drainPer w
  let id := s.nextId c sg
  let acOf := fun j => sg + j / per + 2
  s.withSram c w sg n (sg + n + 2) (fun off => sramRun off (per * n) false acOf) fun s off =>
    s.launch c w sg off n (sg + n + 2) (drainReads w id sg ++ putJobs id (sramBase c + off) (per * n) acOf)

/-- A result on its way whose values are not known yet. -/
def resultAhead (ready : Nat) (keys : List Nat) : RegWrite := { ready := ready, vals := keys.map fun q => (q, 0) }

def State.drainVreg (s : State) (c : CoreId) (w : OpWord) (sg : Nat) : State :=
  let n := drainN w
  let rs := (List.range n).map fun i => resultAhead (sg + i + 3) ((List.range 128).map (drainLane w i))
  (s.setCore c ((s.core c).addResults rs)).launch c w sg 0 n (sg + n + 2) (drainReads w (s.nextId c sg) sg)

/-- FLOAD. -/
def execFload (c : CoreId) (s : State) : Host.Outcome State Fault Refusal :=
  .next (s.runOp (.core c) uFeed 1 fun s w sg => s.fload c w sg)

/-- DRAIN to core SRAM. -/
def execDrainToSram (c : CoreId) (s : State) : Host.Outcome State Fault Refusal :=
  .next (s.runOp (.core c) uDrain 1 fun s w sg => s.drainSram c w sg)

/-- DRAIN to vector registers. -/
def execDrainToVreg (c : CoreId) (s : State) : Host.Outcome State Fault Refusal :=
  .next (s.runOp (.core c) uDrain 2 fun s w sg => s.drainVreg c w sg)

end Sys2Proof.Machine
end

