-- ==== Sys2Proof/Machine/PlanOps.lean ====
section
/-! DEFINITION. Changes to the floor plan (13 R483-R488; 12 R442, R444; 04 R160, R163, R169). A change
enters the working plan and is published with the others of its stroke (R487). -/

namespace Sys2Proof.Machine

/-- Enter a unit byte unless the unit is already listed. A drain-only vault may still become dead. -/
def Plan.mark (p : Plan) (off st cause : Nat) (inService : Bool) : Plan :=
  let old := p.unitState off
  if old = 0 ∨ (old = 2 ∧ st = 1 ∧ 22432 ≤ off) then p.setByte off (unitByte st cause inService) else p

/-- Both directions of every link of a column (R484). -/
def Plan.markLinks (p : Plan) (c : ColId) : Plan :=
  [RPort.n, .e, .s, .w].foldl (fun p d =>
    match neighbour c d with
    | none => p
    | some (n, inp) =>
      let p1 := p.setByte (offLink c) (p.byte (offLink c) ||| BitVec.ofNat 8 (2 ^ portCode d))
      p1.setByte (offLink n) (p1.byte (offLink n) ||| BitVec.ofNat 8 (2 ^ portCode inp))) p

def layers3 : List Layer := [.c2, .c4, .c6]

def coreAt (c : ColId) (l : Layer) : CoreId := ⟨c.s, c.x, c.y, l⟩

/-- A column dead by its own finding: its cores and vaults are dead with cause 9 (R484). -/
def Plan.markColumn (p : Plan) (c : ColId) (cause : Nat) (inService : Bool) : Plan :=
  let p1 := p.mark (offColumn c) 1 cause inService
  (layers3.foldl (fun p l =>
    (p.mark (offCore (coreAt c l)) 1 9 inService).mark (offVault (coreAt c l)) 1 9 inService) p1).markLinks c

/-- A port with a router in a region. -/
def portInRegion (i : Nat) (w : RegionId) : Bool :=
  let r := portRouters i
  r.2.any fun c => (⟨Fin.ofNat 12 r.1, Fin.ofNat 18 c.1, Fin.ofNat 20 c.2⟩ : ColId).region = w

/-- What depends on a retired or lost region, with cause 10; `vault` is the state its vaults take. -/
def Plan.markRegionParts (p : Plan) (w : RegionId) (vault : Nat) (inService : Bool) : Plan :=
  let p1 := p.mark (offWell w) 1 10 inService
  let p2 := w.cols.foldl (fun p c =>
    (layers3.foldl (fun p l =>
      (p.mark (offCore (coreAt c l)) 1 10 inService).mark (offVault (coreAt c l)) vault 10 inService)
      (p.mark (offColumn c) 1 10 inService)).markLinks c) p1
  ((List.range 31).filter fun i => portInRegion i w).foldl (fun p i => p.mark (offPort i) 1 10 inService) p2

/-- A region retired (R442): its vaults drain-only in service, dead at bring-up. -/
def Plan.retireRegion (p : Plan) (w : RegionId) (inService : Bool) : Plan :=
  (p.mark (offRegion w) 1 2 inService).markRegionParts w (if inService then 2 else 1) inService

/-- A region lost (R444), also after it was retired. -/
def Plan.loseRegion (p : Plan) (w : RegionId) (cause : Nat) (inService : Bool) : Plan :=
  (p.setByte (offRegion w) (unitByte 2 cause inService)).markRegionParts w 1 inService

/-- A vault dead: its core is dead with cause 11. -/
def Plan.markVault (p : Plan) (c : CoreId) (st cause : Nat) (inService : Bool) : Plan :=
  let p1 := p.mark (offVault c) st cause inService
  if st = 1 then p1.mark (offCore c) 1 11 inService else p1

/-- A core lost in service: its vault becomes drain-only (R185, Table 13.13). -/
def Plan.loseCore (p : Plan) (c : CoreId) (cause : Nat) : Plan :=
  (p.mark (offCore c) 1 cause true).mark (offVault c) 2 cause true

/-- Mark a link direction dead. -/
def Plan.deadLink (p : Plan) (c : ColId) (d : RPort) : Plan :=
  p.setByte (offLink c) (p.byte (offLink c) ||| BitVec.ofNat 8 (2 ^ portCode d))

/-- Shift record (Table 13.12). -/
def shiftRecord (c : CoreId) (xReserve kind gen : Nat) : BitVec 64 :=
  BitVec.ofNat 64 (c.s.val + 16 * c.y.val + 512 * c.layer.code + 2 ^ 11 * c.x.val + 2 ^ 16 * xReserve +
    2 ^ 21 * kind + 2 ^ 32 * (gen % 2 ^ 32))

def State.setWork (s : State) (p : Plan) : State := { s with work := p }

/-- The floor plan last published is kept by its generation and digest (R478); one with shift records has the digest of no
plan that a bring-up publishes. -/
def ConfigState.keep (k : ConfigState) (p : Plan) : ConfigState :=
  { k with keptGen := p.gen, keptUnits := if p.shifts = [] then some p.units else none }

/-- Publish the changes decided within the stroke: one advance of 2011h (R487); the plan is kept (R478). -/
def State.publish (s : State) : State :=
  if s.work = s.plan then s
  else
    let g := s.plan.gen + 1
    let p := { s.work with gen := g }
    (({ s with plan := p, work := p, cfg := s.cfg.keep p } : State).setReg
      0x2011 0 g).event evFloorPlan

/-! ### Row segments (R160) -/

/-- A core was usable when the image was loaded. -/
def Image.usableAtLoad (im : Image) (c : CoreId) : Bool := !im.deadCores.contains c.num

def atX (c : CoreId) (x : Nat) : CoreId := { c with x := Fin.ofNat 18 x }

/-- Largest x of the row segment of a core, and its smallest. -/
def Image.segEnd (im : Image) (c : CoreId) : Nat :=
  let east := (List.range 18).filter fun x => decide (x > c.x.val) && !im.usableAtLoad (atX c x)
  east.foldl min 18 - 1

def Image.segStart (im : Image) (c : CoreId) : Nat :=
  let west := (List.range 18).filter fun x => decide (x < c.x.val) && !im.usableAtLoad (atX c x)
  west.foldl (fun m x => max m (x + 1)) 0

/-- The core is the reserve of its segment. -/
def Image.isReserve (im : Image) (c : CoreId) : Bool :=
  im.reserve && im.usableAtLoad c && decide (im.segEnd c = c.x.val)

/-- The segment's reserve has not been spent or lost: no shift record names the segment (R486). -/
def Plan.reserveLeft (p : Plan) (im : Image) (c : CoreId) : Bool :=
  im.reserve && im.usableAtLoad c && p.usable (offCore (atX c (im.segEnd c))) &&
    !(p.shifts.any fun r => decide (fld r 0 4 = c.s.val) && decide (fld r 4 5 = c.y.val) &&
      decide (fld r 9 2 = c.layer.code) && decide (fld r 16 5 = im.segEnd c))

/-- A usable core without a program that hands no token (R169). -/
def State.idleCoreLost (s : State) (c : CoreId) : State :=
  let p := s.work.mark (offCore c) 1 8 true
  match s.image with
  | some im =>
    if im.isReserve c && s.work.reserveLeft im c then
      s.setWork { p with shifts := p.shifts ++ [shiftRecord c c.x.val 2 (s.plan.gen.toNat + 1)] }
    else s.setWork p
  | none => s.setWork p

/-! ### Regions (12 R441-R444, R455) -/

/-- Ballast stops (R455): 3000h.0C, and bit 2 of 3000h.07. -/
def State.stopBallast (s : State) : State := (s.setRegN 0x3000 12 0).setRegN 0x3000 7 (s.regN 0x3000 7 % 4)

/-- Byte ranges of a region's storage. -/
def inRegion (w : RegionId) (a : Nat) : Bool :=
  match placeOf a with
  | some (.vault c _ _) => decide (c.col.region = w)
  | some (.sram c _) => decide (c.col.region = w)
  | some (.well v _) => decide (v = w)
  | none => false

/-- The contents of a region that trips are lost (R443). -/
def State.loseContents (s : State) (w : RegionId) : State :=
  { s with mem := s.mem.filter fun c => !inRegion w c.1
           ecc := s.ecc.filter fun e => !inRegion w (32 * e.1)
           stamps := s.stamps.filter fun e => !inRegion w (32 * e.1) }

def State.regionLost (s : State) (w : RegionId) : Bool := decide (tblGet 0 s.supply.region w.num = 3)

/-- A region's supply trips (R443, R444). -/
def State.tripRegion (s : State) (w : RegionId) : State :=
  if s.st = .off ∨ s.regionLost w then s
  else
    let sup := s.supply
    let s1 := ({ s with supply := { sup with region := tblSet 0 sup.region w.num 3
                                             retireBy := tblDel sup.retireBy w.num } } : State).loseContents w
    let s2 := (((s1.setWork (s1.work.loseRegion w 3 (decide (s1.st ≠ .bringup)))).bumpReg 0x3050 5 1).bumpReg
      0x3050 6 1).stopBallast
    if s2.st = .running then s2.haltSoon 0x0D else s2

def State.phasesLost (s : State) (w : RegionId) (d : Nat) : Nat := tblGet 0 s.supply.phases (4 * w.num + d)

/-- Retire a region (R441, R442): counted in 3050h.04, with bit 12 of 1110h. One that has fewer than three phases left in a
domain trips. -/
def State.retire (s : State) (w : RegionId) : State :=
  let sup := s.supply
  let s1 := { s with supply := { sup with region := tblSet 0 sup.region w.num 2
                                          retireBy := tblDel sup.retireBy w.num } }
  let s2 := ((s1.setWork (s.work.retireRegion w (decide (s.st ≠ .bringup)))).bumpReg 0x3050 4 1).event evPower
  if [0, 1, 2, 3].any fun d => decide (s.phasesLost w d > 5) then s2.tripRegion w else s2

def State.retireAll (s : State) : State :=
  (s.supply.retireBy.map fun e => regionOfNum e.1).foldl (fun s w => s.retire w) s

end Sys2Proof.Machine
end

