-- ==== Sys2Proof/Machine/Ledger.lean ====
section
/-! DEFINITION. The thermal ledger and its test (04 R155-R159; 11 R415-R418). -/

namespace Sys2Proof.Machine

/-- F_L of Table 4.12. -/
def energyFactor : Level → Nat
  | .a => 305 | .b => 256 | .c => 228 | .d => 212 | .e => 212

def pairNats : List Byte → List Nat
  | a :: b :: t => (a.toNat + 256 * b.toNat) :: pairNats t
  | _ => []

/-- Entries in the order of window, column, layer (R156). -/
def Ledger.entries (l : Ledger) : List Nat := (pairNats (l.bytes.drop 32)).take (l.windows * 30240)

/-- The core whose energy a layer of a column holds: the core itself on a compute layer, its vault on
a memory layer. -/
def ledgerCore (n l : Nat) : Nat := 3 * n + (l + 1) / 2 - 1

/-- An entry after shift repairs: the work of a moved core, and of its vault, stands one column east
(R163, Table 4.13). -/
def shiftedEntry (es : List Nat) (moved : List Nat) (i : Nat) : Nat :=
  let l := i % 7
  let n := i / 7 % 4320
  let own := es.getD i 0
  if l = 0 then own
  else
    let stay := if moved.contains (ledgerCore n l) then 0 else own
    let come := if n % 18 > 0 ∧ moved.contains (ledgerCore (n - 1) l) then es.getD (i - 7) 0 else 0
    stay + come

def Ledger.demand (lg : Ledger) (moved : List Nat) : List Nat :=
  let es := lg.entries
  if moved = [] then es else (List.range es.length).map (shiftedEntry es moved)

/-- Key of a budget. -/
def budgetKey (lv : Level) (w : RegionId) (l : Nat) : Nat := (levelCode lv * 360 + w.num) * 7 + l

/-- Every budget is 0: the flow is or has been too low, or SAFE_STOP (R418, R427). -/
def State.budgetsZero (s : State) : Bool := s.heat.zero || decide (s.st = .safeStop)

/-- The budget in force (R417, R418). -/
def State.budget (s : State) (lv : Level) (n l : Nat) : Nat :=
  if s.budgetsZero then 0 else tblGet 0 s.heat.budgets (budgetKey lv (colOfNum n).region l)

/-- The first failing cell as its index in the ledger (R158): cell 0 while every budget is 0. -/
def State.ledgerFails (s : State) (lg : Ledger) (moved : List Nat) (lv : Level) : Option Nat :=
  if s.budgetsZero then some 0
  else
    ((lg.demand moved).zipIdx.find? fun e =>
      decide (ceilDiv (e.1 * energyFactor lv) 256 > s.budget lv (e.2 / 7 % 4320) (e.2 % 7))).map Prod.snd

def State.ledgerPasses (s : State) (lg : Ledger) (lv : Level) : Bool :=
  (s.ledgerFails lg s.umpire.moved lv).isNone

/-- Unit that 6005h.02 names for a cell. -/
def cellUnit (i : Nat) : Nat :=
  let c := colOfNum (i / 7 % 4320)
  let l := i % 7
  c.uid + (if l ≠ 0 ∧ l % 2 = 0 then 16384 * (l / 2) else 0)

/-- The highest level, A first, at which a ledger passes. -/
def State.thermalLevel (s : State) (lg : Ledger) : Option Level :=
  [Level.a, .b, .c, .d, .e].find? (s.ledgerPasses lg)

/-- 4000h.08 (Table 11.7). -/
def State.showThermalLevel (s : State) : State :=
  s.setRegN 0x4000 8
    (match s.image with
     | none => 255
     | some im => match s.thermalLevel im.ledger with | some l => levelCode l | none => 255)

/-- 6005h reports the end of a load or a start check; .06 advances last (R152, R158). -/
def State.loadResult (s : State) (code unit index stroke ac : Nat) : State :=
  (((((s.setRegN 0x6005 1 code).setRegN 0x6005 2 unit).setRegN 0x6005 3 index).setRegN 0x6005 4 stroke).setRegN
    0x6005 5 ac |>.bumpReg 0x6005 6 1).event evLoadDone

/-- Code 0x0E with its cell. -/
def State.loadResultCell (s : State) (i : Nat) : State :=
  let k := i / 30240
  s.loadResult 0x0E (cellUnit i) k (64 * k) 0

end Sys2Proof.Machine
end

