-- ==== Sys2Proof/Machine/Rate.lean ====
section
/-! DEFINITION. Rate levels (12 R456-R461). -/

namespace Sys2Proof.Machine

/-- Put a level in force from the ac in progress on (R459): the ac count goes on, and the pause of at
most 2 us, or the wait for a ramp of at most 200 us, is left out of the time (log 1). -/
def State.setLevel (s : State) (lv : Level) : State :=
  if lv = s.clk.level then s
  else
    let ac := acNow s.clk
    let k := { s.clk with baseWall := wallOfAc s.clk ac, baseAc := ac, level := lv }
    let s1 := { s with clk := k, power := { s.power with levelSince := s.clk.now } }
    ((s1.setRegN 0x3040 1 (levelCode lv)).bumpReg 0x3040 6 1).event evRateChanged

/-- 3041h is 1 (R461). -/
def State.fixedFreq (s : State) : Bool := decide (s.regN 0x3041 0 = 1)

/-- The level of R460 for an image's ledger. -/
def State.idleLevel (s : State) (lg : Option Ledger) : Level :=
  if s.fixedFreq then .b
  else
    match lg with
    | none => .b
    | some l => ([Level.b, .c, .d, .e].find? (s.ledgerPasses l)).getD .b

/-- Outside RUNNING the level follows R460. -/
def State.followIdle (s : State) : State := s.setLevel (s.idleLevel (s.image.map (·.ledger)))

/-! ### Requests (R457, R461) -/

def tenSeconds : Nat := 10000 * msUnits

def State.capTerm (s : State) (thermal : Nat) : Nat :=
  let cur := levelCode s.clk.level
  if s.fixedFreq then 0
  else if s.power.dropSeen then min 4 (cur + 1)
  else
    match s.power.raiseSince with
    | some t0 => if s.clk.now ≥ t0 + tenSeconds ∧ thermal < cur then cur - 1 else cur
    | none => cur

def State.boost (s : State) (lg : Ledger) : Bool :=
  !s.fixedFreq && decide (s.clk.level = .b) && decide (s.clk.now ≥ s.power.levelSince + tenSeconds)
    && s.ledgerPasses lg .a

/-- RATE_REQ and the bits of 3040h.04: thermal when that term sets the request and stands below the ceiling, cap drop, cap
raise and boost when their rule held, override when a pinned module asks for other than B. -/
def State.rateRequest (s : State) (lg : Ledger) : Nat × Nat :=
  let thermal := match s.thermalLevel lg with | some l => levelCode l | none => 4
  let cap := s.capTerm thermal
  let boost := s.boost lg
  let ceiling := if boost then 0 else 1
  let req := max thermal (max cap ceiling)
  let cur := levelCode s.clk.level
  let b := fun (p : Bool) (k : Nat) => if p then k else 0
  (req, b (decide (thermal = req ∧ thermal > ceiling)) 1 + b (!s.fixedFreq && s.power.dropSeen) 2
    + b (decide (cap < cur) && !s.fixedFreq) 4 + b boost 8 + b (s.fixedFreq && decide (req > 1)) 16)

/-- Form RATE_REQ and write it to 3040h.02; the next step's drop rule starts afresh. -/
def State.formRequest (s : State) : State :=
  match s.image with
  | none => s
  | some im =>
    let r := s.rateRequest im.ledger
    let s1 := (s.setRegN 0x3040 2 r.1).setRegN 0x3040 4 r.2
    { s1 with power := { s1.power with dropSeen := false } }

/-! ### The level crew (R458) -/

def State.jobSize (s : State) : Nat := s.regN 0x7010 2

/-- The program loads a crew. -/
def State.hasCrew (s : State) : Bool := !s.crews.isEmpty

/-- The loaded crew of lowest id whose member count equals JOB_SIZE. -/
def State.levelCrew (s : State) : Option Nat :=
  (s.crews.find? fun e => e.2.defn.members.length = s.jobSize).map Prod.fst

/-- An agreed level waits for the next step release. -/
def State.agree (s : State) (lv : Nat) : State :=
  { (s.setRegN 0x3040 3 lv) with umpire := { s.umpire with agreed := some lv } }

/-- A job of one module uses its own request (R458). -/
def State.ownRequest (s : State) : State :=
  let s1 := s.formRequest
  if s1.jobSize = 1 then s1.agree (s1.regN 0x3040 2) else s1

/-- A ledger failure at the level in force counts as failure at every level when the job can change no
level (R458). -/
def State.cannotChange (s : State) : Bool := decide (s.jobSize > 1) && s.levelCrew.isNone

end Sys2Proof.Machine
end

