-- ==== Sys2Proof/Machine/Vector.lean ====
section
/-! DEFINITION. The vector engine's compute ops (03 R91-R93, Table 3.10; 02 R62; 06 R226-R228;
08 R308-R312). -/

namespace Sys2Proof.Machine

/-- Results that may be read in ac sg have reached their registers. -/
def CoreState.landResults (k : CoreState) (sg : Nat) : CoreState :=
  { k with
    vregs := (k.vPend.filter fun r => r.ready ≤ sg).foldl
      (fun t r => r.vals.foldl (fun t p => tblSet 0 t p.1 p.2) t) k.vregs
    vPend := k.vPend.filter fun r => ¬ r.ready ≤ sg }

/-- The first source register with a result still on its way (R93). -/
def CoreState.pendingReg (k : CoreState) (srcs : List Nat) : Option Nat :=
  srcs.find? fun v => k.vPend.any fun r => r.vals.any fun p => p.1 / 256 = v

def CoreState.lane (k : CoreState) (v l : Nat) : F32 := tblGet 0 k.vregs (laneKey v l)

/-- The lanes of a register. -/
def CoreState.lanes (k : CoreState) (v n : Nat) : List F32 := (List.range n).map (k.lane v)

/-- Begin a VEC or VMEM op that reads registers: land results, judge the sources. -/
def State.readRegs (s : State) (c : CoreId) (sg : Nat) (srcs : List Nat) (f : State → State) : State :=
  let k := (s.core c).landResults sg
  let s := s.setCore c k
  match k.pendingReg srcs with
  | some v => s.unitFault (.core c) fVreg sg v
  | none => f s

/-- Complete a VEC op: results by register, events, issue (R92). -/
def State.vecDone (s : State) (c : CoreId) (w : OpWord) (sg : Nat) (rs : List (Nat × List F32)) (e : Ev) : State :=
  let lat := (vecTiming (opCode w)).1
  let k := s.core c
  ((s.setCore c (k.addResults (rs.map fun r => regWrite (sg + lat) r.1 r.2))).gather e).issued (.core c) w sg
    (vecTiming (opCode w)).2 (sg + lat)

/-- An element-wise op on one source. -/
def State.vec1 (s : State) (c : CoreId) (w : OpWord) (sg : Nat) (f : F32 → F32 × Ev) : State :=
  s.readRegs c sg [vecA w] fun s =>
    let r := evMap f ((s.core c).lanes (vecA w) (vecLanes w))
    s.vecDone c w sg [(vecD w, r.1)] r.2

/-- An element-wise op on two sources. -/
def State.vec2 (s : State) (c : CoreId) (w : OpWord) (sg : Nat) (f : F32 → F32 → F32 × Ev) : State :=
  s.readRegs c sg [vecA w, vecB w] fun s =>
    let k := s.core c
    let r := evMap (fun (p : F32 × F32) => f p.1 p.2)
      ((k.lanes (vecA w) (vecLanes w)).zip (k.lanes (vecB w) (vecLanes w)))
    s.vecDone c w sg [(vecD w, r.1)] r.2

/-- An element-wise op on three sources. -/
def State.vec3 (s : State) (c : CoreId) (w : OpWord) (sg : Nat) (f : F32 → F32 → F32 → F32 × Ev) : State :=
  s.readRegs c sg [vecA w, vecB w, vecC w] fun s =>
    let k := s.core c
    let r := evMap (fun l => f (k.lane (vecA w) l) (k.lane (vecB w) l) (k.lane (vecC w) l))
      (List.range (vecLanes w))
    s.vecDone c w sg [(vecD w, r.1)] r.2

/-- VSEL: a where c has sign bit 0 and is not NaN, else b (Table 3.10). -/
def selLane (a b c : F32) : F32 × Ev :=
  (if c.getLsbD 31 || (xOfF32 c).isNan then b else a, Ev.zero)

/-- VRSUM: idle lanes contribute +0 (R62). -/
def vrsum (vals : List F32) : F32 × Ev :=
  pairTree f32Add 8 (vals ++ List.replicate (256 - vals.length) 0)

/-- VRMAX: idle lanes are skipped, which a pad of -infinity does (R62). -/
def vrmax (vals : List F32) : F32 × Ev :=
  pairTree f32Max 8 (vals ++ List.replicate (256 - vals.length) (f32Inf true))

/-- A reduction into all 256 lanes. -/
def State.vecReduce (s : State) (c : CoreId) (w : OpWord) (sg : Nat) (f : List F32 → F32 × Ev) : State :=
  s.readRegs c sg [vecA w] fun s =>
    let r := f ((s.core c).lanes (vecA w) (vecLanes w))
    s.vecDone c w sg [(vecD w, List.replicate 256 r.1)] r.2

/-! ### VROT (R226-R228) -/

/-- Rotation of one pair: t = p * f mod 2^32, then both components rounded once (R227). -/
def rotatePair (x y : F32) (p f : BitVec 32) : (F32 × F32) × Ev :=
  let cs := cosSin (p * f).toNat
  let co := f32OfX cs.1
  let si := f32OfX cs.2
  let xx := xOfF32 x; let xy := xOfF32 y; let c := xOfF32 co; let d := xOfF32 si
  let a := f32Result [xx, xy] ((xx.mul c).add (xy.mul d).negate)
  let b := f32Result [xx, xy] ((xx.mul d).add (xy.mul c))
  ((a.1, b.1), a.2.plus b.2)

/-- The pairs of lanes below L, first lane and second lane (Table 6.4). -/
def rotPairs (w : OpWord) : List (Nat × Nat) :=
  if vrotAdjacent w then (List.range (vecLanes w / 2)).map fun j => (2 * j, 2 * j + 1)
  else
    let h := vrotHalf w
    (List.range (vecLanes w / 2)).map fun j => (j / h * (2 * h) + j % h, j / h * (2 * h) + j % h + h)

def State.vrot (s : State) (c : CoreId) (w : OpWord) (sg : Nat) : State :=
  s.readRegs c sg [vecA w, vecB w, vecC w] fun s =>
    let k := s.core c
    let r := evMap (fun (q : Nat × Nat) =>
      let p := rotatePair (k.lane (vecA w) q.1) (k.lane (vecA w) q.2) (k.lane (vecB w) q.1) (k.lane (vecC w) q.1)
      ([(laneKey (vecD w) q.1, p.1.1), (laneKey (vecD w) q.2, p.1.2)], p.2)) (rotPairs w)
    let lat := (vecTiming (opCode w)).1
    ((s.setCore c (k.addResults [{ ready := sg + lat, vals := r.1.flatten }])).gather r.2).issued (.core c) w sg
      (vecTiming (opCode w)).2 (sg + lat)

/-! ### VUPD (R308-R312) -/

/-- GATE, eta, lambda, beta, beta2, epsilon (Table 8.7). -/
structure Coeffs where
  gate : F32
  eta : F32
  lam : F32
  beta : F32
  beta2 : F32
  eps : F32
deriving DecidableEq, Repr

/-- What one lane writes, and whether it passed through for NaN or for GATE. -/
structure LaneOut where
  w : F32
  m : F32
  q : F32
  ev : Ev
  nanGrad : Bool
  gated : Bool
deriving DecidableEq, Repr

def xOne : Xf := .fin false 1 0

/-- round() of R311 with its events from the operands named. -/
def roundF (ops : List Xf) (x : Xf) : F32 × Ev := f32Result ops x

/-- round_m(): FP32, or BF16 precision as an FP32 pattern (R311). -/
def roundM (bf16 : Bool) (ops : List Xf) (x : Xf) : F32 × Ev :=
  if bf16 then
    let b := bf16OfX x
    (b.setWidth 32 <<< 16, eventsOf ops x (xOfBf16 b))
  else f32Result ops x

/-- The sign value s of a gradient (R311). -/
def signValue (g : Xf) : Xf :=
  if g.isZero then .fin false 0 0 else .fin g.neg 1 0

/-- Momentum step round_m(b * m + round(1 - b) * s), before rounding, with the events of the inner
rounding. -/
def blend (b : F32) (m s : Xf) : Xf × Ev :=
  let b' := roundF [xOfF32 b] (xOne.add (xOfF32 b).negate)
  (((xOfF32 b).mul m).add ((xOfF32 b'.1).mul s), b'.2)

/-- round(w * k - eta * u). -/
def weightStep (w k eta : F32) (u : Xf) : F32 × Ev :=
  roundF [xOfF32 w, xOfF32 k, xOfF32 eta, u] (((xOfF32 w).mul (xOfF32 k)).add ((xOfF32 eta).mul u).negate)

/-- One lane of VUPD (R311, R312). -/
def vupdLane (rule : Nat) (bf16 monly : Bool) (cf : Coeffs) (w g m r c : F32) : LaneOut :=
  let xm := xOfF32 m
  let xg := xOfF32 g
  let el := roundF [xOfF32 cf.eta, xOfF32 cf.lam] ((xOfF32 cf.eta).mul (xOfF32 cf.lam))
  let k := roundF [xOfF32 el.1] (xOne.add (xOfF32 el.1).negate)
  let ek := el.2.plus k.2
  let square := fun (m : F32) => roundF [xOfF32 m] ((xOfF32 m).mul (xOfF32 m))
  if cf.gate ≠ 0x3F800000 ∨ xg.isNan then
    let q := if rule = 3 then square m else (0, Ev.zero)
    { w := w, m := m, q := q.1, ev := ek.plus q.2, nanGrad := decide (cf.gate = 0x3F800000),
      gated := decide (cf.gate ≠ 0x3F800000) }
  else
    let s := signValue xg
    let out := fun (w' m' q : F32) (e : Ev) =>
      ({ w := w', m := m', q := q, ev := ek.plus e, nanGrad := false, gated := false } : LaneOut)
    match rule with
    | 0 => let a := weightStep w k.1 cf.eta s; out a.1 m 0 a.2
    | 2 =>
      let b2 := blend cf.beta2 xm s
      let m' := roundM bf16 [xOfF32 cf.beta2, xm] b2.1
      let b1 := blend cf.beta xm s
      let u : Xf := if b1.1.isNan then .nan else if b1.1.isZero then .fin false 0 0 else .fin b1.1.neg 1 0
      let eu := if b1.1.isNan then eventsOf [xOfF32 cf.beta, xm] .nan .nan else Ev.zero
      let a := weightStep w k.1 cf.eta u
      out a.1 m'.1 0 ((((b2.2.plus m'.2).plus b1.2).plus eu).plus a.2)
    | _ =>
      let b1 := blend cf.beta xm s
      let m' := roundM bf16 [xOfF32 cf.beta, xm] b1.1
      let em := b1.2.plus m'.2
      let q := if rule = 3 then square m'.1 else (0, Ev.zero)
      if monly then out w m'.1 q.1 (em.plus q.2)
      else if rule = 1 then
        let a := weightStep w k.1 cf.eta (xOfF32 m'.1)
        out a.1 m'.1 0 (em.plus a.2)
      else
        let rc := roundF [xOfF32 r, xOfF32 c, xOfF32 cf.eps] (((xOfF32 r).mul (xOfF32 c)).add (xOfF32 cf.eps))
        let d := f32Sqrt rc.1
        let u := f32Div m'.1 d.1
        let a := weightStep w k.1 cf.eta (xOfF32 u.1)
        out a.1 m'.1 q.1 (((((em.plus rc.2).plus d.2).plus u.2).plus a.2).plus q.2)

/-- Registers a VUPD reads (Table 8.7). -/
def vupdSources (w : OpWord) : List Nat :=
  [vecA w, vecB w] ++ (if vecRule w = 0 then [] else [vecC w]) ++ [vecC w + 1] ++
    (if vecRule w = 3 then [vecC w + 2, vecC w + 3] else [])

def State.vupd (s : State) (c : CoreId) (w : OpWord) (sg : Nat) : State :=
  s.readRegs c sg (vupdSources w) fun s =>
    let k := s.core c
    let co := fun l => k.lane (vecC w + 1) l
    let cf : Coeffs := { gate := co 0, eta := co 1, lam := co 2, beta := co 3, beta2 := co 4, eps := co 5 }
    let outs := (List.range (vecLanes w)).map fun l =>
      vupdLane (vecRule w) (vupdBf16 w) (vupdMonly w) cf (k.lane (vecA w) l) (k.lane (vecB w) l)
        (k.lane (vecC w) l) (k.lane (vecC w + 2) l) (k.lane (vecC w + 3) l)
    let rs := [(vecD w, outs.map LaneOut.w)] ++
      (if vecRule w = 0 then [] else [(vecD w + 1, outs.map LaneOut.m)]) ++
      (if vecRule w = 3 then [(vecD w + 2, outs.map LaneOut.q)] else [])
    let s1 := s.vecDone c w sg rs (outs.foldl (fun e o => e.plus o.ev) Ev.zero)
    let g := s1.gathered
    { s1 with gathered := { g with
        nanGrad := g.nanGrad + (outs.filter LaneOut.nanGrad).length
        gated := g.gated + (outs.filter LaneOut.gated).length
        lanes := g.lanes + outs.length } }

/-! ### VSEED (R54, R95, R319) -/

/-- The step number that seeds the generators (R319). -/
def State.seedStep (s : State) : BitVec 32 := s.latestSeal.getD s.startStep

def State.vseed (s : State) (c : CoreId) (w : OpWord) (sg : Nat) : State :=
  let k := s.core c
  let gens := (List.range 256).map fun l => genSeed s.seedStep ((vecImm w).setWidth 16) l
  (s.setCore c { k with gens := tblFill 0 [] 0 gens, seeded := true }).issued (.core c) w sg 1 (sg + 1)

/-! ### The ops -/

def execVadd (c : CoreId) (s : State) : Host.Outcome State Fault Refusal :=
  .next (s.runOp (.core c) uVec 0x01 fun s w sg => s.vec2 c w sg f32Add)

def execVsub (c : CoreId) (s : State) : Host.Outcome State Fault Refusal :=
  .next (s.runOp (.core c) uVec 0x02 fun s w sg => s.vec2 c w sg f32Sub)

def execVmul (c : CoreId) (s : State) : Host.Outcome State Fault Refusal :=
  .next (s.runOp (.core c) uVec 0x03 fun s w sg => s.vec2 c w sg f32Mul)

def execVfma (c : CoreId) (s : State) : Host.Outcome State Fault Refusal :=
  .next (s.runOp (.core c) uVec 0x04 fun s w sg => s.vec3 c w sg f32Fma)

def execVaddi (c : CoreId) (s : State) : Host.Outcome State Fault Refusal :=
  .next (s.runOp (.core c) uVec 0x05 fun s w sg => s.vec1 c w sg fun a => f32Add a (vecImm w))

def execVmuli (c : CoreId) (s : State) : Host.Outcome State Fault Refusal :=
  .next (s.runOp (.core c) uVec 0x06 fun s w sg => s.vec1 c w sg fun a => f32Mul a (vecImm w))

def execVmax (c : CoreId) (s : State) : Host.Outcome State Fault Refusal :=
  .next (s.runOp (.core c) uVec 0x07 fun s w sg => s.vec2 c w sg f32Max)

def execVmin (c : CoreId) (s : State) : Host.Outcome State Fault Refusal :=
  .next (s.runOp (.core c) uVec 0x08 fun s w sg => s.vec2 c w sg f32Min)

def execVsel (c : CoreId) (s : State) : Host.Outcome State Fault Refusal :=
  .next (s.runOp (.core c) uVec 0x09 fun s w sg => s.vec3 c w sg selLane)

/-- VMOV moves lane patterns unchanged (R226). -/
def execVmov (c : CoreId) (s : State) : Host.Outcome State Fault Refusal :=
  .next (s.runOp (.core c) uVec 0x0A fun s w sg => s.vec1 c w sg fun a => (a, Ev.zero))

def execVrcp (c : CoreId) (s : State) : Host.Outcome State Fault Refusal :=
  .next (s.runOp (.core c) uVec 0x0B fun s w sg => s.vec1 c w sg f32Rcp)

def execVrsqrt (c : CoreId) (s : State) : Host.Outcome State Fault Refusal :=
  .next (s.runOp (.core c) uVec 0x0C fun s w sg => s.vec1 c w sg f32Rsqrt)

def execVexp (c : CoreId) (s : State) : Host.Outcome State Fault Refusal :=
  .next (s.runOp (.core c) uVec 0x0D fun s w sg => s.vec1 c w sg f32Exp)

def execVexp2 (c : CoreId) (s : State) : Host.Outcome State Fault Refusal :=
  .next (s.runOp (.core c) uVec 0x0E fun s w sg => s.vec1 c w sg f32Exp2)

def execVlog2 (c : CoreId) (s : State) : Host.Outcome State Fault Refusal :=
  .next (s.runOp (.core c) uVec 0x0F fun s w sg => s.vec1 c w sg f32Log2)

def execVdiv (c : CoreId) (s : State) : Host.Outcome State Fault Refusal :=
  .next (s.runOp (.core c) uVec 0x10 fun s w sg => s.vec2 c w sg f32Div)

def execVsqrt (c : CoreId) (s : State) : Host.Outcome State Fault Refusal :=
  .next (s.runOp (.core c) uVec 0x11 fun s w sg => s.vec1 c w sg f32Sqrt)

def execVrsum (c : CoreId) (s : State) : Host.Outcome State Fault Refusal :=
  .next (s.runOp (.core c) uVec 0x12 fun s w sg => s.vecReduce c w sg vrsum)

def execVrmax (c : CoreId) (s : State) : Host.Outcome State Fault Refusal :=
  .next (s.runOp (.core c) uVec 0x13 fun s w sg => s.vecReduce c w sg vrmax)

def execVrot (c : CoreId) (s : State) : Host.Outcome State Fault Refusal :=
  .next (s.runOp (.core c) uVec 0x14 fun s w sg => s.vrot c w sg)

def execVupd (c : CoreId) (s : State) : Host.Outcome State Fault Refusal :=
  .next (s.runOp (.core c) uVec 0x15 fun s w sg => s.vupd c w sg)

def execVseed (c : CoreId) (s : State) : Host.Outcome State Fault Refusal :=
  .next (s.runOp (.core c) uVec 0x16 fun s w sg => s.vseed c w sg)

end Sys2Proof.Machine
end

