-- ==== Sys2Proof/Machine/VMem.lean ====
section
/-! DEFINITION. Loads and stores of vector registers (03 R94, R95; 02 R42-R51, R54, R55). -/

namespace Sys2Proof.Machine

/-- Words of a VMEM op as accesses, from an ac after the start. -/
def vmemAccs (w : OpWord) (sg delay : Nat) (read : Bool) (off : Nat) : List SramAcc :=
  sramRun off (vmemWords (opCode w) (opFmt w)) read fun j => sg + delay + j / opRate w

/-- VLD and VLDB: the registers are filled when the last word is read; until then their results stand as on their way
(R93, R94). -/
def State.loadRegs (s : State) (c : CoreId) (w : OpWord) (sg regs : Nat) : State :=
  let n := vmemWords (opCode w) (opFmt w)
  let busy := vmemBusy w
  let ready := loadReady w sg
  let id := s.nextId c sg
  s.withSram c w sg busy ready (vmemAccs w sg 0 true) fun s off =>
    let keys := (List.range (256 * regs)).map fun l => laneKey (vmemV w) 0 + l
    (s.setCore c ((s.core c).addResults [resultAhead ready keys])).launch c w sg off busy ready
      (readJobs id (sramBase c + off) n (fun j => sg + j / opRate w) ++
        [{ at' := sg + busy - 1, late := true, id := id, act := .load }])

/-- VLD: 256 elements into one register. VLDB: one block group into four; element k to lane k mod 256 of register
V + k/256. -/
def State.vld (s : State) (c : CoreId) (w : OpWord) (sg : Nat) : State := s.loadRegs c w sg 1
def State.vldb (s : State) (c : CoreId) (w : OpWord) (sg : Nat) : State := s.loadRegs c w sg 4

/-- Words of registers on their way to core SRAM. -/
def State.storeRegs (s : State) (c : CoreId) (w : OpWord) (sg off delay : Nat) (ws : List EccWord) (e : Ev) : State :=
  ((s.setCore c ((s.core c).plan (storeJobs (sramBase c + off) ws fun j => sg + delay + j / opRate w))).gather e).issued
    (.core c) w sg (vmemBusy w) (sg + delay + vmemBusy w)

/-- VST: one register narrowed. -/
def State.vst (s : State) (c : CoreId) (w : OpWord) (sg : Nat) : State :=
  s.readRegs c sg [vmemV w] fun s =>
    s.withSram c w sg (vmemBusy w) (sg + 4 + vmemBusy w) (vmemAccs w sg 4 false) fun s off =>
      let r := evMap (narrowElem (opFmt w) (opNonSat w)) ((s.core c).lanes (vmemV w) 256)
      s.storeRegs c w sg off 4 (packWords (elemBytes (opFmt w)) r.1) r.2

/-- Draws of the generators: once per lane for each of four registers, in register order (R95). -/
def drawLane : Nat → BitVec 16 → List Nat × BitVec 16
  | 0, g => ([], g)
  | n + 1, g =>
    let g' := genNext g
    let r := drawLane n g'
    (g'.toNat :: r.1, r.2)

/-- Draws by element of the group, and the generators after. -/
def drawAll (gens : Tbl (BitVec 16)) : List Nat × Tbl (BitVec 16) :=
  let per := (List.range 256).map fun l => drawLane 4 (tblGet 0 gens l)
  ((List.range 4).flatMap fun j => per.map fun p => p.1.getD j 0, tblFill 0 [] 0 (per.map Prod.snd))

/-- VSTB: four registers as one block group (R49 with SAT, or R55). -/
def State.vstb (s : State) (c : CoreId) (w : OpWord) (sg : Nat) : State :=
  s.readRegs c sg (span (vmemV w) 4) fun s =>
    if vmemSr w && !(s.core c).seeded then s.unitFault (.core c) fIllegal sg 0
    else
      s.withSram c w sg (vmemBusy w) (sg + 6 + vmemBusy w) (vmemAccs w sg 6 false) fun s off =>
        let bs8 := decide (opFmt w = 4)
        let k := s.core c
        let vals := (span (vmemV w) 4).flatMap fun v => (k.lanes v 256).map xOfF32
        let dr := if vmemSr w then drawAll k.gens else ([], k.gens)
        let blocks := chunksOf 32 vals
        let r := if vmemSr w then
            evMap (fun (p : List Xf × List Nat) => encodeStochastic (opNonSat w) p.1 p.2)
              (blocks.zip (chunksOf 32 dr.1))
          else evMap (encodeOwn (if bs8 then blockBs8 else blockBs4) (opNonSat w)) blocks
        (s.setCore c { k with gens := dr.2 }).storeRegs c w sg off 6 (groupOfBlocks bs8 r.1) r.2

def execVld (c : CoreId) (s : State) : Host.Outcome State Fault Refusal :=
  .next (s.runOp (.core c) uVmem 1 fun s w sg => s.vld c w sg)

def execVst (c : CoreId) (s : State) : Host.Outcome State Fault Refusal :=
  .next (s.runOp (.core c) uVmem 2 fun s w sg => s.vst c w sg)

def execVldb (c : CoreId) (s : State) : Host.Outcome State Fault Refusal :=
  .next (s.runOp (.core c) uVmem 3 fun s w sg => s.vldb c w sg)

def execVstb (c : CoreId) (s : State) : Host.Outcome State Fault Refusal :=
  .next (s.runOp (.core c) uVmem 4 fun s w sg => s.vstb c w sg)

end Sys2Proof.Machine
end

