-- ==== Sys2Proof/Machine/Move.lean ====
section
/-! DEFINITION. MOVE ops (03 R96, R97; 04 R113, R115, R120, R122, R161; 05 R172-R183). -/

namespace Sys2Proof.Machine

/-! ### Endpoints under the shift reserve (R161, R163) -/

def State.reserved (s : State) : Bool := match s.image with | some im => im.reserve | none => false

/-- The core one place east. -/
def eastOf (c : CoreId) : CoreId := { c with x := Fin.ofNat 18 (c.x.val + 1) }

def westOf (c : CoreId) : CoreId := { c with x := Fin.ofNat 18 (c.x.val + 17) }

/-- The position whose router endpoint a core uses: its western neighbour's after a move. -/
def State.homeOf (s : State) (c : CoreId) : CoreId :=
  if decide (c.x.val > 0) && s.umpire.moved.contains (westOf c).num then westOf c else c

/-- The core that an endpoint serves. -/
def State.servedBy (s : State) (c : CoreId) : CoreId :=
  if s.umpire.moved.contains c.num then eastOf c else c

/-- Extra ac of the L port, or of the added hop after a move (R161). -/
def State.portDelay (s : State) (home : CoreId) : Nat := if s.reserved then eastCost home.x.val else 0

/-- A fault that a router, a well controller or a vault controller reports (R111, R546). No op raised it: FAULT_OP is 0 (the
model's choice, log 60). -/
def State.meshFault (s : State) (uid sg detail : Nat) : State := s.recordFault fBusEcc uid sg 0 detail

/-- Put a flit at a core's L input, present from sigma `at'` on, with the delay of R161. Two flits at one input in one ac
are a conflict of its router (R109, R546), and the later one is lost. -/
def State.inject (s : State) (c : CoreId) (at' : Nat) (f : MeshFlit) (id nth : Nat) : State :=
  let h := s.homeOf c
  let t := at' + s.portDelay h
  let p := portCode (layerPort h.layer)
  if s.flits.any fun g => g.col = h.col.num ∧ g.port = p ∧ g.at' = t then s.meshFault h.col.uid t 0
  else { s with flits := s.flits ++ [{ col := h.col.num, port := p, at' := t, flit := f, from' := id, nth := nth }] }

/-! ### The vault side (R172-R178, R546) -/

/-- Bank accesses of a transfer: words 8k to 8k + 7 in ac `first + 2k`. -/
def bankAcs (first words : Nat) : List Nat := (List.range (ceilDiv words 8)).map fun k => first + 2 * k

/-- The vault slots that no scheduled access may use (R174, R201). -/
def maintenanceSlot (sg : Nat) : Bool :=
  decide (sg % 64 = 30) || decide (sg % 64 = 60) || decide (sg % 64 = 62)

def nbSlot (sg : Nat) : Bool := decide (sg % 64 ≤ 56) && decide (sg % 4 = 0)

/-- A near-bank command owns its slots in these strokes: the one that runs, and those that wait for their boundary (R201). -/
def NbUnit.owns (n : NbUnit) (sg : Nat) : Bool :=
  nbSlot sg && ((match n.running with
    | some r => decide (r.start ≤ sg) && decide (sg < r.stop)
    | none => false) ||
    n.queued.any fun q => decide (q.1 ≤ sg) && decide (sg < q.1 + 64 * nbDuration q.2))

/-- The channel is taken in an ac: by a transfer, or by the idle ac of a change of direction (R175). -/
def VaultState.chanTaken (v : VaultState) (a : Nat) (up : Bool) : Bool :=
  v.chanUse.any fun p => p.1 = a ∨ (p.2 ≠ up ∧ (p.1 + 1 = a ∨ a + 1 = p.1))

/-- A conflict of a transfer at the vault controller: bank cycles, then the channel (R172-R175). -/
def State.vaultConflict (s : State) (c : CoreId) (bank : Nat) (acs chan : List Nat) (up : Bool) : Bool :=
  let v := s.vault c
  acs.any (fun a => maintenanceSlot a || (s.nbUnit c bank).owns a || v.bankUse.contains (a * 16 + bank)) ||
    chan.any fun a => v.chanTaken a up

def State.claimVault (s : State) (c : CoreId) (sg bank : Nat) (acs chan : List Nat) (up : Bool) : State :=
  let v := s.vault c
  s.setVault c { v with bankUse := acs.map (· * 16 + bank) ++ v.bankUse.filter (· ≥ sg * 16)
                        chanUse := (chan.map fun a => (a, up)) ++ v.chanUse.filter fun p => p.1 + 1 ≥ sg }

/-- A bank cycle is free for accesses that no schedule places (Table 5.1; the maintenance slots are left to refresh, scrub
and held accesses, log 40). -/
def State.bankFree (s : State) (c : CoreId) (bank a : Nat) : Bool :=
  !(maintenanceSlot a || (s.nbUnit c bank).owns a || (s.vault c).bankUse.contains (a * 16 + bank))

/-- The first free bank cycle from an ac on, among the n that follow. -/
def State.freeBankAc (s : State) (c : CoreId) (bank : Nat) : Nat → Nat → Nat
  | 0, a => a
  | n + 1, a => if s.bankFree c bank a then a else s.freeBankAc c bank n (a + 1)

/-- A channel that cannot replace a bond retires its core at once: it issues no further op, and is counted (R183). Its token
is missing at the next boundary. -/
def State.retireCore (s : State) (c : CoreId) : State :=
  let v := s.vault c
  if v.retired then s
  else
    let s1 := (s.setVault c { v with retired := true }).setIssue (.core c) { s.issue (.core c) with stopped := true }
    (s1.bumpReg 0x5222 3 1).setRegN 0x5222 4 c.uid

/-- Corrected symbols of a transfer by bond; eight within 1 s mark a bond for replacement at the next boundary (R182), and
one more bond than there are spares retires the core (R183). -/
def State.symbols (s : State) (c : CoreId) (bonds : List Nat) : State :=
  let v := s.vault c
  let now := s.clk.now
  let all := (v.symbols.filter fun p => p.2 + 1000 * msUnits > now) ++ bonds.map fun b => (b, now)
  let due := (bonds.filter fun b => decide ((all.filter fun p => p.1 = b).length ≥ 8)).foldl
    (fun l b => if l.contains b then l else l ++ [b]) v.dueBonds
  let s1 := s.setVault c { v with symbols := all, dueBonds := due }
  if v.spares + due.length > 32 then s1.retireCore c else s1

/-- The vault words of a MOVE must lie in the bank, and in a vault that can be reached (R97, R22). -/
def State.vaultRefuses (s : State) (c : CoreId) (w : OpWord) (write : Bool) : Option Nat :=
  if moveXword w + moveLen w > 917504 then some (bankBase c (moveBank w) + 32 * max (moveXword w) 917504)
  else if s.vaultDead c || (write && s.vaultDrain c) then some (bankBase c (moveBank w) + 32 * moveXword w)
  else none

/-- A VREAD or VWRITE of n words: the ac of its bank accesses, of its channel use, and its work, once it has passed the
checks of its vault (R97, R172-R175, R182). A channel that retires the core stops it before the op. -/
def State.vaultMove (s : State) (c : CoreId) (w : OpWord) (sg : Nat) (write : Bool) (bonds acs chan : List Nat) (fin : Nat)
    (sram : Nat → Nat) (jobs : Nat → Nat → Nat → List Job) : State :=
  let n := moveLen w
  let base := bankBase c (moveBank w) + 32 * moveXword w
  match s.vaultRefuses c w write with
  | some a => s.unitFault (.core c) fBusAddr sg a
  | none =>
    if s.vaultConflict c (moveBank w) acs chan (!write) then s.unitFault (.core c) fBusEcc sg base
    else
      s.withSram c w sg (ceilDiv n 4) fin (fun off => sramRun off n write sram) fun s off =>
        ((s.claimVault c sg (moveBank w) acs chan (!write)).launch c w sg off (ceilDiv n 4) fin
          (jobs (s.nextId c sg) (sramBase c + off) base)).symbols c bonds

/-- VREAD (R176, R178). -/
def State.vread (s : State) (c : CoreId) (w : OpWord) (sg : Nat) (bonds : List Nat) : State :=
  let n := moveLen w
  let sram := fun j => sg + 14 + j / 4
  s.vaultMove c w sg false bonds (bankAcs (sg + 3) n) (span (sg + 13) (ceilDiv n 4)) (sg + 14 + ceilDiv n 4) sram
    fun id to' base => readJobs id base n (fun j => sg + 3 + 2 * (j / 8)) ++ putJobs id to' n sram

/-- VWRITE (R177, R178): a word written in ac a is returned from ac a + 2 on (R173). -/
def State.vwrite (s : State) (c : CoreId) (w : OpWord) (sg : Nat) (bonds : List Nat) : State :=
  let n := moveLen w
  let sram := fun j => sg + j / 4
  s.vaultMove c w sg true bonds (bankAcs (sg + 5) n) (span (sg + 3) (ceilDiv n 4)) (sg + 7 + 2 * ceilDiv n 8) sram
    fun id from' base => readJobs id from' n sram ++ putJobs id base n fun j => sg + 6 + 2 * (j / 8)

/-- MSEND: flit f carries words 8f to 8f + 7 and is at the L input in ac s + f + 3 (R113). -/
def State.msend (s : State) (c : CoreId) (w : OpWord) (sg : Nat) : State :=
  let n := moveLen w
  let flits := ceilDiv n 8
  let acOf := fun j => sg + j / 8
  s.withSram c w sg flits (sg + flits + 3) (fun off => sramRun off n true acOf) fun s off =>
    let id := s.nextId c sg
    let s1 := (List.range flits).foldl (fun s f => s.inject c (sg + f + 3) { valid := true, kind := .data, words := [] } id f) s
    s1.launch c w sg off flits (sg + flits + 3) (readJobs id (sramBase c + off) n acOf ++
      (List.range flits).map fun f => { at' := sg + f, late := true, id := id, act := .flit f })

/-! ### Deliveries (R113-R115, R122) -/

/-- Words that an MRECV or a WREAD reply writes in the ac of delivery. -/
def State.takeWords (s : State) (c : CoreId) (at' addr n : Nat) (ws : List EccWord) : State :=
  let k := s.core c
  s.setCore c { k.plan (storeJobs addr (ws.take n) fun _ => at') with
    iss := { k.iss with doneAt := max k.iss.doneAt (at' + 1) } }

/-- The WREAD that awaits a reply flit. -/
def wreadFor (k : CoreState) (f : MeshFlit) : Option WreadWait :=
  match f.kind with
  | .reply x l i => k.wreads.find? fun r => r.xword = x ∧ r.len = l ∧ r.nextFlit = i
  | _ => none

/-- A reply flit is taken by its WREAD. -/
def State.takeReply (s : State) (c : CoreId) (at' : Nat) (r : WreadWait) (f : MeshFlit) : State :=
  let k := s.core c
  let left := r.len - 8 * r.nextFlit
  let r' := { r with nextFlit := r.nextFlit + 1 }
  let rest := k.wreads.filter fun q => q ≠ r
  let addr := r.addr + 256 * r.nextFlit
  let s1 := s.setCore c { k with wreads := if left > 8 then r' :: rest else rest }
  let q := s1.claimSram c at' (sramRun (addr % 2 ^ 23) (min left 8) false fun _ => at')
  match q.2 with
  | some a => q.1.coreFaultAt c r.op fBank at' a.bank
  | none => q.1.takeWords c at' addr (min left 8) f.words

/-- A flit is taken as an op expects it; an empty one makes the core fault (R115). -/
def State.takeExpected (s : State) (c : CoreId) (e : Expect) (f : MeshFlit) : State :=
  let k := s.core c
  let s1 := s.setCore c { k with expects := k.expects.filter fun x => x ≠ e }
  if !f.valid then s1.expectFault c e
  else
    match e.taker with
    | .recv addr n => s1.takeWords c e.at' addr n f.words
    | .run id =>
      match k.flight id with
      | some r =>
        let got := (runFlitWords r.word r.start e.at' f.words).foldl (fun t p => tblSet 0 t p.1 p.2) r.got
        s1.setCore c ((s1.core c).setFlight { r with got := got })
      | none => s1

/-- A flit delivered to a core in ac `at'`: taken by the op or WREAD that awaits it, else kept for an op that starts in that
ac, and unserved at the end of it (R115). An empty flit that nothing expects is nothing. -/
def State.deliver (s : State) (c : CoreId) (at' : Nat) (f : MeshFlit) : State :=
  let k := s.core c
  match wreadFor k f with
  | some r => s.takeReply c at' r f
  | none =>
    match k.expects.find? fun e => e.at' = at' with
    | some e => s.takeExpected c e f
    | none =>
      if f.valid then
        s.setCore c { k.plan [{ at' := at', late := true, id := looseId, act := .unserved k.iss.idx }] with
          arrived := k.arrived ++ [{ at' := at', flit := f }] }
      else s

/-- Flits already delivered meet what an op now expects. -/
def State.matchArrived (s : State) (c : CoreId) : State :=
  let k := s.core c
  let due := k.arrived.filter fun a => k.expects.any fun e => e.at' = a.at'
  let s1 := s.setCore c { k with arrived := k.arrived.filter fun a => !(k.expects.any fun e => e.at' = a.at') }
  due.foldl (fun s a => s.deliver c a.at' a.flit) s1

/-- MRECV: flit f is taken as delivered in ac s + f (R113). -/
def State.mrecv (s : State) (c : CoreId) (w : OpWord) (sg : Nat) : State :=
  let n := moveLen w
  let flits := ceilDiv n 8
  s.withSram c w sg flits (sg + flits) (fun off => sramRun off n false fun j => sg + j / 8) fun s off =>
    let es := (List.range flits).map fun f =>
      ({ at' := sg + f, op := (s.core c).iss.idx, taker := .recv (sramBase c + off + 256 * f) (min 8 (n - 8 * f)) } : Expect)
    ((s.expect c es).issued (.core c) w sg flits (sg + flits)).matchArrived c

/-- The router-fed part of RUN meets flits delivered already. -/
def State.runMatched (s : State) (c : CoreId) (w : OpWord) (sg : Nat) : State := (s.run c w sg).matchArrived c

/-- WREAD: a descriptor into the L input in ac s + 1 (R97, R120). -/
def State.wread (s : State) (c : CoreId) (w : OpWord) (sg : Nat) : State :=
  let off := (s.core c).effOffset w sg
  let reg := (s.homeOf c).col.region
  if off % 32 ≠ 0 then s.unitFault (.core c) fBusAddr sg (sramBase c + off)
  else if moveXword w + moveLen w > 524288 then
    s.unitFault (.core c) fBusAddr sg (wellBase reg + 32 * max (moveXword w) 524288)
  else if off + 32 * moveLen w > sramBytes then s.unitFault (.core c) fBusAddr sg (sramBase c + sramBytes)
  else
    let k := s.core c
    let s1 := s.setCore c { k with wreads := k.wreads ++
      [{ op := k.iss.idx, xword := moveXword w, len := moveLen w, addr := sramBase c + off, nextFlit := 0 }] }
    (s1.inject c (sg + 1) { valid := true, kind := .desc (moveXword w) (moveLen w) c.num, words := [] } 0 0).issued
      (.core c) w sg 1 (sg + 2)

def execVread (c : CoreId) (bonds : List Nat) (s : State) : Host.Outcome State Fault Refusal :=
  .next (s.runOp (.core c) uMove 1 fun s w sg => s.vread c w sg bonds)

def execVwrite (c : CoreId) (bonds : List Nat) (s : State) : Host.Outcome State Fault Refusal :=
  .next (s.runOp (.core c) uMove 2 fun s w sg => s.vwrite c w sg bonds)

def execMsend (c : CoreId) (s : State) : Host.Outcome State Fault Refusal :=
  .next (s.runOp (.core c) uMove 3 fun s w sg => s.msend c w sg)

def execMrecv (c : CoreId) (s : State) : Host.Outcome State Fault Refusal :=
  .next (s.runOp (.core c) uMove 4 fun s w sg => s.mrecv c w sg)

def execWread (c : CoreId) (s : State) : Host.Outcome State Fault Refusal :=
  .next (s.runOp (.core c) uMove 5 fun s w sg => s.wread c w sg)

/-- RUN (Array.lean) with the flits it finds delivered. -/
def execRun (c : CoreId) (s : State) : Host.Outcome State Fault Refusal :=
  .next (s.runOp (.core c) uArray 1 fun s w sg => s.runMatched c w sg)

end Sys2Proof.Machine
end

