-- ==== Sys2Proof/Machine/Well.lean ====
section
/-! DEFINITION. Well controllers (04 R119-R125): merge groups, their reads word by word in the ac of R122, and the reply flits. -/

namespace Sys2Proof.Machine

/-- A descriptor joins a group of equal operands whose window is open, or opens one (R121). -/
def joinGroup (a x l core : Nat) : List MergeGroup → List MergeGroup
  | [] => [{ first := a, xword := x, len := l, members := [(a, core)] }]
  | g :: gs =>
    if g.xword = x ∧ g.len = l ∧ a ≤ g.first + 7 then { g with members := g.members ++ [(a, core)] } :: gs
    else g :: joinGroup a x l core gs

def State.descriptorArrival (s : State) (w : RegionId) : State :=
  let k := s.well w
  match k.inbox with
  | [] => s
  | (a, x, l, core) :: rest =>
    if !s.issuing || decide (a / 1024 > s.umpire.stroke) then s
    else (s.advanceSigma a).setWell w { k with inbox := rest, groups := joinGroup a x l core k.groups }

def execWellDescriptorArrival (w : RegionId) (s : State) : Host.Outcome State Fault Refusal :=
  .next (s.descriptorArrival w)

/-! ### Reads (R122, R125) -/

/-- A WREAD of a group is answered by a bus error (R188). -/
def State.wreadFault (s : State) (xword len core code sg detail : Nat) : State :=
  let c := coreOfNum core
  s.coreFaultAt c ((s.core c).wreadOp xword len) code sg detail

/-- The words of a flit of a group are read: they go into every reply flit that waits for them. An uncorrectable word is a
bus error for every member, and the group is answered no further. -/
def State.wellRead (s : State) (w : RegionId) (r : WellRead) : State :=
  let n := min 8 (r.len - 8 * r.flit)
  let base := wellBase w + 32 * (r.xword + 8 * r.flit)
  let q := s.countReads reqCore ((List.range n).map fun j => base + 32 * j)
  match q.2 with
  | some a =>
    let k := q.1.well w
    let s1 := q.1.setWell w { k with reads := k.reads.filter fun x => x.id ≠ r.id }
    let s2 := { s1 with flits := s1.flits.filter fun g => ¬ (g.from' = r.id ∧ g.flit.words = []) }
    r.cores.foldl (fun s c => s.wreadFault r.xword r.len c fBusEcc r.at' a) s2
  | none =>
    let ws := s.words base n ++ List.replicate (8 - n) 0
    { q.1 with flits := q.1.flits.map fun g =>
        if g.from' = r.id ∧ g.nth = r.flit then { g with flit := { g.flit with words := ws } } else g }

/-- Reads of a well that fall in an ac before sigma sg, in order, at most n of them. -/
def State.wellRun (w : RegionId) (sg : Nat) : Nat → State → State
  | 0, s => s
  | n + 1, s =>
    match (s.well w).reads with
    | [] => s
    | r :: rs =>
      if r.at' < sg then State.wellRun w sg n ((s.setWell w { s.well w with reads := rs }).wellRead w r) else s

def State.wellTo (s : State) (w : RegionId) (sg : Nat) : State := State.wellRun w sg (s.well w).reads.length s

def State.wellsTo (s : State) (sg : Nat) : State :=
  (s.wells.map Prod.fst).foldl (fun s n => s.wellTo (regionOfNum n) sg) s

/-- Enter a read after those of earlier and equal ac. -/
def insertRead (r : WellRead) : List WellRead → List WellRead
  | [] => [r]
  | x :: xs => if r.at' < x.at' then r :: x :: xs else x :: insertRead r xs

/-- Banks that a group's reads use, as ac * 16 + bank (R119, R122). -/
def groupBanks (g : MergeGroup) : List Nat :=
  (List.range g.len).map fun j => (g.first + 8 + j / 8) * 16 + (g.xword + j) % 16

/-- Reply flits held after ac t: read before it and presented after it (R124). -/
def heldReplies (rs : List (Nat × Nat)) (t : Nat) : Nat :=
  (rs.filter fun p => decide (p.1 < t) && decide (t < p.2)).length

/-- The id under which reply flits of a group wait for their words. -/
def groupId (g : MergeGroup) : Nat := 2 ^ 98 + g.first * 2 ^ 40 + g.xword * 2 ^ 20 + g.len

/-- The reply flits of a group: one a flit of the read for each distinct arrival (R122, R123). -/
def groupReplies (w : RegionId) (g : MergeGroup) : List InFlight :=
  (g.members.map Prod.fst).eraseDups.flatMap fun a =>
    (List.range (ceilDiv g.len 8)).map fun f =>
      { col := w.router.num, port := 7, at' := a + 9 + f,
        flit := { valid := true, kind := .reply g.xword g.len f, words := [] }, from' := groupId g, nth := f }

/-- WELL_GROUP_READ: the oldest group is read and answered. -/
def State.groupRead (s : State) (w : RegionId) : State :=
  let k := s.well w
  match k.groups with
  | [] => s
  | g :: gs =>
    if !s.issuing || decide ((g.first + 8) / 1024 > s.umpire.stroke) then s
    else
      let sg := g.first + 8
      let s0 := (s.advanceSigma sg).setWell w { k with groups := gs }
      if !s.wellUsable w then
        g.members.foldl (fun s m => s.wreadFault g.xword g.len m.2 fBusAddr sg (wellBase w + 32 * g.xword)) s0
      else
        let out := groupReplies w g
        let banks := groupBanks g
        let held := out.map fun f => (sg + f.nth, f.at')
        let all := k.replies.filter (fun p => p.2 + 2048 ≥ sg) ++ held
        let clash := banks.any (k.bankUse.contains ·) || held.any (fun h => k.replies.any fun p => p.2 = h.2) ||
          !decide (held.map Prod.snd).Nodup || all.any fun p => decide (heldReplies all (p.1 + 1) > 16)
        if clash then s0.meshFault w.router.uid sg 0
        else
          let due := (List.range (ceilDiv g.len 8)).map fun f =>
            ({ at' := sg + f, xword := g.xword, len := g.len, flit := f, id := groupId g, cores := g.members.map Prod.snd } : WellRead)
          let s1 := s0.setWell w { k with groups := gs, replies := all, reads := due.foldl (fun l r => insertRead r l) k.reads,
                                           bankUse := banks ++ k.bankUse.filter fun b => b ≥ (sg - 2048) * 16 }
          { s1 with flits := s1.flits ++ out }

def execWellGroupRead (w : RegionId) (s : State) : Host.Outcome State Fault Refusal := .next (s.groupRead w)

end Sys2Proof.Machine
end

