-- ==== Sys2Proof/Machine/Access.lean ====
section
/-! DEFINITION. Accesses to storage that the schedule does not place (01 R26, R27; 05 R173, R174, R207, R208, R213): those of
the host, of the coxes, of port engines and of open flits meet the schedule's own in the order of the bank cycles. -/

namespace Sys2Proof.Machine

/-- The bank of an address. -/
def bankOf (a : Nat) : Option (CoreId × Nat) :=
  match placeOf a with
  | some (.vault c b _) => some (c, b)
  | _ => none

/-- The banks of addresses. -/
def banksOf (as : List Nat) : List (CoreId × Nat) := (as.filterMap bankOf).eraseDups

/-- A job reads or writes one of these words. -/
def Job.touches (as : List Nat) (j : Job) : Bool :=
  match j.act with
  | .read _ a => as.contains a
  | .put _ a => as.contains a
  | .store a _ => as.contains a
  | .nbRead _ _ a => as.contains a
  | _ => false

/-- Do those jobs of a core that a predicate picks, in order. -/
def State.runPicked (s : State) (c : CoreId) (p : Job → Bool) : State :=
  let k := s.core c
  (k.todo.filter p).foldl (fun s j => s.runJob c j) (s.setCore c { k with todo := k.todo.filter fun j => !p j })

/-- The bank cycle of an access that comes now (Table 5.1, R26). -/
def State.accessAc (s : State) (c : CoreId) (bank : Nat) : Nat := s.freeBankAc c bank 1024 s.sigmaNow

/-- What the schedule does before another agent reads words in bank cycle h. -/
def State.beforeRead (s : State) (c : CoreId) (h : Nat) : State := s.catchUp c h

/-- What the schedule does before another agent writes words in bank cycle h: its reads of cycle h and of h + 1, which do not
see the write (R27, R173), and its writes of the cycles up to h, which the write follows (R27, R213). -/
def State.beforeWrite (s : State) (c : CoreId) (as : List Nat) (h : Nat) : State :=
  (s.catchUp c (h + 1)).runPicked c fun j => decide (j.at' = h + 1) && j.touches as

/-- The same for the words of a read, and of a write, that come now. -/
def State.settleNow (s : State) (as : List Nat) : State :=
  (banksOf as).foldl (fun s p => s.beforeRead p.1 (s.accessAc p.1 p.2)) s

def State.settleWrite (s : State) (as : List Nat) : State :=
  (banksOf as).foldl (fun s p => s.beforeWrite p.1 as (s.accessAc p.1 p.2)) s

/-! ### Banks that a command owns (R207, R208) -/

/-- The first near-bank stroke ac 60 or 62 after an ac (R207). -/
def nextHeldSlot (ac : Nat) : Nat :=
  let r := (ac + 1) % 64
  ac + 1 + (if r ≤ 60 then 60 - r else if r ≤ 62 then 62 - r else 124 - r)

/-- A result of the final phase is in its bank already: certainly when the last near-bank stroke's own slots are past, else
as a free bit says (R202, R208). -/
def State.writtenBack (s : State) (r : NbRun) (sg : Nat) : Bool × State :=
  if sg + 8 > r.stop then (true, s) else s.drawBit

/-- Results of the running command among these words that are in the bank by sigma sg, in its final phase. -/
def State.writeBack (s : State) (c : CoreId) (bank sg : Nat) (as : List Nat) : State :=
  match (s.nbUnit c bank).running with
  | none => s
  | some r =>
    if sg < r.final then s
    else
      (r.results.filter fun p => as.contains p.1).foldl
        (fun (s : State) p =>
          let b := s.writtenBack r sg
          if b.1 then
            let n := b.2.nbUnit c bank
            (b.2.unitWrite p.1 p.2).setNb c bank { n with running := n.running.map fun q =>
              { q with results := q.results.filter fun x => x.1 ≠ p.1 } }
          else b.2) s

/-- A cox access to a bank that a command owns is held to the next such slot: the command's own accesses up to it come first
(R207, log 39). -/
def State.coxSlot (s : State) (c : CoreId) (bank : Nat) (as : List Nat) : State :=
  let h := nextHeldSlot s.sigmaNow
  (s.runPicked c fun j => j.ofVault && decide (j.at' < h)).writeBack c bank h as

/-- What happens before the cox reads words, and before it writes them. -/
def State.coxBefore (s : State) (write : Bool) (as : List Nat) : State :=
  (banksOf as).foldl (fun s p =>
    if (s.nbUnit p.1 p.2).running.isSome then s.coxSlot p.1 p.2 as
    else if write then s.beforeWrite p.1 as (s.accessAc p.1 p.2) else s.beforeRead p.1 (s.accessAc p.1 p.2)) s

/-- A write to a drain-only vault (R185). -/
def State.drainOnly (s : State) : Place → Bool
  | .vault c _ _ => s.vaultDrain c
  | _ => false

/-- The words exist, and the floor plan lets them be reached (R22, R185). -/
def State.inReach (s : State) (write : Bool) (as : List Nat) : Bool :=
  as.all fun a => match placeOf a with
    | some p => !s.placeDead p && !(write && s.drainOnly p)
    | none => false

/-- Words read by the cox or by a port engine (requester `req`), in order with the schedule; none where one of them is
uncorrectable or cannot be reached: no data is delivered then (R22, R173, R187, R188, R207). -/
def State.readFor (s : State) (req : Nat) (as : List Nat) : State × Option (List EccWord) :=
  if !s.inReach false as then (s, none) else
  let r := (s.coxBefore false as).countReads req as
  match r.2 with
  | some _ => (r.1, none)
  | none => (r.1, some (as.map r.1.word))

/-- n words from an address, for the cox. -/
def State.coxWords (s : State) (a n : Nat) : State × Option (List EccWord) :=
  s.readFor reqCox ((List.range n).map fun k => a + 32 * k)

/-- One word for the cox or a port engine, a free value where it is uncorrectable or out of reach (log 63). -/
def State.wordFor (s : State) (req a : Nat) : State × EccWord :=
  let r := s.readFor req [a]
  match r.2 with
  | some ws => (r.1, ws.headD 0)
  | none => ({ r.1 with fresh := r.1.fresh + 1 }, Config.unreadWord (2 ^ 128 + r.1.fresh))

def State.coxWord (s : State) (a : Nat) : State × EccWord := s.wordFor reqCox a

/-- A write of words by the cox or by a port engine, in order with the schedule; one that cannot reach all of them changes
nothing (R22, R173, R207, R211). -/
def State.coxWrites (s : State) (a : Nat) (ws : List EccWord) : State :=
  let as := (List.range ws.length).map fun j => a + 32 * j
  if s.inReach true as then (s.coxBefore true as).unitWrites a ws else s

end Sys2Proof.Machine
end

