-- ==== Sys2Proof/Machine/Mesh.lean ====
section
/-! DEFINITION. Routers and open flits (04 R107-R118, R126-R129; 05 R179, R180, R199). -/

namespace Sys2Proof.Machine

/-- ROUTE: connect an input to outputs for HOLD + 1 ac (R117). -/
def execRoute (r : ColId) (s : State) : Host.Outcome State Fault Refusal :=
  .next (s.runOp (.router r) 1 1 fun s w sg =>
    let k := s.router r
    let n := routeHold w + 1
    let conn : Conn :=
      { idx := k.iss.idx, inp := routeIn w, out := routeOut w, since := sg, last := sg + routeHold w,
        opened := routeOpen w, vsink := routeVsink w, shown := sg }
    let old := k.conns.filter fun q => q.last + 2048 ≥ sg
    (s.setRouter r { k with conns := old ++ [conn] }).issued (.router r) w sg n (sg + n))

/-- The connection that holds an input in an ac. -/
def connAt (k : RouterState) (inp t : Nat) : Option Conn :=
  k.conns.find? fun q => decide (q.inp = inp) && decide (q.since ≤ t) && decide (t ≤ q.last)

/-! ### Command flits (R179, R199) -/

/-- The commands of a flit wait for the first near-bank stroke boundary at or after ac t + 4 (R200).
A reserved OP faults at its unit (R206). -/
def State.queueCommand (s : State) (v : CoreId) (t : Nat) (w : EccWord) : State :=
  if nbOp w = 0 then s
  else if nbOp w > 3 then s.recordFault fBusy v.uid t 0 0
  else
    let n := s.nbUnit v (nbBank w)
    s.setNb v (nbBank w) { n with queued := n.queued ++ [(ceilDiv (t + 4) 64 * 64, w)] }

/-- Bonds of a vault's channel among those of a step. -/
def bondsAt (bonds : List (Nat × Nat)) (v : CoreId) : List Nat := (bonds.filter fun b => b.1 = v.num).map Prod.snd

def State.commandFlit (s : State) (v : CoreId) (t : Nat) (f : MeshFlit) (bonds : List (Nat × Nat)) : State :=
  let vs := s.vault v
  if [t + 1, t + 2].any fun a => vs.chanTaken a false then s.meshFault v.uid t 0
  else
    let s1 := s.setVault v { vs with chanUse := vs.chanUse ++ [(t + 1, false), (t + 2, false)] }
    (f.words.foldl (fun s w => s.queueCommand v t w) s1).symbols v (bondsAt bonds v)

/-! ### Switching (R110-R112) -/

/-- An open flit reaches its sink in ac t; one that is not open is a conflict (R546). -/
def State.pushSink (s : State) (k : SinkId) (t : Nat) (f : MeshFlit) : State :=
  match f.kind with
  | .opened route port =>
    { s with sinks := tblMod [] s.sinks (sinkKey k) (· ++ [{ words := f.words, route := route, port := port, at' := t }]) }
  | _ => s

/-- A link direction that the floor plan lists dead (Table 13.11). -/
def State.linkDead (s : State) (c : ColId) (p : RPort) : Bool :=
  (s.plan.byte (offLink c)).getLsbD (portCode p)

/-- A flit switched onto the AUX output: a descriptor or an open flit at a well router (R120), any
flit at a port router (R329). -/
def State.toAux (s : State) (r : ColId) (t : Nat) (f : MeshFlit) : State :=
  match r.wellOf with
  | some w =>
    match f.kind with
    | .desc x l core =>
      let k := s.well w
      s.setWell w { k with inbox := k.inbox ++ [(t + 1, x, l, core)] }
    | .opened _ _ => s.pushSink (.well w) t f
    | _ => s.meshFault r.uid t 0
  | none =>
    match portOfRouter r with
    | some _ => { s with engineIn := tblMod [] s.engineIn r.num (· ++ [f]) }
    | none => s.meshFault r.uid t 0

/-- A flit that leaves by an output in ac t. -/
def State.leaves (s : State) (r : ColId) (q : Conn) (t : Nat) (f : MeshFlit) (bonds : List (Nat × Nat)) (p : RPort) : State :=
  match portLayer p with
  | some l =>
    let home : CoreId := ⟨r.s, r.x, r.y, l⟩
    let c := s.servedBy home
    if q.vsink then
      if q.opened then (s.pushSink (.vault c) t f).symbols c (bondsAt bonds c) else s.commandFlit c t f bonds
    else s.deliver c (t + 1 + s.portDelay home) f
  | none =>
    if p = .aux then s.toAux r t f
    else
      match neighbour r p with
      | some (n, inp) =>
        if s.linkDead r p then s.meshFault r.uid t 0
        else { s with flits := s.flits ++ [{ col := n.num, port := portCode inp, at' := t + hopCost r n, flit := f }] }
      | none => s.meshFault r.uid t 0

/-- A flit switched onto one output in ac t. An output takes one flit an ac; a second one is a conflict and is lost (R109,
R112, R115, R546). -/
def State.toOutput (s : State) (r : ColId) (q : Conn) (t : Nat) (f : MeshFlit) (bonds : List (Nat × Nat)) (p : RPort) : State :=
  let k := s.router r
  let key := t * 8 + portCode p
  if k.outUse.contains key then s.meshFault r.uid t 0
  else (s.setRouter r { k with outUse := key :: k.outUse.filter fun u => u ≥ (t - 1024) * 8 }).leaves r q t f bonds p

/-- The outputs of a mask. -/
def outPorts (m : Nat) : List RPort := ((List.range 8).filter fun k => m.testBit k).map portOfCode

/-- A flit present at an input in ac t: switched to the connection's outputs, or dropped with a
fault when it is valid (R111, R112). -/
def State.switchFlit (s : State) (r : ColId) (inp t : Nat) (f : MeshFlit) (bonds : List (Nat × Nat)) : State :=
  match connAt (s.router r) inp t with
  | some q => (outPorts q.out).foldl (fun s p => s.toOutput r q t f bonds p) s
  | none => if f.valid then s.meshFault r.uid t 0 else s

/-- The earliest flit on its way to an input. -/
def earliest : List InFlight → Option InFlight
  | [] => none
  | g :: gs => match earliest gs with
    | some h => if h.at' < g.at' then some h else some g
    | none => some g

/-! ### Open routes at a port router (R126, R350) -/

/-- A sink's credits for one route: its 16 in equal shares among the routes that end there (R349). -/
def sinkShare (im : Image) (k : Nat) : Nat := 16 / max 1 (im.openRoutes.filter fun p => p.sinks.contains k).length

/-- Key of the flits of a route that hold a credit of a sink. -/
def creditKey (route sink : Nat) : Nat := route * 16384 + sink

/-- The sinks of an open route. -/
def Image.sinksOf (im : Image) (key : Nat) : List Nat := ((im.openRoutes.find? fun o => o.key = key).map OpenRoute.sinks).getD []

/-- Every sink of a route has a credit left for it (R180). -/
def State.hasCredits (s : State) (key : Nat) : Bool :=
  match s.image with
  | none => false
  | some im =>
    let ks := im.sinksOf key
    decide (ks ≠ []) && ks.all fun k => decide (tblGet 0 s.openUsed (creditKey key k) < sinkShare im k)

/-- The next flit of a route's queue, when one waits and every sink's credit is held. -/
def State.takeOpen (s : State) (key : Nat) : Option MeshFlit × State :=
  match tblGet [] s.openQ key, s.image with
  | f :: fs, some im =>
    if s.hasCredits key then
      (some f, { s with openQ := tblSet [] s.openQ key fs,
                        openUsed := (im.sinksOf key).foldl (fun t k => tblMod 0 t (creditKey key k) (· + 1)) s.openUsed })
    else (none, s)
  | _, _ => (none, s)

/-- One ac of an open connection at a port router: the engine presents a flit or an empty one. -/
def State.presentOpen (s : State) (r : ColId) (q : Conn) (bonds : List (Nat × Nat)) : State :=
  let t := max q.shown s.sigmaNow
  let k := s.router r
  let s1 := s.setRouter r { k with conns := k.conns.map fun c => if c = q then { q with shown := t + 1 } else c }
  let s2 := s1.advanceSigma t
  match s2.takeOpen (r.num * 16384 + q.idx) with
  | (some f, s3) => s3.switchFlit r 7 t f bonds
  | (none, s3) => s3

/-- A flit at an input has its words by the ac of its presence: the core or the well that sends it has done its work. -/
def State.readyInput (s : State) (r : ColId) (inp : RPort) (t : Nat) : State :=
  match portLayer inp, r.wellOf with
  | some l, _ => s.catchUp (s.servedBy ⟨r.s, r.x, r.y, l⟩) t
  | none, some w => if inp = .aux then s.wellTo w t else s
  | none, none => s

/-- The connection of a port engine that has an ac left to show (R126). -/
def State.openConn (s : State) (r : ColId) : Option Conn :=
  (s.router r).conns.find? fun q => decide (q.inp = 7) && q.opened && decide (max q.shown s.sigmaNow ≤ q.last)
    && decide (max q.shown s.sigmaNow / 1024 ≤ s.umpire.stroke)

/-- ROUTER_FLIT_SWITCH: the next flit at an input (R111), or the next ac of an open connection of a
port engine (R126). A flit whose sender has faulted before it was whole does not come. -/
def State.routerSwitch (s : State) (r : ColId) (inp : RPort) (bonds : List (Nat × Nat)) : State :=
  if !s.issuing then s
  else
    let p := portCode inp
    match earliest (s.flits.filter fun g => g.col = r.num ∧ g.port = p) with
    | some g =>
      if g.at' / 1024 > s.umpire.stroke then s
      else
        let s1 := (s.advanceSigma g.at').readyInput r inp g.at'
        match s1.flits.find? fun h => h.col = r.num ∧ h.port = p ∧ h.at' = g.at' with
        | some h => ({ s1 with flits := s1.flits.filter fun x => x ≠ h } : State).switchFlit r p g.at' h.flit bonds
        | none => s1
    | none =>
      if p = 7 && (portOfRouter r).isSome then
        match s.openConn r with
        | some q => s.presentOpen r q bonds
        | none => s
      else s

def execRouterFlitSwitch (r : ColId) (x : Crossing) (s : State) : Host.Outcome State Fault Refusal :=
  .next (s.routerSwitch r x.port x.bonds)

/-! ### Open flits at their sink (R127-R129, R180) -/

def openDest (h : EccWord) : Nat := fld h 0 56
def openN (h : EccWord) : Nat := fld h 56 3 + 1
def openLast (h : EccWord) : Bool := bit h 59
def openMb (h : EccWord) : Nat := fld h 60 10

/-- Header of an open flit (Table 4.3). -/
def openHeader (dest n : Nat) (last : Bool) (mb : Nat) : EccWord :=
  BitVec.ofNat 256 (dest + (n - 1) * 2 ^ 56 + (if last then 2 ^ 59 else 0) + mb * 2 ^ 60)

/-- The data words of an open flit lie in its sink, and no reserved bit is set (R5). -/
def inSink (k : SinkId) (h : EccWord) : Bool :=
  let ok := fun a => match placeOf a with | some p => decide (sinkOf p = some k) | none => false
  decide (fld h 70 186 = 0) && decide (openDest h % 32 = 0) && ok (openDest h) && ok (openDest h + 32 * (openN h - 1))

/-- The floor plan lets words be written there (R22, R185). -/
def State.sinkLive (s : State) : SinkId → Bool
  | .vault c => !s.vaultDead c && !s.vaultDrain c
  | .well w => s.wellUsable w

/-- The first ac of two in a row in which the channel is free for a flit that has reached the vault (R180). -/
def VaultState.crossAc (v : VaultState) : Nat → Nat → Nat
  | 0, a => a
  | n + 1, a => if v.chanTaken a false || v.chanTaken (a + 1) false then v.crossAc n (a + 1) else a

/-- The first ac in which a well's banks are free for n words from word x on (R125). -/
def WellState.freeAc (k : WellState) (x n : Nat) : Nat → Nat → Nat
  | 0, a => a
  | m + 1, a =>
    if (List.range n).any fun j => k.bankUse.contains (a * 16 + (x + j) % 16) then k.freeAc x n m (a + 1) else a

/-- What the schedule does before a sink writes words that reached it in ac t: they cross the channel and reach the bank in
ac that the schedule leaves free (R125, R128, R180, Table 5.1). -/
def State.beforeSink (s : State) (k : SinkId) (as : List Nat) (t : Nat) : State :=
  match k with
  | .vault c =>
    let a := (s.vault c).crossAc 1024 (t + 1)
    (banksOf as).foldl (fun s p => s.beforeWrite c as (s.freeBankAc c p.2 1024 (max (a + 2) s.sigmaNow))) s
  | .well w =>
    s.wellTo w ((s.well w).freeAc ((as.headD 0) % 2 ^ 24 / 32) as.length 1024 (max (t + 1) s.sigmaNow) + 1)

def State.openWrite (s : State) (k : SinkId) : State :=
  match tblGet [] s.sinks (sinkKey k) with
  | [] => s
  | f :: fs =>
    let h := f.words.getD 0 0
    let s1 := { s with sinks := tblSet [] s.sinks (sinkKey k) fs,
                       openUsed := tblMod 0 s.openUsed (creditKey f.route (sinkKey k)) (· - 1) }
    if inSink k h && s.sinkLive k then
      let as := (List.range (openN h)).map fun j => openDest h + 32 * j
      let s2 := (s1.beforeSink k as f.at').unitWrites (openDest h) ((f.words.drop 1).take (openN h))
      if openLast h then s2.fillMailbox (openMb h) 1 else s2
    else s1.bumpReg (0x7210 + f.port) 7 1

end Sys2Proof.Machine
end

