-- ==== Sys2Proof/Machine/NearBank.lean ====
section
/-! DEFINITION. Near-bank units (05 R198-R206; 06 R229-R234). A command is judged at its start boundary; it reads its words
stroke by stroke, forms its results where its final phase begins, and its results reach the bank at the boundary at which
it ends (R201, R202). -/

namespace Sys2Proof.Machine

/-! ### The reads of a command (Table 5.8) -/

/-- Word ranges in the bank that a command reaches: reads and writes beyond its end end in a bus error
(R22). -/
def beyondBank (ranges : List (Nat × Nat)) : Option Nat :=
  (ranges.find? fun r => r.1 + r.2 > 917504).map fun r => max r.1 917504

/-- The addresses of words of a bank. -/
def bankAddrs (c : CoreId) (bank off n : Nat) : List Nat :=
  (List.range n).map fun j => bankBase c bank + 32 * (off + j)

/-- Reads of n words at these addresses, numbered from `j0`, spread over `strokes` near-bank strokes from ac st on: an equal
part in each, eight words in each of the command's own ac (R172, R201; log 10). -/
def nbReads (bank j0 st strokes : Nat) (as : List Nat) : List Job :=
  let per := max 8 (ceilDiv as.length (max 1 strokes))
  as.zipIdx.map fun p =>
    { at' := st + 64 * (p.2 / per) + 4 * min 14 (p.2 % per / 8), late := false, id := nbId bank, act := .nbRead bank (j0 + p.2) p.1 }

/-- Begin the run of a command in the banks it names, `bank` the one that holds its results: its reads, its final phase, and
its end in each bank. -/
def State.beginNb (s : State) (c : CoreId) (banks : List Nat) (bank st : Nat) (w : EccWord) (got : Tbl EccWord)
    (reads : List Job) : State :=
  let stop := st + 64 * nbDuration w
  let run : NbRun := { start := st, final := stop - 64 * nbFinal w, stop := stop, word := w, got := got, results := [] }
  let s1 := banks.foldl (fun s b => s.setNb c b { s.nbUnit c b with running := some run }) s
  s1.setCore c ((s1.core c).plan (reads ++ [{ at' := run.final, late := false, id := nbId bank, act := .nbForm bank }] ++
    banks.map fun b => { at' := stop - 1, late := true, id := nbId bank, act := .nbEnd b }))

/-- The command at the head of a unit's queue, when its boundary has come. -/
def State.nbDue (s : State) (c : CoreId) (bank op : Nat) : Option (Nat × EccWord) :=
  match (s.nbUnit c bank).queued with
  | (st, w) :: _ => if s.issuing && decide (nbOp w = op) && decide (st / 1024 ≤ s.umpire.stroke) then some (st, w) else none
  | [] => none

/-- Bank cycles that a command takes are claimed by a scheduled transfer already (R172, R201, R546). -/
def State.nbMeets (s : State) (c : CoreId) (banks : List Nat) (st stop : Nat) : Bool :=
  (s.vault c).bankUse.any fun u =>
    banks.contains (u % 16) && nbSlot (u / 16) && decide (st ≤ u / 16) && decide (u / 16 < stop)

/-- Start a due command: the unit idle (R200), the word well formed (R206), its bank cycles not taken (R546), its words
within the bank (R22); then its effect. -/
def State.startNb (s : State) (c : CoreId) (bank op : Nat) (banks : EccWord → List Nat)
    (ranges : EccWord → List (Nat × Nat)) (f : State → EccWord → Nat → State) : State :=
  match s.nbDue c bank op with
  | none => s
  | some (st, w) =>
    let s0 := (s.advanceSigma st).catchUp c st
    let n := s0.nbUnit c bank
    let s1 := s0.setNb c bank { n with queued := n.queued.drop 1 }
    if (banks w).any (fun b => (s1.nbUnit c b).running.isSome) || !nbWordOk w then s1.recordFault fBusy c.uid st 0 0
    else if s1.nbMeets c (banks w) st (st + 64 * nbDuration w) then s1.meshFault c.uid st 0
    else
      match beyondBank (ranges w) with
      | some o => s1.recordFault fBusAddr c.uid st 0 (bankBase c bank + 32 * o)
      | none => f s1 w st

/-- Words of MV's results. -/
def mvOutWords (w : EccWord) : Nat := ceilDiv (nbRows w * (if nbBf16 w then 2 else 4)) 32

/-- MV: x in its first ceil(K / 1024) strokes, then the weights (Table 5.8). -/
def State.mv (s : State) (c : CoreId) (bank : Nat) : State :=
  let wn := fun w => matrixWords (nbWfmt w) (nbRows w) (nbK w)
  let first := fun w => ceilDiv (nbK w) 1024
  s.startNb c bank 1 (fun _ => [bank]) (fun w => [(nbW w, wn w), (nbX w, nbXWords w), (nbY w, mvOutWords w)])
    fun s w st => s.beginNb c [bank] bank st w []
      (nbReads bank 0 st (first w) (bankAddrs c bank (nbX w) (nbXWords w)) ++
        nbReads bank (nbXWords w) (st + 64 * first w) (nbDuration w - nbFinal w - first w) (bankAddrs c bank (nbW w) (wn w)))

/-- R234: the named page passes its checks. -/
def pageOk (slot h0 : EccWord) (gen d : Nat) : Bool :=
  decide (fld h0 16 3 = 1 ∨ fld h0 16 3 = 2) && decide (fld slot 32 32 = gen) && pageFmtOk (fld h0 0 4)
    && decide (32 * (fld h0 4 3 + 1) = d)

/-- Read words of a bank at once; none where one is uncorrectable, which is a fault of the unit (R188). -/
def State.nbFetch (s : State) (c : CoreId) (st : Nat) (as : List Nat) (f : State → List EccWord → State) : State :=
  let r := s.countReads reqNearBank as
  match r.2 with
  | some a => r.1.recordFault fBusEcc c.uid st 0 a
  | none => f r.1 (as.map s.word)

/-- ATTN: the slot word and the page's first header word are read and judged at the start; the queries in the first
ceil(G D / 1024) strokes, then the page (R231-R234). -/
def State.attn (s : State) (c : CoreId) (bank : Nat) : State :=
  s.startNb c bank 2 (fun _ => [bank])
    (fun w => [(nbW w, 1), (nbX w, nbXWords w), (nbY w, nbG w * (1 + nbD w / 8))])
    fun s w st =>
      let xn := nbXWords w
      let first := ceilDiv (nbG w * nbD w) 1024
      let queries := nbReads bank 1 st first (bankAddrs c bank (nbX w) xn)
      s.nbFetch c st (bankAddrs c bank (nbW w) 1) fun s ws =>
        let slot := ws.getD 0 0
        if fld slot 192 64 ≠ 0 ∨ fld slot 21 3 ≠ 0 ∨ fld slot 26 6 ≠ 0 ∨ fld slot 112 16 ≠ 0 then
          s.recordFault fIllegal c.uid st 0 0
        else if !bit slot 20 then s.beginNb c [bank] bank st w (tblSet 0 [] 0 slot) queries
        else
          let p := fld slot 0 20
          s.nbFetch c st (bankAddrs c bank p 1) fun s hs =>
            let h0 := hs.getD 0 0
            let n := pageRegion (fld h0 0 4) (nbD w)
            let header := bankBase c bank + 32 * p
            if p + 10 + 2 * n > 917504 then s.recordFault fBusAddr c.uid st 0 header
            else if !pageOk slot h0 (fld h0 192 32) (nbD w) then s.recordFault fBusAddr c.uid st 0 header
            else
              s.beginNb c [bank] bank st w (tblSet 0 (tblSet 0 [] 0 slot) (1 + xn) h0)
                (queries ++ nbReads bank (2 + xn) (st + 64 * first) (nbDuration w - nbFinal w - first)
                  (bankAddrs c bank (p + 1) (9 + 2 * n)))

/-- REDUCE: blocks of every source bank side by side in the strokes before the final phase (R205). -/
def State.reduce (s : State) (c : CoreId) (bank : Nat) : State :=
  let all := fun w => (maskBanks (nbMask w)) ++ (if (nbMask w).testBit bank then [] else [bank])
  s.startNb c bank 3 all (fun w => [(nbW w, 8 * nbRows w), (nbY w, 8 * nbRows w)])
    fun s w st =>
      let n := 8 * nbRows w
      s.beginNb c (all w) bank st w [] ((maskBanks (nbMask w)).zipIdx.flatMap fun p =>
        nbReads bank (p.2 * n) st (ceilDiv (nbRows w) 8) (bankAddrs c p.1 (nbW w) n))

/-- NB_COMMAND_END: the boundary at which the running command ends. -/
def State.nbEnd (s : State) (c : CoreId) (bank : Nat) : State :=
  match (s.nbUnit c bank).running with
  | none => s
  | some r => if decide (r.stop > s.umpire.stroke * 1024 + 1024) && s.umpire.begun then s
      else (s.advanceSigma r.stop).catchUp c r.stop

def execMv (c : CoreId) (bank : Fin 16) (s : State) : Host.Outcome State Fault Refusal := .next (s.mv c bank.val)
def execAttn (c : CoreId) (bank : Fin 16) (s : State) : Host.Outcome State Fault Refusal := .next (s.attn c bank.val)
def execReduce (c : CoreId) (bank : Fin 16) (s : State) : Host.Outcome State Fault Refusal :=
  .next (s.reduce c bank.val)
def execNbCommandEnd (c : CoreId) (bank : Fin 16) (s : State) : Host.Outcome State Fault Refusal :=
  .next (s.nbEnd c bank.val)

end Sys2Proof.Machine
end

