-- ==== Sys2Proof/Machine/Vault.lean ====
section
/-! DEFINITION. Refresh and patrol scrub (05 R192-R197). -/

namespace Sys2Proof.Machine

/-- The op words of an ECC word of an op store (R73). -/
def State.putStoreWord (s : State) (c : CoreId) (i : Nat) (w : EccWord) : State :=
  { s with opStores := tblMod [] s.opStores c.num fun ws =>
      (ws.set i (w.setWidth 128)).set (i + 1) ((w >>> 128).setWidth 128) }

/-- A stored word meets an error (R186; log 27). -/
def State.upset (s : State) (u : Upset) : State :=
  match u.place with
  | .word a =>
    if (placeOf a).isNone ∨ a % 32 ≠ 0 then s
    else { s with ecc := tblSet 0 s.ecc (a / 32) u.state
                  mem := match u.data with | some w => writeBytes s.mem a (bytesOfWord w) | none => s.mem }
  | .opWords c i =>
    if i ≥ (s.store (.core c)).length then s
    else
      let s1 := { s with ecc := tblSet 0 s.ecc (storeEccKey (.core c) i) u.state }
      match u.data with
      | some w => s1.putStoreWord c (i / 2 * 2) w
      | none => s1

/-- The first maintenance slot of a bank, among n ac from an ac on, that refresh and scrub may use: held accesses come first
in slots 60 and 62 (R174, Table 5.1). -/
def VaultState.nextSlot (v : VaultState) (bank : Nat) : Nat → Nat → Nat
  | 0, a => a
  | n + 1, a =>
    if maintenanceSlot a && !v.bankUse.contains (a * 16 + bank) && (decide (a % 64 = 30) || (tblGet [] v.held bank).isEmpty)
    then a else v.nextSlot bank n (a + 1)

/-- Take the next maintenance slot of a bank. -/
def State.takeSlot (s : State) (c : CoreId) (bank : Nat) : State × Nat :=
  let v := s.vault c
  let a := v.nextSlot bank 1024 s.sigmaNow
  (s.setVault c { v with bankUse := (a * 16 + bank) :: v.bankUse }, a)

/-- The period in which every row of a vault's banks is refreshed (R192). -/
def State.refreshPeriod (s : State) (c : CoreId) : Time :=
  if (s.heat.layers.any fun e => decide (e.1 = 7 * c.col.region.num + (2 * c.layer.code - 1)) && e.2.twice)
  then 16 * msUnits else 32 * msUnits

/-- Refresh keeps its period: the present round over a bank's rows has not outlasted it (R192). The rate is refresh's own; the
commands say when a row is refreshed (log 58). -/
def State.refreshKept (s : State) (c : CoreId) (bank : Nat) : Bool :=
  decide (s.clk.now ≤ tblGet s.clk.bootAt (s.vault c).roundAt bank + s.refreshPeriod c)

/-- BANK_REFRESH: one row of 8 KiB, in turn over the 3,584 rows of the bank, in a maintenance slot (R192). -/
def State.refresh (s : State) (c : CoreId) (bank : Nat) (ups : List Upset) : State :=
  if s.st = .off then s
  else
    let s0 := (s.takeSlot c bank).1
    let v := s0.vault c
    let row := (tblGet 0 v.refreshRow bank + 1) % 3584
    let s1 := s0.setVault c { v with
      refreshRow := tblSet 0 v.refreshRow bank row
      refreshes := tblMod 0 v.refreshes bank (· + 1)
      roundAt := if row = 0 then tblPut v.roundAt bank s.clk.now else v.roundAt }
    ups.foldl (fun s u => s.upset u) s1

def execBankRefresh (t : Time) (c : CoreId) (bank : Fin 16) (upsets : List Upset) (s : State) :
    Host.Outcome State Fault Refusal :=
  .next ((s.advance t).refresh c bank.val upsets)

/-- Words that a scrub pass reads: every word of every vault, core SRAM and well that is not dead (R193). -/
def State.scrubWords (s : State) : Nat :=
  let dead := fun lo n => (s.plan.units.filter fun e => decide (lo ≤ e.1) && decide (e.1 < lo + n) && decide (e.2.toNat % 4 = 1)).length
  (12960 - dead 22432 12960) * 14680064 + (12960 - dead 9472 12960) * 262144 + (360 - dead 448 360) * 524288

/-- The words that a pass has read, of units that are not dead. -/
def State.scrubSeen (s : State) (seen : List Nat) : Nat :=
  (seen.filter fun n => match placeOf (32 * n) with | some p => !s.placeDead p | none => false).length

/-- The scrub has read a word; a pass is complete when it has read every word once. When the next pass begins is not stated:
it begins at once (DESIGN CHOICE, log 58), with the interval then set (R197). -/
def State.scrubNext (s : State) (a : Nat) : State :=
  let k := s.scrub
  let seen := if k.seen.contains (a / 32) then k.seen else a / 32 :: k.seen
  if s.scrubSeen seen ≥ s.scrubWords then
    let s1 := s.bumpReg 0x5220 7 1
    { s1 with scrub := { seen := [], passStart := s.clk.now, hours := s.regN 0x5221 1, late := false } }
  else { s with scrub := { k with seen := seen } }

/-- The bank cycle of a scrub's read, and what the schedule does before it: a maintenance slot of a vault's bank (R174), a
cycle that the schedule leaves free elsewhere (R193). -/
def State.beforeScrub (s : State) (p : Place) : State :=
  match p with
  | .vault c b _ =>
    let r := s.takeSlot c b
    r.1.beforeRead c r.2
  | .sram c _ => s.catchUp c s.sigmaNow
  | .well _ _ => s.wellsTo s.sigmaNow

/-- PATROL_SCRUB, of a word read in its bank cycle (R174, R193): a correctable word is rewritten unless another write has reached it since the read;
an uncorrectable one is counted and left (R194). Stamps stay as they were (R211). -/
def State.scrubWord (s : State) (a : Nat) (found : Nat) (overtaken : Bool) : State :=
  match placeOf a with
  | none => s
  | some p =>
    if s.st = .off ∨ a % 32 ≠ 0 ∨ s.placeDead p then s
    else
      let sb := s.beforeScrub p
      let s0 := if found = 0 then sb else { sb with ecc := tblSet 0 sb.ecc (a / 32) (BitVec.ofNat 2 found) }
      let s1 := s0.countRead a reqScrub
      let s2 := if s0.eccOf a = 1 ∧ !overtaken then { s1 with ecc := tblSet 0 s1.ecc (a / 32) 0 } else s1
      s2.scrubNext a

def execPatrolScrub (t : Time) (addr : BitVec 56) (found : BitVec 2) (overtaken : Bool) (s : State) :
    Host.Outcome State Fault Refusal :=
  .next ((s.advance t).scrubWord addr.toNat found.toNat overtaken)

/-- SCRUB_INTERVAL_END: a pass that is not complete at the end of its interval counts once (R195). -/
def execScrubIntervalEnd (t : Time) (s : State) : Host.Outcome State Fault Refusal :=
  let s := s.advance t
  let k := s.scrub
  if s.st ≠ .off ∧ s.clk.now ≥ k.passStart + k.hours * 3600000 * msUnits ∧ !k.late then
    .next ((s.bumpReg 0x5220 8 1).setScrub { k with late := true })
  else .next s

end Sys2Proof.Machine
end

