-- ==== Sys2Proof/Machine/Umpire.lean ====
section
/-! DEFINITION. The umpire: stroke boundaries, rendezvous, halts and repairs (04 R130-R145; 12 R452,
R453; 10 R398-R402; 05 R182, R183, R215-R217). -/

namespace Sys2Proof.Machine

def State.setUmpire (s : State) (u : Umpire) : State := { s with umpire := u }

/-! ### Programs and their units -/

/-- Cores and routers that hold a program. -/
def State.programUnits (s : State) : List UnitId :=
  (s.opStores.map fun e => UnitId.core (coreOfNum e.1)) ++ s.routeStores.map fun e => UnitId.router (colOfNum e.1)

def State.programCores (s : State) : List CoreId := s.opStores.map fun e => coreOfNum e.1

def State.allHalted (s : State) : Bool := s.programCores.all fun c => (s.core c).iss.halted

/-- The last ac in which an op of a program's cores works. -/
def State.lastDone (s : State) : Nat := s.programCores.foldl (fun m c => max m (s.core c).iss.doneAt) 0

/-- Every core of the program has issued HALT, and every op is complete by sigma sg (R102). -/
def State.allComplete (s : State) (sg : Nat) : Bool :=
  s.allHalted && (s.programCores.all fun c => !s.awaits (.core c)) && decide (s.lastDone ≤ sg)

/-! ### Leaving RUNNING -/

/-- The sigma by which the ops of a core in flight are complete; commands of its vault are not among them. -/
def CoreState.lastJob (k : CoreState) : Nat :=
  (k.todo.filter fun j => !j.ofVault).foldl (fun m j => max m (j.at' + 1)) 0

/-- Ops already in flight complete (R104). -/
def State.landAll (s : State) : State :=
  (s.cores.map Prod.fst).foldl (fun s n => let c := coreOfNum n; s.catchUp c (s.core c).lastJob) s

/-- Credits of a route that flits at its sinks still hold, once those on the way are discarded (R180). -/
def State.heldCredits (s : State) : Tbl Nat :=
  s.sinks.foldl (fun t e => e.2.foldl (fun t f => tblMod 0 t (creditKey f.route e.1) (· + 1)) t) []

/-- What a halt discards: flits in flight, connections, waiting descriptors and commands (R166). The
port engines keep their queues (R298). No vault controller has a scheduled transfer left. -/
def State.discardFlights (s : State) : State :=
  { s with flits := [], wells := [], openUsed := s.heldCredits,
           nb := s.nb.map fun e => (e.1, { e.2 with queued := [] }),
           vaults := s.vaults.map fun e => (e.1, { e.2 with bankUse := [], chanUse := [] })
           routers := s.routers.map fun e => (e.1, { e.2 with conns := [] }) }

/-- The areas of the transfers that a seal's processing waits for (R290, R294). -/
def CrewRun.sealAreas (r : CrewRun) : List (Nat × Nat) :=
  if r.started && r.sealed.isSome && decide (r.sealStage > 0) then (r.defn.sealAddr, 32) :: r.defn.carryAreas else []

/-- Enter a flit before those of higher destinations. -/
def insertFlit (d : Nat) (f : MeshFlit) : List (Nat × MeshFlit) → List (Nat × MeshFlit)
  | [] => [(d, f)]
  | g :: t => if d ≤ g.1 then (d, f) :: g :: t else g :: insertFlit d f t

/-- Before a repair's halt discards the flits in flight, the port engines take back those of carries and seal records, and
present them again in order: the processing of a seal goes on (R298; DESIGN CHOICE, log 67). -/
def State.requeueSeals (s : State) : State :=
  let areas := s.crews.flatMap fun e => e.2.sealAreas
  let dest := fun f : MeshFlit => fld (f.words.headD 0) 0 56
  let mine := ((s.flits.map (·.flit)).filter fun f =>
    f.valid && areas.any fun e => decide (e.1 ≤ dest f) && decide (dest f < e.1 + e.2)).eraseDups
  let sorted := mine.foldl (fun l f => insertFlit (dest f) f l) []
  { s with openQ := sorted.foldr (fun p q =>
      match p.2.kind with
      | .opened route _ => tblMod [] q route (p.2 :: ·)
      | _ => q) s.openQ }

/-- The crews at a repair's halt (R298). -/
def State.crewsHalted (s : State) : State :=
  let t := s.requeueSeals
  { t with crews := t.crews.map fun e => (e.1, e.2.halted (t.regN 0x7010 1)) }

/-- A step ends (R398): its time, then the count. -/
def State.endStep (s : State) : State :=
  if s.umpire.stepBegun then
    let us := (s.clk.now - s.umpire.stepStart) / usUnits
    ((s.setRegN 0x6003 2 (us % 2 ^ 32)).bumpReg 0x6003 1 1).event evStepEnded
  else s

/-- Crews of a program that leaves RUNNING are loaded and not started (R271); a stopped crew stays so. -/
def State.crewsRest (s : State) : State :=
  let s1 := s.crews.foldl (fun (s : State) e => if e.2.started then s.setRegN (0x7010 + e.1) 6 1 else s) s
  { s1 with crews := s1.crews.map fun e => (e.1, { e.2 with started := false }) }

/-- Near-bank commands that run on count sigma from a new origin. -/
def State.nbOrigin (s : State) (old new : Nat) : State :=
  let f := fun t : Nat => t + old - new
  { s with nb := s.nb.map fun e => (e.1, { e.2 with running := e.2.running.map fun r =>
      { r with start := f r.start, final := f r.final, stop := f r.stop } }),
           cores := s.cores.map fun e => (e.1, { e.2 with todo := e.2.todo.map fun j => { j with at' := f j.at' } }) }

/-- A core of which only the commands of its vault go on. -/
def CoreState.vaultOnly (k : CoreState) : CoreState := { CoreState.start with todo := k.todo.filter Job.ofVault }

/-- The program leaves RUNNING with a cause; the level returns to R460, and regions that wait to be retired are (R441). -/
def State.leaveRunning (s : State) (dest : ModState) (cause : Nat) : State :=
  let s1 := ((s.landAll.discardFlights.crewsRest).nbOrigin (sigmaOrigin s.umpire) 0).transition dest (some cause)
  let u := s1.umpire
  let idle : Umpire := { Umpire.idle with mailboxes := u.mailboxes, moved := u.moved, leftAt := some s1.clk.now }
  (({ s1 with umpire := idle, halting := [], openQ := [] } : State).followIdle).retireAll

/-- A program completes (R102, R398, R400). -/
def State.complete (s : State) : State := (s.endStep).leaveRunning .loaded 0x06

/-! ### Tokens (R106, R166, R169, R182, R183) -/

/-- A core lost with its program: a shift repair begins when the image and the segment allow it, else
the core is listed dead and the module halts (R166, R170). -/
def State.programCoresLost (s : State) (lost : List (CoreId × Nat)) : State :=
  if lost = [] then s
  else
    let ok := match s.image with
      | some im => s.umpire.repair.isNone && lost.all (fun p => s.work.reserveLeft im p.1) &&
          decide ((lost.map fun (p : CoreId × Nat) => (p.1.s, p.1.y, p.1.layer)).eraseDups.length = lost.length)
      | none => false
    if ok then
      let s1 := s.landAll.crewsHalted.discardFlights
      s1.setUmpire { s1.umpire with repair := some { lost := lost, since := s.clk.now } }
    else
      let s1 := lost.foldl (fun (s : State) p => s.setWork (s.work.loseCore p.1 p.2)) s
      s1.haltSoon 0x0C

/-- Bonds due at this boundary take spares, as far as there are any (R182); the new bond has no history. -/
def State.replaceBonds (s : State) (c : CoreId) : State :=
  let v := s.vault c
  let now := v.dueBonds.take (32 - v.spares)
  let s1 := (s.setVault c { v with spares := v.spares + now.length, dueBonds := [],
                                   symbols := v.symbols.filter fun p => !now.contains p.1 }).bumpReg 0x5222 2 now.length
  s1.setRegN 0x5222 1 (max (s1.regN 0x5222 1) (v.spares + now.length))

def State.allBonds (s : State) : State :=
  (s.vaults.filter fun e => e.2.dueBonds ≠ []).foldl (fun s e => s.replaceBonds (coreOfNum e.1)) s

/-- A core whose token can be missed: usable in the working plan, and not one whose loss a repair treats already. -/
def State.tokenDue (s : State) (c : CoreId) : Bool :=
  s.work.usable (offCore c) && match s.umpire.repair with
    | some r => !(r.lost.any fun p => p.1 = c)
    | none => true

/-- Cores that their channel has retired (R183). -/
def State.bondless (s : State) : List CoreId :=
  ((s.vaults.filter fun e => e.2.retired).map fun e => coreOfNum e.1).filter s.tokenDue

/-- Cores whose tokens do not come: without a spare bond left (R183), or named by the sender. -/
def State.tokensGone (s : State) (bondless missing : List CoreId) : List (CoreId × Nat) :=
  (bondless.map fun c => (c, 4)) ++
    ((missing.filter fun c => s.tokenDue c && !bondless.contains c).eraseDups.map fun c => (c, 8))

/-- Collect the tokens. A core without a program hands its own whenever D01 runs, one with a program while the
program runs (R106, log 37). -/
def State.collectTokens (s : State) (missing : List CoreId) : State :=
  let s0 := s.allBonds
  let gone := s0.tokensGone s0.bondless missing
  let idle := gone.filter fun p => (s.store (.core p.1)).isEmpty
  let s1 := idle.foldl (fun s p => if p.2 = 4 then s.setWork (s.work.loseCore p.1 4) else s.idleCoreLost p.1) s0
  let busy := gone.filter fun p => !(s.store (.core p.1)).isEmpty
  if s.st = .running ∧ s.umpire.begun then s1.programCoresLost busy
  else (busy.filter fun p => decide (p.2 = 4)).foldl (fun s p => s.setWork (s.work.loseCore p.1 4)) s1

/-! ### The boundary -/

/-- A repair that is given up: a core confirmed dead stays dead (Table 11.6). -/
def State.dropRepair (s : State) : State :=
  match s.umpire.repair with
  | none => s
  | some r =>
    if s.clk.now ≥ r.since + msUnits then r.lost.foldl (fun s p => s.setWork (s.work.loseCore p.1 p.2)) s else s

/-- Program stroke j is held when floor((j+1)k/16) > floor(jk/16) (R452). -/
def heldStroke (j k : Nat) : Bool := decide ((j + 1) * k / 16 > j * k / 16)

/-- The level that takes effect at a step release (R458, R459). -/
def State.takeAgreed (s : State) : State :=
  match s.umpire.agreed with
  | some l => (s.setUmpire { s.umpire with agreed := none }).setLevel (levelOfCode l)
  | none => s

/-- The retest of R159: whether the module must halt, since the ledger fails at every level. -/
def State.ledgerHopeless (s : State) : Bool :=
  match s.image with
  | none => false
  | some im =>
    if s.ledgerPasses im.ledger s.clk.level then false
    else (s.thermalLevel im.ledger).isNone || s.cannotChange

/-- Causes that halt the module at a step release: regions to be retired, no level left, low flow
(R441, R159, R427). -/
def State.releaseHalts (s : State) : List Nat :=
  (if s.supply.retireBy ≠ [] then [0x0C] else []) ++ (if s.ledgerHopeless then [0x0E] else []) ++
    (if s.heat.stopBy.isSome then [0x0F] else [])

/-- The low-flow stop is made and counted (R427). -/
def State.lowFlowStop (s : State) : State :=
  let n := min (s.regN 0x4020 6 + 1) (2 ^ 32 - 1)
  { (s.setRegN 0x4020 6 n) with heat := { s.heat with stopBy := none } }

/-- What a step release, or a halt at its boundary, does for its causes (R159, R427, R441). -/
def State.releaseEffects (s : State) (hs : List Nat) : State :=
  let s1 := if hs.contains 0x0E then s.setRegN 0x6005 1 0x0E else s
  (if hs.contains 0x0F then s1.lowFlowStop else s1).retireAll

/-- The step rendezvous is released at the boundary that has come: what its release would halt the module for counts there
too (R402). -/
def State.releaseDue (s : State) : Bool :=
  match s.image with
  | some im => s.umpire.repair.isNone && !heldStroke s.strokeNow s.power.k &&
      s.umpire.due.any fun d => decide (d.rdv = im.stepRdv) && decide (d.at' ≤ s.strokeNow)
  | none => false

/-- The causes of the step release that falls at the boundary. -/
def State.boundaryReleaseHalts (s : State) : List Nat := if s.releaseDue then s.takeAgreed.releaseHalts else []

/-- The events of one boundary (R402, R400): the highest cause is applied; an ABORT that finds the program complete lets it
complete. -/
def State.applyHalts (s : State) : State :=
  let done := s.umpire.begun && s.allComplete (s.umpire.stroke * 1024)
  let hs := if done then s.halting.filter (· ≠ 0x0B) else s.halting
  match hs with
  | [] => s.complete
  | h :: t =>
    let rel := s.boundaryReleaseHalts
    (s.releaseEffects rel).dropRepair.leaveRunning .held ((t ++ rel).foldl max h)

/-- The next stroke begins, held or not (R453); during a repair no schedule stroke passes. -/
def State.nextStroke (s : State) : State :=
  let u := s.umpire
  let hold := heldStroke (s.strokeNow + 1) s.power.k && u.repair.isNone
  let u1 := { u with nextB := u.nextB + 1024, evaluated := false, holding := hold }
  if u.repair.isSome then s.setUmpire { u1 with held := u.held + 1 }
  else if hold then (s.setUmpire { u1 with held := u.held + 1 }).bumpReg 0x3000 10 1
  else s.setUmpire { u1 with stroke := u.stroke + 1 }

/-- The stroke is over: what happens at its boundary happens in the next one (R131, log 35). -/
def State.strokeOver (s : State) : State := s.setUmpire { s.umpire with stroke := s.umpire.stroke + 1 }

/-- STROKE_BOUNDARY (R130). -/
def State.boundary (s : State) (missing : List CoreId) : State :=
  if !s.clk.d01 then s
  else
    let b := if s.umpire.begun then s.umpire.nextB else (acNow s.clk / 1024 + 1) * 1024
    let sg := if s.umpire.begun then (s.umpire.stroke + 1) * 1024 else b
    let s1 := ((s.advanceAc b).wellsTo sg).catchUpAll sg
    let s2 := (s1.addGathered).collectTokens missing
    if s2.st ≠ .running ∨ !s2.umpire.begun then
      if s2.st = .running ∧ s2.halting ≠ [] then s2.applyHalts else s2
    else if s2.halting ≠ [] then s2.strokeOver.applyHalts
    else s2.nextStroke

def execStrokeBoundary (missing : List CoreId) (s : State) : Host.Outcome State Fault Refusal :=
  .next (s.boundary missing)

/-- The state at the boundary that ends the stroke in progress, before anything of it is decided. -/
def State.atBoundary (s : State) : State :=
  let sg := (s.umpire.stroke + 1) * 1024
  ((((s.advanceAc s.umpire.nextB).wellsTo sg).catchUpAll sg).addGathered).strokeOver

/-- PROGRAM_COMPLETE (R102): at the boundary that ends the stroke of the last op, or at once when that
boundary has passed (log 35). While an op still works in a later stroke, or a fault has come, the program goes on. -/
def State.programComplete (s : State) : State :=
  if s.st = .running ∧ s.umpire.begun ∧ s.umpire.repair.isNone ∧ s.halting = [] ∧
      s.allComplete ((s.umpire.stroke + 1) * 1024) then
    if s.lastDone < 1024 * s.umpire.stroke then s.addGathered.complete
    else
      let t := s.atBoundary
      if t.halting = [] then t.complete else s
  else s

def execProgramComplete (s : State) : Host.Outcome State Fault Refusal := .next s.programComplete

/-! ### Rendezvous (R133-R140) -/

def State.rdvs (s : State) : List RdvEntry := match s.image with | some im => im.rdvs | none => []

def State.rdv (s : State) (r : Nat) : Option RdvEntry := s.rdvs.find? fun e => e.id = r

/-- The dispatch rendezvous and its entry in the split table. -/
def State.split (s : State) : Option Split := s.image.bind (·.split)

def State.isDispatch (s : State) (r : Nat) : Bool := match s.split with | some sp => decide (sp.rdv = r) | none => false

/-- Every participant has arrived up to ac 991 of the stroke; in a held stroke every earlier arrival
counts (R135). A rendezvous without participants has no arrival and is never released (DEDUCED, log 65). -/
def State.arrivedAll (s : State) (r : RdvEntry) : Bool :=
  let limit := s.umpire.stroke * 1024 + (if s.umpire.holding then 1023 else 991)
  !r.units.isEmpty && r.units.all fun u => s.umpire.arrivals.any fun a => a.1 = r.id ∧ a.2.1 = u ∧ a.2.2 ≤ limit

def State.fillsHeld (s : State) (r : RdvEntry) : Bool :=
  r.refs.all fun p => decide ((s.mailbox p.1).toNat ≥ p.2)

def State.satisfied (s : State) (r : RdvEntry) : Bool :=
  s.arrivedAll r && s.fillsHeld r && (!s.isDispatch r.id || !s.umpire.selNext.isEmpty)

def State.watchWord (s : State) (mb : Nat) : Option EccWord :=
  match s.image with
  | some im => (im.mbs.find? fun m => m.id = mb ∧ m.kind = 1).map fun m => s.word m.watch
  | none => none

/-- The release word of a normal release (R137): EXIT from the HOST mailboxes. -/
def State.releaseWord (s : State) (r : RdvEntry) : BitVec 32 :=
  if r.refs.any fun p => match s.watchWord p.1 with | some w => bit w 64 | none => false then 2 else 0

/-- Judge one rendezvous in ac 992 (R136, R138, R450). -/
def State.evaluate (s : State) (r : RdvEntry) : State :=
  let u := s.umpire
  if u.due.any fun d => d.rdv = r.id then s
  else if s.satisfied r then
    let shed := s.power.shedding && decide (r.shed > 0)
    let d : Due := { rdv := r.id, word := s.releaseWord r,
                     at' := s.strokeNow + 1 + (if shed then r.shed else 0), shed := shed }
    let s1 := s.setUmpire { u with due := u.due ++ [d], timers := tblDel u.timers r.id }
    if shed then s1.bumpReg 0x3000 11 1 else s1
  else if s.arrivedAll r && (tblFind u.timers r.id).isNone then
    s.setUmpire { u with timers := tblPut u.timers r.id s.clk.now }
  else s

/-- The umpire evaluates while a program runs and is not under repair. -/
def State.evaluating (s : State) : Bool := decide (s.st = .running) && s.umpire.begun && s.umpire.repair.isNone

/-- RENDEZVOUS_EVALUATION: every rendezvous, once a stroke (R135). -/
def State.evaluateAll (s : State) : State :=
  if !s.evaluating || s.umpire.evaluated then s
  else
    let s0 := s.advanceAc (s.umpire.nextB - 32)
    let s1 := s0.rdvs.foldl (fun s r => s.evaluate r) s0
    s1.setUmpire { s1.umpire with evaluated := true, evalAt := s0.clk.now }

def execRendezvousEvaluation (s : State) : Host.Outcome State Fault Refusal := .next s.evaluateAll

/-- Resume a participant at the release stroke (R99, R100): the wait moves its loops. -/
def resumeIssue (i : Issue) (stroke : Nat) (word : BitVec 32) : Issue :=
  let w := stroke - i.stakeStroke
  { i with stroke := stroke, reached := stroke * 1024, waiting := none, outcome := word,
           frames := i.frames.map fun f => { f with base := f.base + w } }

def State.releaseUnit (s : State) (stroke : Nat) (word : BitVec 32) (uid : Nat) : State :=
  match unitOfUid uid with
  | some u => s.setIssue u (s.settled u (resumeIssue (s.issue u) stroke word))
  | none => s

/-- A release consumes its fills, except under TIMEOUT (R136, R138). Two rendezvous that share a mailbox can both find it
full at one evaluation; the counter then stops at 0 (DESIGN CHOICE, log 65). -/
def State.consume (s : State) (r : RdvEntry) : State :=
  r.refs.foldl (fun s p =>
    let left := BitVec.ofNat 64 ((s.mailbox p.1).toNat - p.2)
    s.setUmpire { s.umpire with mailboxes := tblSet 0 s.umpire.mailboxes p.1 left }) s

/-- The restart point (R143). -/
def State.recordRestart (s : State) : State :=
  let rp : RestartPoint :=
    { stroke := s.umpire.stroke
      cores := s.opStores.map fun e =>
        let k := s.core (coreOfNum e.1)
        (e.1, k.iss, k.aPend.foldl (fun t p => tblSet 0 t p.2.1 p.2.2) k.aregs)
      routers := s.routeStores.map fun e => (e.1, (s.router (colOfNum e.1)).iss) }
  s.setUmpire { s.umpire with restart := some rp }

/-- Record of 6011h at a dispatch (R217, Table 5.13). -/
def State.dispatch (s : State) : State :=
  match s.split, s.umpire.selNext with
  | some sp, (b, sel) :: later =>
    let s1 := s.setUmpire { s.umpire with sel := sel, selNext := later }
    let share := match sp.entries with
      | e :: _ =>
        let v := ((sel.find? fun p => p.1 = e.window).map Prod.snd).getD 0
        if v = 0 then 256 else if v + 1 ≥ e.nvar then 0 else e.share.getD (v - 1) 0
      | [] => 0
    ((s1.setRegN 0x6011 1 b).setRegN 0x6011 2 share).bumpReg 0x6011 3 1
  | _, _ => s

/-- A trim in mV + 128 after a move of at most one step of 5 mV, within 25 mV (R445). -/
def trimAfter (v : Nat) (move : BitVec 2) : Nat :=
  if move = 1 then min 153 (v + 5) else if move = 2 then max 103 (v - 5) else v

/-- The module may change every trim by a step (R445, log 9). -/
def State.moveTrims (s : State) : State :=
  { s with fresh := s.fresh + 1
           supply := { s.supply with trim := (List.range 360).map fun w =>
             (w, trimAfter (tblGet 128 s.supply.trim w) (Config.trimMove s.fresh (regionOfNum w))) } }

/-- A release of the step rendezvous: the step ends, the level changes, the ledger is retested, and the
next step begins (R142, R143, R159, R398, R458). -/
def State.stepRelease (s : State) : State :=
  let s1 := ((s.endStep).takeAgreed)
  let s2 := if s1.hasCrew then s1 else s1.ownRequest
  let hs := s2.releaseHalts
  let s5 := s2.releaseEffects hs
  match hs with
  | h :: t => (s5.setUmpire { s5.umpire with stepBegun := false }).leaveRunning .held (t.foldl max h)
  | [] =>
    (s5.setUmpire { s5.umpire with stepBegun := true, stepStart := s5.clk.now, deadlineBase := s5.clk.now }).recordRestart.moveTrims

/-- RENDEZVOUS_RELEASE at its boundary; one that falls at the start of a held stroke waits (R453). A TIMEOUT release of the
dispatch rendezvous consumes no fill (R138), so it takes no selection: the one in force stays, variant 0 before any
dispatch (DESIGN CHOICE, log 65). -/
def State.release (s : State) (rdv : Nat) : State :=
  let u := s.umpire
  match u.due.find? (fun d => decide (d.rdv = rdv) && decide (d.at' ≤ s.strokeNow)), s.rdv rdv with
  | some d, some r =>
    if !s.evaluating || u.holding then s
    else
      let s1 := s.setUmpire
        { u with due := u.due.filter fun e => decide (e.rdv ≠ rdv)
                 arrivals := u.arrivals.filter fun a => decide (a.1 ≠ rdv)
                 timers := tblDel u.timers rdv }
      let s2 := if d.word.getLsbD 0 then s1 else s1.consume r
      let s3 := if s2.isDispatch rdv && !d.word.getLsbD 0 then s2.dispatch else s2
      let s4 := r.units.foldl (fun s u => s.releaseUnit s.umpire.stroke d.word u) s3
      if (s.image.map (·.stepRdv)) = some rdv then s4.stepRelease else s4
  | _, _ => s

def execRendezvousRelease (rdv : BitVec 12) (s : State) : Host.Outcome State Fault Refusal := .next (s.release rdv.toNat)

/-- 6006h (Table 4.4). -/
def State.stakeLog (s : State) (rdv kind : Nat) : State :=
  (((s.setRegN 0x6006 1 rdv).setRegN 0x6006 2 kind).setRegN 0x6006 3 s.strokeNow).bumpReg 0x6006 4 1

/-- RENDEZVOUS_TIMEOUT: the evaluation found the rendezvous unsatisfied and its timeout elapsed (R138). -/
def State.timeOut (s : State) (rdv : Nat) : State :=
  match s.rdv rdv, tblFind s.umpire.timers rdv with
  | some r, some t0 =>
    if !s.evaluating || !s.umpire.evaluated || s.umpire.evalAt < t0 + r.timeoutMs * msUnits then s
    else
      let u := s.umpire
      let s1 := s.setUmpire { u with timers := tblDel u.timers rdv }
      if r.release then
        (s1.setUmpire { s1.umpire with due := u.due ++ [{ rdv := rdv, word := 1, at' := s.strokeNow + 1,
                                                           shed := false }] }).stakeLog rdv 1
      else (s1.stakeLog rdv 2).haltSoon 0x08
  | _, _ => s

def execRendezvousTimeout (rdv : BitVec 12) (s : State) : Host.Outcome State Fault Refusal := .next (s.timeOut rdv.toNat)

/-- STEP_DEADLINE: the deadline is past without a release (R142). -/
def State.stepDeadline (s : State) : State :=
  match s.image with
  | none => s
  | some im =>
    if !s.evaluating then s
    else
      let s1 := s.advance (s.umpire.deadlineBase + im.deadlineMs * msUnits)
      (s1.stakeLog im.stepRdv 3).haltSoon 0x09

def execStepDeadline (s : State) : Host.Outcome State Fault Refusal := .next s.stepDeadline

/-! ### Selection of variants (R215-R217) -/

/-- Variant of an entry for a batch size. -/
def variantFor (e : SplitEntry) (b : Nat) : Nat :=
  if b ≤ 8 then 0 else if b ≤ 31 then e.sel.getD (b - 9) 0 else e.nvar - 1

end Sys2Proof.Machine
end

