-- ==== Sys2Proof/Machine/Tray.lean ====
section
/-! DEFINITION. The tray signals, OFF, FAULT, SAFE_STOP, and the beginning of a bring-up (10 R393, R401;
11 R428-R431; 12 R435, R518; 13 R463, R466; 14 R495, R500; 16 R525-R535). -/

namespace Sys2Proof.Machine

/-! ### Loads that are abandoned (R149) -/

/-- No crew is loaded. -/
def State.dropCrews (s : State) : State :=
  let s1 := s.crews.foldl (fun (s : State) e => s.setRegN (0x7010 + e.1) 6 0) s
  ({ s1 with crews := [] } : State).setRegN 0x7010 4 0 |>.setRegN 0x3040 5 0

def State.abandonLoad (s : State) : State :=
  match s.loading with
  | .none => s
  | .load => ({ s.dropCrews with loading := .none } : State).loadResult 0x10 0xFFFF 0 0 0
  | .start => ({ s with loading := .none } : State).loadResult 0x10 0xFFFF 0 0 0

/-- The module left RUNNING at this very instant: a row of Table 10.14 that stands lower prevails (R402). -/
def State.leftNow (s : State) : Bool :=
  decide (s.umpire.leftAt = some s.clk.now) && (decide (s.st = .held) || decide (s.st = .loaded))

/-- The lower row's state and cause take the place of those recorded at the same boundary (R402): one transition in all. -/
def State.overrule (s : State) (dest : ModState) (cause : Nat) : State :=
  { (s.setRegN 0x1001 4 cause).setRegN 0x6002 2 cause with st := dest }

/-- A transition from any state: a program leaves RUNNING, and leaving READY and LOADED abandons a load
or start check. Ballast stops in SAFE_STOP and FAULT (R455). -/
def State.goTo (s : State) (dest : ModState) (cause : Nat) : State :=
  let s1 :=
    if s.st = .running then s.leaveRunning dest cause
    else if s.leftNow then s.overrule dest cause
    else s.transition dest (some cause)
  if dest = .safeStop ∨ dest = .fault then s1.abandonLoad.stopBallast else s1

/-! ### The test token (R507) -/

/-- Every fault-injection rate becomes zero (R369). -/
def State.fiZero (s : State) : State :=
  ((List.range 31).foldl (fun s i => s.zeroRegs (0x7410 + i) [1, 2, 3]) s)

/-- The module injects faults freely in DEBUG (R369). -/
def State.inDebug (s : State) : Bool := decide (s.sec.lc = 3)

def State.lapseToken (s : State) : State :=
  match s.sec.token with
  | none => s
  | some _ =>
    (({ s with sec := { s.sec with token := none } } : State).setRegN 0x8020 3 2).fiZero

/-! ### OFF and FAULT -/

/-- Near-bank units and vault controllers stop with the units that follow D01 (R421, Table 11.5). -/
def State.haltUnits (s : State) : State :=
  { s with nb := [], cores := s.cores.map fun e => (e.1, { e.2 with todo := [], flights := [] }) }

/-- OFF: no part of the module runs (R437); a cause is kept in configuration memory (R491). -/
def State.powerOff (s : State) (cause : Option Nat) : State :=
  let s1 := if s.st = .off then s else s.transition .off cause
  { s1.haltUnits with stop := none, coxDark := false, clk := { s1.clk with d01 := false }, loading := .none,
                      halting := [], umpire := Umpire.idle, flits := [] }

/-- THERM_TRIP is released when ENABLE falls or the input is removed (R531). -/
def State.setPins (s : State) (p : Pins) : State := { s with pins := p }

/-- FAULT; a failure of the lead cox also ends the dictionary (R12, R376). -/
def State.enterFault (s : State) (cause : Nat) : State := s.goTo .fault cause

/-! ### SAFE_STOP (Table 11.5) -/

/-- The state of a port's link (Table 9.10); a change sets bit 8 of 1110h. -/
def State.setLink (s : State) (i v : Nat) : State :=
  if s.regN (0x7210 + i) 1 = v then s
  else (s.setRegN (0x7210 + i) 1 v).event evPortChanged

def State.portsDown (s : State) : State :=
  (List.range 30).foldl (fun s i => if s.regN (0x7210 + i) 1 = 4 then s else s.setLink i 0) s

/-- 4020h.07. -/
def State.countSafeStop (s : State) : State := s.setRegN 0x4020 7 (min (s.regN 0x4020 7 + 1) (2 ^ 32 - 1))

/-- A budget in force is not 0. -/
def State.anyBudget (s : State) : Bool := !s.budgetsZero && !s.heat.budgets.isEmpty

/-- Budgets have changed (R417, Table 11.3): the generation advances, and a fall sets bit 11 of 1110h. 4000h.08 follows, and
outside RUNNING the level (12 R460). -/
def State.budgetsChange (s : State) (cause : Nat) (fall : Bool) : State :=
  let s1 : State := { s with heat := { s.heat with gen := s.heat.gen + 1, cause := cause } }
  let s2 := (if fall then s1.event evThermal else s1).showThermalLevel
  if s2.st = .running then s2 else s2.followIdle

/-- SAFE_STOP from t0: counted, the token lapses, budgets are 0, everything that follows D01 is halted and
the links go down. -/
def State.enterSafeStop (s : State) : State :=
  let s1 := ((s.goTo .safeStop 0x12).lapseToken).countSafeStop
  let s2 := if s.anyBudget then s1.budgetsChange 6 true else s1
  let s3 := s2.portsDown.haltUnits
  let ac := acNow s3.clk
  { s3 with stop := some { since := s.clk.now, recovering := false },
            clk := { s3.clk with d01 := false, baseAc := ac, baseWall := s.clk.now },
            heat := { s3.heat with stopBy := none } }

/-! Flow and coolant (R423, R424) -/

/-- Flow (0.01 L/min) averaged over 100 ms (R423). -/
def HeatState.meterFlow (h : HeatState) : Int :=
  if h.flowHist = [] then 0 else h.flowHist.foldl (· + ·) 0 / h.flowHist.length

def HeatState.coolantGood (h : HeatState) (i : Nat) : Option Int :=
  let r := tblGet SensorRec.new h.coolant i
  if r.failed then none else r.last

def higher (a b : Option Int) : Option Int :=
  match a, b with
  | some x, some y => some (max x y)
  | some x, none => some x
  | none, y => y

/-- The inlet temperature: 40 degrees when both sensors have failed (R424). -/
def HeatState.inlet (h : HeatState) : Int := (higher (h.coolantGood 0) (h.coolantGood 1)).getD 4000

def HeatState.outlet (h : HeatState) : Option Int := higher (h.coolantGood 2) (h.coolantGood 3)

/-- The flow of R423: the meter, or estimated from power and the coolant's rise, at most 20 L/min. -/
def State.flow (s : State) : Int :=
  if s.heat.meterFailed then
    match s.heat.outlet with
    | some o =>
      let d := o - s.heat.inlet
      if d < 100 then 2000 else min 2000 ((s.regN 0x3000 3 : Int) * 10000 / (66 * d))
    | none => 2000
  else s.heat.meterFlow

/-- Recovery begins from t0 + 2 ms on, when FLOW_OK has been high for 100 ms and flow is back (step 4). In
FAULT the level alone is noted (R431). -/
def State.recoveryStart (s : State) : State :=
  if s.st = .fault then s.setPins { s.pins with flowOk := true }
  else match s.stop with
  | some h =>
    if s.st = .safeStop ∧ !h.recovering ∧ s.clk.now ≥ h.since + 2 * msUnits ∧ s.flow ≥ 800 then
      { (s.setPins { s.pins with flowOk := true }) with stop := some { h with recovering := true } }
    else s
  | none => s

def execSafeStopRecoveryStart (t : Time) (s : State) : Host.Outcome State Fault Refusal :=
  .next (s.advance t).recoveryStart

/-- A finding of a test enters the working plan, with its dependants (R484). -/
def Plan.finding (p : Plan) (f : Finding) (inService : Bool) : Plan :=
  let o := f.offset
  let st := f.state.toNat
  let ca := f.cause.toNat
  if 64 ≤ o ∧ o < 424 then
    if st = 1 then p.retireRegion (regionOfNum (o - 64)) inService
    else if st = 2 then p.loseRegion (regionOfNum (o - 64)) ca inService else p
  else if 448 ≤ o ∧ o < 808 then p.mark o st ca inService
  else if 832 ≤ o ∧ o < 5152 then p.markColumn (colOfNum (o - 832)) ca inService
  else if 5152 ≤ o ∧ o < 9472 then p.deadLink (colOfNum (o - 5152)) (portOfCode ca)
  else if 9472 ≤ o ∧ o < 22432 then p.mark o st ca inService
  else if 22432 ≤ o ∧ o < 35392 then p.markVault (coreOfNum (o - 22432)) st ca inService
  else if 35392 ≤ o ∧ o < 35423 then p.mark o st ca inService
  else p

/-- A region that a test finds retired or lost (R468): 3050h shows it. -/
def State.findRegion (s : State) (f : Finding) : State :=
  let w := f.offset - 64
  if 64 ≤ f.offset ∧ f.offset < 424 ∧ f.state ≠ 0 ∧ tblGet 0 s.supply.region w < f.state.toNat + 1 then
    let s1 : State := { s with supply := { s.supply with region := tblSet 0 s.supply.region w (f.state.toNat + 1) } }
    if f.state = 1 then s1.bumpReg 0x3050 4 1 else s1
  else s

def State.findings (s : State) (fs : List Finding) (inService : Bool) : State :=
  let s1 := fs.foldl (fun s f => s.findRegion f) s
  s1.setWork (fs.foldl (fun p f => p.finding f inService) s1.work)

/-- Vault contents only: core SRAM and wells are filled with zeros (R191). -/
def State.fillSramAndWells (s : State) : State :=
  { s with mem := s.mem.filter fun c => decide (c.1 < 2 ^ 52)
           ecc := s.ecc.filter fun e => decide (e.1 < 2 ^ 47) }

/-- Recovery ends (steps 6, 7): HELD, ports train as at ST9, the clock runs again. -/
def State.recoveryEnd (s : State) (fs : List Finding) : State :=
  match s.stop with
  | some h =>
    if s.st = .safeStop ∧ h.recovering then
      let s1 := ((s.fillSramAndWells).findings fs true).publish
      let k := { s1.clk with d01 := true, baseWall := s1.clk.now }
      let s1 := ({ s1 with clk := k, stop := none } : State).transition .held (some 0x13)
      let s2 := if s1.anyBudget then s1.budgetsChange s1.heat.cause false else s1
      (((List.range 30).foldl (fun (s : State) i =>
        if s.regN (0x7210 + i) 1 = 4 ∨ !s.plan.usable (offPort i) then s else s.setLink i 1) s2)).followIdle
    else s
  | none => s

def execSafeStopRecoveryEnd (t : Time) (units : List Finding) (s : State) : Host.Outcome State Fault Refusal :=
  .next ((s.advance t).recoveryEnd units)

/-- FLOW_OK low at t0 + 2 s: OFF with cause 0x14 (step 5). -/
def State.holdExpiry (s : State) : State :=
  match s.stop with
  | some h =>
    if s.st = .safeStop ∧ !h.recovering ∧ !s.pins.flowOk ∧ s.clk.now ≥ h.since + 2000 * msUnits then
      s.powerOff (some 0x14)
    else s
  | none => s

def execSafeStopHoldExpiry (t : Time) (s : State) : Host.Outcome State Fault Refusal := .next (s.advance t).holdExpiry

/-! ### The beginning of a bring-up (R463, R500) -/

/-- FW_VERSION, SEC_VERSION and BODY_DIGEST of a slot: an installed image, or the one it came with. -/
def SecState.slotImage (k : SecState) (i : Nat) : SlotImage :=
  (tblFind k.slots i).getD { version := Config.slotVersion i, sec := Config.slotSecVersion i,
                             digest := Config.slotDigest i }

/-- The slot booted (Table 14.7 step 3): the higher FW_VERSION of the slots whose SEC_VERSION is not below
the fused one, slot 0 on a tie. -/
def SecState.pickSlot (k : SecState) : Nat :=
  let ok := fun i => decide ((k.slotImage i).sec.toNat ≥ k.secVersion.toNat)
  if ok 1 && (!ok 0 || decide ((k.slotImage 1).version.toNat > (k.slotImage 0).version.toNat)) then 1 else 0

/-- Some slot's security version is not below the fused one, so the lead cox can boot (Table 14.7 step 4; log 19). -/
def SecState.slotFound (k : SecState) : Bool :=
  [0, 1].any fun i => decide ((k.slotImage i).sec.toNat ≥ k.secVersion.toNat)

/-- Bring-up begins afresh: everything is wiped but what Table 14.5 keeps; FLOW_OK low is met at once
(R466). A reference that is still absent is a REFCLK_LOSS before ST2 ends (R534, R535; log 34). -/
def State.beginBringup (s : State) (cause : Option Nat) : State :=
  let kept := s.regs.filter fun e => regKept e.1
  let sec : SecState := { s.sec with authKind := none, token := none, install := none, attNonce := none,
                                     booted := s.sec.pickSlot }
  let w := State.wiped s.clk.now kept s.cfg sec { s.pins with refclk := true, holdOver := false }
  let n : State := { w with pending := s.pending, fresh := s.fresh, outbox := s.outbox, nextReq := s.nextReq,
                            testIr := s.testIr, supply := { w.supply with bricks := s.supply.bricks },
                            heat := { w.heat with sensors := [] } }
  let n1 := match cause with | some c => n.setRegN 0x1001 4 c | none => n
  let n2 := { n1 with boot := { n1.boot with hostMode := decide (s.regN 0x2000 0 = 1) } }
  if n2.pins.flowOk then n2 else n2.enterSafeStop

/-- A reset or a life-cycle transition was accepted within the last millisecond, in which its halt falls (R393, R497). -/
def State.justReset (s : State) : Bool :=
  decide (s.st = .bringup) && decide (s.boot.stage = 0) && decide (s.clk.now ≤ s.boot.since + msUnits) &&
    (decide (s.regN 0x1001 4 = 0x17) || decide (s.regN 0x1001 4 = 0x18))

/-- FLOW_OK falls in that millisecond: whether SAFE_STOP was entered before the halt is free (log 55). It is counted then, and
the bring-up that begins at the halt meets FLOW_OK low (Table 10.14, R466). -/
def State.stopBeforeHalt (s : State) : State :=
  let t : State := { s with fresh := s.fresh + 1 }
  if Config.freeBit s.fresh then t.countSafeStop.beginBringup (some (s.regN 0x1001 4)) else t.enterSafeStop

/-- FLOW_OK low for 10 us (R428): from BRINGUP to HELD SAFE_STOP begins; in FAULT the supplies go, and
storage reads end with 0x0613 (R431); a fall during recovery begins the hold anew; no effect while off
(Table 16.5). -/
def State.flowLow (s : State) : State :=
  let s1 := s.setPins { s.pins with flowOk := false }
  match s1.st with
  | .off => s
  | .fault => { s1 with supply := { s1.supply with dark := true } }
  | .safeStop =>
    match s1.stop with
    | some h => if h.recovering then { s1 with stop := some { since := s1.clk.now, recovering := false } } else s1
    | none => s1
  | _ => if s1.justReset then s1.stopBeforeHalt else (s1.dropRepair).enterSafeStop

def execFlowOkLow (t : Time) (s : State) : Host.Outcome State Fault Refusal := .next (s.advance t).flowLow

/-- Bring-up from OFF when input is good and ENABLE is high (Table 10.14). FLOW_OK is high by then (R466);
a FLOW_OK that is low is a FLOW_OK_LOW after it (log 34). -/
def State.powerUp (s : State) : State :=
  if s.st = .off ∧ s.pins.enable ∧ s.pins.inputGood then
    (s.setPins { s.pins with flowOk := true }).beginBringup none
  else s

/-- ENABLE rises; within 100 ms of its fall it is acted on once they have passed (R529). -/
def State.enableHigh (s : State) : State :=
  let s1 := s.setPins { s.pins with enable := true }
  let s2 := match s1.pins.fellAt with
    | some f => if s1.st = ModState.off then s1.advance (f + 100 * msUnits) else s1
    | none => s1
  s2.powerUp

def execEnableHigh (t : Time) (s : State) : Host.Outcome State Fault Refusal := .next (s.advance t).enableHigh

def State.enableLow (s : State) : State :=
  (s.setPins { s.pins with enable := false, thermTrip := false, fellAt := some s.clk.now }).powerOff none

def execEnableLow (t : Time) (s : State) : Host.Outcome State Fault Refusal := .next (s.advance t).enableLow

def execInputGoodLoss (t : Time) (s : State) : Host.Outcome State Fault Refusal :=
  let s1 := s.advance t
  .next ((s1.setPins { s1.pins with inputGood := false, thermTrip := false }).powerOff none)

def execInputGoodReturn (t : Time) (s : State) : Host.Outcome State Fault Refusal :=
  let s1 := s.advance t
  .next ((s1.setPins { s1.pins with inputGood := true }).powerUp)

/-- The reference leaves its limits in service: every PLL holds over and the module runs on (R535). -/
def execRefclkLoss (t : Time) (s : State) : Host.Outcome State Fault Refusal :=
  let s1 := s.advance t
  .next (s1.setPins { s1.pins with refclk := false, holdOver := decide (s1.st ≠ ModState.off) || s1.pins.holdOver })

/-! ### Cox watchdogs (R12, R518) -/

def State.leadCoxFails (s : State) : State :=
  if s.st = .off then s else { s.enterFault 0x15 with coxDark := true }

def execLeadCoxWatchdog (t : Time) (s : State) : Host.Outcome State Fault Refusal := .next (s.advance t).leadCoxFails

/-- The regions of a stack are lost with cause 14; a running module halts (R518). -/
def State.coxFails (s : State) (k : Nat) : State :=
  if s.st = .off then s
  else
    let lost := (List.range 30).map (30 * k + ·)
    let s1 := s.findings (lost.map fun w => { offset := 64 + w, state := 2, cause := 14 }) true
    if s1.st = .running then s1.haltSoon 0x0C else s1

def execCoxWatchdog (t : Time) (k : Fin 12) (s : State) : Host.Outcome State Fault Refusal :=
  let s1 := s.advance t
  .next (if k.val = 0 then s1.leadCoxFails else s1.coxFails k.val)

/-! ### The test port (R495) -/

/-- A full test port (Table 14.2). -/
def State.testPortFull (s : State) : Bool := decide (s.sec.lc = 0) || decide (s.sec.lc = 3)

/-- What a restricted port makes of an instruction. -/
def restrictIr (ir : TestIr) : TestIr :=
  match ir with
  | .bypass | .idcode | .samplePreload => ir
  | _ => .bypass

def execTestPortInstruction (t : Time) (ir : TestIr) (s : State) : Host.Outcome State Fault Refusal :=
  let s1 := s.advance t
  if s1.st = .off then .next s1
  else if s1.testPortFull then
    match ir with
    | .priv _ => .refused .privateTestInstruction
    | _ => .next { s1 with testIr := ir }
  else .next { s1 with testIr := restrictIr ir }

end Sys2Proof.Machine
end

