-- ==== Sys2Proof/Machine/Heat.lean ====
section
/-! DEFINITION. Sensors, the heat model, budgets and coolant (11). Temperatures in 0.01 degree, flow in
0.01 L/min. -/

namespace Sys2Proof.Machine

def State.setHeat (s : State) (h : HeatState) : State := { s with heat := h }

/-! ### Sensors (R406-R410) -/

/-- Layer of sensor k (Table 11.1): 0 B0, 1 M1, 2 C2, 3 M3, 4 C4, 5 M5, 6 C6. -/
def sensorLayer (k : Nat) : Nat :=
  match k with
  | 0 => 0 | 1 => 1 | 2 => 2 | 3 => 2 | 4 => 2 | 5 => 3 | 6 => 4 | 7 => 4 | 8 => 4 | 9 => 5 | _ => 6

def memoryLayer (l : Nat) : Bool := decide (l = 1 ∨ l = 3 ∨ l = 5)
def computeLayer (l : Nat) : Bool := decide (l = 2 ∨ l = 4 ∨ l = 6)

/-- First sensor of a layer: of a compute layer two diodes and the ring-oscillator monitor after it. -/
def layerSensor (l : Nat) : Nat :=
  match l with | 0 => 0 | 1 => 1 | 2 => 2 | 3 => 5 | 4 => 6 | 5 => 9 | _ => 10

def sensorId (w : Nat) (k : Nat) : Nat := 13 * w + k

def HeatState.sensor (h : HeatState) (id : Nat) : SensorRec := tblGet SensorRec.new h.sensors id

def HeatState.layer (h : HeatState) (w l : Nat) : LayerRec := tblGet LayerRec.new h.layers (7 * w + l)

def HeatState.setLayer (h : HeatState) (w l : Nat) (r : LayerRec) : HeatState :=
  { h with layers := tblSet LayerRec.new h.layers (7 * w + l) r }

/-- R407: out of bounds, more than 8 K from the previous sample, or a converter error. -/
def failsNow (r : SensorRec) (reading : Int) (bad : Bool) : Bool :=
  bad || decide (reading < -4000) || decide (reading > 15000) ||
    match r.last with
    | some l => decide ((reading - l).natAbs > 800)
    | none => false

/-- Trip limit of a layer (R421). -/
def tripLimit (l : Nat) : Int := if memoryLayer l then 9500 else 10500

/-- The trip comparators are armed: SAFE_STOP disarms them, after the sample of the instant at which it is entered (R422,
Table 11.6). -/
def State.tripArmed (s : State) : Bool := match s.stop with
  | some h => decide (s.st ≠ .safeStop) || decide (h.since = s.clk.now)
  | none => true

/-- Judge one sample. The trip comparators count samples in a row; SAFE_STOP disarms them (R422). -/
def judgeSample (r : SensorRec) (l : Nat) (armed : Bool) (x : Sample) : SensorRec :=
  if r.failed then r
  else if failsNow r x.reading x.bad then { r with failed := true, disagree := false, above := 0 }
  else { r with last := some x.reading, above := if armed ∧ x.reading > tripLimit l then r.above + 1 else 0 }

/-- A failed sensor sets bit 11 of 1110h and counts in 4000h.05 (R407). -/
def State.sampleSensor (s : State) (x : Sample) : State :=
  if x.id ≥ 4680 then s
  else
    let h := s.heat
    let old := h.sensor x.id
    let r := judgeSample old (sensorLayer (x.id % 13)) s.tripArmed x
    let s1 := s.setHeat { h with sensors := tblSet SensorRec.new h.sensors x.id r }
    if r.failed && !old.failed then (s1.bumpReg 0x4000 5 1).event evThermal else s1

/-- A sensor's reading, when it has not failed and has been sampled. -/
def HeatState.good (h : HeatState) (id : Nat) : Option Int :=
  let r := h.sensor id
  if r.failed then none else r.last

/-- Temperature by the sensors of a layer; none when all have failed (R408-R410). -/
def HeatState.bySensors (h : HeatState) (w l : Nat) : Option Int :=
  let k := sensorId w (layerSensor l)
  if computeLayer l then
    match h.good k, h.good (k + 1) with
    | some a, some b => some (max a b)
    | some a, none => some a
    | none, some b => some b
    | none, none => (h.good (k + 2)).map (· + 300)
  else h.good k

/-- The temperature in use: without a sensor, or for a suspect layer when it is higher, the estimate
(R409-R411). -/
def HeatState.inUse (h : HeatState) (w l : Nat) : Int :=
  let r := h.layer w l
  match h.bySensors w l with
  | none => r.est
  | some t => if r.suspect then max t r.est else t

/-- Guard band (R409-R411, R416). -/
def HeatState.guardBand (h : HeatState) (w l : Nat) : Nat :=
  let k := sensorId w (layerSensor l)
  let f := fun i => (h.sensor i).failed
  if (h.layer w l).suspect then 600
  else if computeLayer l then (if f k && f (k + 1) && f (k + 2) then 600 else 200)
  else if f k then 400 else 200

/-- Limit of a layer (R416). -/
def layerLimit (l : Nat) : Int := if memoryLayer l then 8500 else 9500

/-- Two diodes of a compute layer that differ by more than 4 K (R408). -/
def HeatState.differ (h : HeatState) (w l : Nat) : Bool :=
  let k := sensorId w (layerSensor l)
  match h.good k, h.good (k + 1) with
  | some a, some b => decide ((a - b).natAbs > 400)
  | _, _ => false

def State.markDisagree (s : State) (w l : Nat) : State :=
  let h := s.heat
  let d := h.differ w l
  let k := sensorId w (layerSensor l)
  let set := fun (t : Tbl SensorRec) i => tblMod SensorRec.new t i fun r => { r with disagree := d && !r.failed }
  let s1 := s.setHeat { h with sensors := set (set h.sensors k) (k + 1) }
  if d then s1.bumpReg 0x4000 7 1 else s1

/-- Regions whose sensors a list of samples names. -/
def sampledRegions (xs : List Sample) : List Nat := (xs.map fun x => x.id / 13).eraseDups.filter (· < 360)

/-! ### Coolant (R423-R427) -/

/-- A coolant sensor is judged as a region sensor is; its failure sets bit 15 (R424, R425). -/
def State.sampleCoolant (s : State) (i : Nat) (x : Sample) : State :=
  let h := s.heat
  let old := tblGet SensorRec.new h.coolant i
  let r := if old.failed then old
    else if failsNow old x.reading x.bad then { old with failed := true } else { old with last := some x.reading }
  let s1 := s.setHeat { h with coolant := tblSet SensorRec.new h.coolant i r }
  if r.failed && !old.failed then s1.event evCoolant else s1

def State.sampleMeter (s : State) (m : Int) (bad : Bool) : State :=
  let h := s.heat
  if h.meterFailed then s
  else if bad ∨ m < 0 ∨ m > 6000 then
    ((s.setHeat { h with meterFailed := true }).setRegN 0x4020 5 1).event evCoolant
  else s.setHeat { h with flowHist := (m :: h.flowHist).take 2000 }

/-- P_cool in mW (R426). -/
def coolantPower (flow inlet : Int) : Int := 55 * flow * (6000 - inlet) / 10

/-- The cap in force, in mW, moves by at most 4 kW/s over the time since the last sample; the first sample
sets it (log 21). -/
def moveCap (first : Bool) (now target : Int) (passed : Time) : Int :=
  let d : Int := ((4 * passed / usUnits : Nat) : Int)
  if first then target else max (now - d) (min (now + d) target)

/-- A number in n bits of two's complement, as registers of type I16 hold it. -/
def i16Reg (v : Int) : Nat := unsignedOf 16 v

/-- Flow and inlet leave their bands (R425). -/
def State.bands (s : State) : State :=
  let f := s.flow
  let inF := decide (1800 ≤ f) && decide (f ≤ 2200)
  let inT := decide (1800 ≤ s.heat.inlet) && decide (s.heat.inlet ≤ 4000)
  let fire := (s.heat.flowInBand && !inF) || (s.heat.inletInBand && !inT)
  let s1 := s.setHeat { s.heat with flowInBand := inF, inletInBand := inT }
  if fire then s1.event evCoolant else s1

/-- Budgets become 0 below 8 L/min, and a RUNNING program is to stop at the next step release or 1 s
later; they return when the flow has been at 10 L/min for 2 s (R418, R427). -/
def State.lowFlow (s : State) : State :=
  let h := s.heat
  let f := s.flow
  let now := s.clk.now
  if f < 800 then
    if h.zero then s.setHeat { h with okSince := none }
    else
      let stop := if s.st = .running then some (now + 1000 * msUnits) else none
      let s1 := s.setHeat { h with zero := true, okSince := none, stopBy := stop }
      if s.anyBudget then s1.budgetsChange 5 true else s1
  else if !h.zero then s
  else if f < 1000 then s.setHeat { h with okSince := none }
  else
    match h.okSince with
    | none => s.setHeat { h with okSince := some now }
    | some t0 =>
      if now ≥ t0 + 2000 * msUnits then
        let s1 := s.setHeat { h with zero := false, okSince := none }
        if s1.anyBudget then s1.budgetsChange h.cause false else s1
      else s

def State.sampleFlow (s : State) (c : CoolantSample) : State :=
  let first := decide (s.heat.samples = 0)
  let s1 := ((((s.sampleMeter c.meter c.meterBad).sampleCoolant 0 c.inlet).sampleCoolant 1 c.inlet2).sampleCoolant 2
    c.outlet).sampleCoolant 3 c.outlet2
  let f := s1.flow
  let cap := moveCap first s1.heat.coolCap (coolantPower f s1.heat.inlet) (s.clk.now - s.heat.capAt)
  let s2 := s1.setHeat { s1.heat with coolCap := cap, capAt := s.clk.now }
  let s3 := (((s2.setRegN 0x4020 1 f.toNat).setRegN 0x4020 2 (i16Reg s2.heat.inlet)).setRegN 0x4020 3
    (i16Reg (s2.heat.outlet.getD s2.heat.inlet))).setRegN 0x4000 10 (cap / 1000).toNat
  (s3.bands).lowFlow

/-! ### Refresh, cycles and the hottest readings (R420, R433, Table 11.7) -/

def hundredMs : Nat := 100 * msUnits

/-- Doubled refresh of a memory region-layer: above 85 degrees, until it has been below 83 for 100 ms. -/
def State.refreshRate (s : State) (w l : Nat) : State :=
  let h := s.heat
  let r := h.layer w l
  let t := h.inUse w l
  let now := s.clk.now
  let r1 : LayerRec :=
    if t > 8500 then { r with twice := true, coolSince := none }
    else if !r.twice then r
    else if t < 8300 then
      match r.coolSince with
      | none => { r with coolSince := some now }
      | some t0 => if now ≥ t0 + hundredMs then { r with twice := false, coolSince := none } else r
    else { r with coolSince := none }
  s.setHeat (h.setLayer w l r1)

/-- Region-layers, by region * 7 + layer, that satisfy a condition. -/
def allLayers (p : Nat → Nat → Bool) : List (Nat × Nat) :=
  (List.range 360).flatMap fun w => ((List.range 7).filter (p w)).map fun l => (w, l)

/-- The highest temperature in use of a list of region-layers and where it is. -/
def HeatState.hottest (h : HeatState) (ls : List (Nat × Nat)) : Option (Int × (Nat × Nat)) :=
  ls.foldl (fun m p =>
    let t := h.inUse p.1 p.2
    match m with
    | some b => if t > b.1 then some (t, p) else m
    | none => some (t, p)) none

/-- Place of a region-layer as 4000h.02 gives it. -/
def placeCode (p : Nat × Nat) : Nat := p.1 / 30 + 16 * (p.1 % 30) + 512 * p.2

def State.showHottest (s : State) : State :=
  let put := fun (s : State) sub m =>
    match m with
    | some (t, p) => (s.setRegN 0x4000 sub (i16Reg t)).setRegN 0x4000 (sub + 1) (placeCode p)
    | none => s
  let h := s.heat
  let s1 := put s 1 (h.hottest (allLayers fun _ l => !memoryLayer l))
  let s2 := put s1 3 (h.hottest (allLayers fun _ l => memoryLayer l))
  s2.setRegN 0x4000 11 (h.layers.filter fun e => e.2.twice).length

/-- Thermal cycles of a stack (R433). -/
def State.cycle (s : State) (k : Nat) : State :=
  let h := s.heat
  let t := (h.hottest (((List.range 30).map (30 * k + ·)).flatMap fun w => [(w, 2), (w, 4), (w, 6)])).map Prod.fst
  match t with
  | none => s
  | some t =>
    if t < 4000 then
      if h.coolStacks.contains k then s else s.setHeat { h with coolStacks := h.coolStacks ++ [k] }
    else if t > 7000 ∧ h.coolStacks.contains k then
      (s.setHeat { h with coolStacks := h.coolStacks.filter (· ≠ k) }).setRegN 0x4040 (k + 1)
        (min (s.regN 0x4040 (k + 1) + 1) (2 ^ 32 - 1))
    else s

/-- LOW_FLOW_HALT: 1 s after the fall, when no step release has come (R427). -/
def State.lowFlowHalt (s : State) : State :=
  match s.heat.stopBy with
  | some d =>
    if s.st = .running ∧ s.clk.now ≥ d then s.lowFlowStop.haltSoon 0x0F else s
  | none => s

def execLowFlowHalt (t : Time) (s : State) : Host.Outcome State Fault Refusal := .next (s.advance t).lowFlowHalt

/-! ### The model (R411-R414, R419) -/

/-- Local coolant temperature of a stack (R405): the rise by the power of the stacks before it. -/
def State.coolantAt (s : State) (k : Nat) : Int :=
  let up : Nat := ((s.power.stackW.head?.getD []).take k).foldl (· + ·) 0
  if s.flow ≤ 0 then s.heat.inlet else s.heat.inlet + (up : Int) * 10000 / (66 * s.flow)

/-- The regions beside region w in its stack: their columns are neighbours (R412). -/
def nearRegions (w : Nat) : List Nat :=
  (((regionOfNum w).cols.flatMap fun c => [RPort.n, .e, .s, .w].filterMap fun d => neighbour c d).map fun p =>
    p.1.region.num).eraseDups.filter fun v => decide (v ≠ w) && decide (v / 30 = w / 30)

/-- What the node of a layer exchanges heat with (R412): the layers below and above it or a plate, which stands at the local
coolant temperature, and the same layer of the neighbouring regions, at their temperatures in use. The node's own sensors have
no part in it (R411, R413). -/
def State.nodeJoins (s : State) (w l : Nat) : List (Nat × Int) :=
  let r := regionOfNum w
  let cool := s.coolantAt (w / 30)
  let below := if l = 0 then (Config.conductCarrier r, cool) else (Config.conductUp r (l - 1), s.heat.inUse w (l - 1))
  let above := (Config.conductUp r l, if l = 6 then cool else s.heat.inUse w (l + 1))
  [below, above] ++ (nearRegions w).map fun v => (Config.conductSide r (regionOfNum v) l, s.heat.inUse v l)

/-- Energy of a region's layer in a ledger window, in 10 nJ (R156). -/
def ledgerRegion (es : List Nat) (w k l : Nat) : Nat :=
  ((regionOfNum w).cols.map fun c => es.getD ((k * 4320 + c.num) * 7 + l) 0).sum

/-- The ledger window of a schedule stroke, repeated as REPEAT says (R155, R157). -/
def Ledger.windowOf (lg : Ledger) (stroke : Nat) : Nat :=
  let k := stroke / 64
  if k < lg.windows then k
  else if lg.repeatAt < lg.windows then lg.repeatAt + (k - lg.repeatAt) % (lg.windows - lg.repeatAt) else k

/-- The ledger of the program that runs, as its demand stands after shift repairs. -/
def State.runningLedger (s : State) : Option (Ledger × List Nat) :=
  match s.image with
  | some im => if s.st = .running then some (im.ledger, im.ledger.demand s.umpire.moved) else none
  | none => none

/-- Proportions in which a region's power is divided among its layers: the ledger's for the current window, or the idle ones
(R413). -/
def State.proportions (s : State) (lg : Option (Ledger × List Nat)) (w : Nat) : List Nat :=
  match lg with
  | some p => (List.range 7).map (ledgerRegion p.2 w (p.1.windowOf s.umpire.stroke))
  | none => (List.range 7).map Config.idleShare

/-- The measured power of a region's layer, in mW (R413). -/
def State.layerPower (s : State) (lg : Option (Ledger × List Nat)) (w l : Nat) : Nat :=
  let ps := s.proportions lg w
  if ps.sum = 0 then 0 else Config.regionPower (regionOfNum w) s.heat.updates * ps.getD l 0 / ps.sum

/-- The length of one ledger window at a level, in units of wall time. -/
def windowUnits (lv : Level) : Nat := 65536 * acPeriod lv

/-- Power of a layer in the ledger windows of the next 5 ms at the current level, in mW: a window's energy scaled by F_L / 256
over its length (R414); at least the power measured. -/
def State.windowPowers (s : State) (lg : Option (Ledger × List Nat)) (w l : Nat) : List Nat :=
  let now := s.layerPower lg w l
  match lg with
  | none => [now]
  | some p =>
    let lv := s.clk.level
    (List.range (5 * msUnits / windowUnits lv + 1)).map fun i =>
      let e := ledgerRegion p.2 w (p.1.windowOf (s.umpire.stroke + 64 * i)) l
      max now (10 * e * energyFactor lv * usUnits / (256 * windowUnits lv))

/-- A node of the model (R412). -/
def State.heatNode (s : State) (lg : Option (Ledger × List Nat)) (w l : Nat) : HeatNode :=
  { capacity := Config.heatCapacity (regionOfNum w) l, power := s.layerPower lg w l, joins := s.nodeJoins w l }

/-- The model's estimate and prediction of every node, from the temperatures of one instant (R413, R414); how a node's heat is
integrated is Config's (log 9). -/
def State.modelNodes (s : State) : HeatState :=
  let lg := s.runningLedger
  (allLayers fun _ _ => true).foldl (fun h p =>
    let r := s.heat.layer p.1 p.2
    let n := s.heatNode lg p.1 p.2
    h.setLayer p.1 p.2 { r with
      est := Config.nodeEstimate n r.est
      pred := Config.nodePrediction n (s.heat.inUse p.1 p.2) (s.windowPowers lg p.1 p.2) }) s.heat

/-- The ramp limit (R432): set while a prediction, against the estimate of 95 ms ago, changes by more than 10 K/s over 100 ms. -/
def State.rampLimit (s : State) : State :=
  let h := s.heat
  let old := h.past.getD 949 []
  let fast := decide (h.past.length ≥ 950) && h.layers.any fun e => decide ((e.2.pred - tblGet 0 old e.1).natAbs > 100)
  s.setHeat { h with ramp := if fast then some (Config.rampLimit h.updates) else none
                     past := (h.layers.map (fun e => (e.1, e.2.est)) :: h.past).take 950 }

/-- R411: the estimate above the sensors by more than 6 K in every update for more than 20 ms. -/
def State.judgeLayer (s : State) (w l : Nat) : State × Bool :=
  let h := s.heat
  let r := h.layer w l
  let now := s.clk.now
  match h.bySensors w l with
  | none => (s, false)
  | some t =>
    if r.suspect then (s, false)
    else if r.est > t + 600 then
      match r.overSince with
      | none => (s.setHeat (h.setLayer w l { r with overSince := some now }), false)
      | some t0 =>
        if now > t0 + 20 * msUnits then
          (((s.setHeat (h.setLayer w l { r with suspect := true, overSince := none })).bumpReg 0x4000 6 1).event
            evThermal, true)
        else (s, false)
    else if r.overSince.isSome then (s.setHeat (h.setLayer w l { r with overSince := none }), false)
    else (s, false)

/-- Some node is predicted above its limit. -/
def HeatState.predictedHot (h : HeatState) : Bool :=
  h.layers.any fun e => decide (e.2.pred > layerLimit (e.1 % 7))

/-- The thermal limit (R419): set while a node is predicted hot, withdrawn after 50 calm updates. -/
def State.thermalLimit (s : State) : State :=
  let h := s.heat
  if h.predictedHot then
    let w := Config.thermalLimit h.updates
    let s1 := (s.setHeat { h with limit := some w, calm := 0 }).setRegN 0x4000 9 w
    if h.limit.isNone then s1.event evThermal else s1
  else
    match h.limit with
    | none => s
    | some _ =>
      if h.calm + 1 ≥ 50 then (s.setHeat { h with limit := none, calm := 0 }).setRegN 0x4000 9 0xFFFFFFFF
      else s.setHeat { h with calm := h.calm + 1 }

/-! ### Budgets (R415-R417) -/

/-- A region's network in the steady state that R415 asks for: no temperature of a neighbouring region is in it. -/
def State.steadyNodes (s : State) (w : Nat) : List HeatNode :=
  let r := regionOfNum w
  let cool := s.coolantAt (w / 30)
  (List.range 7).map fun l =>
    { capacity := Config.heatCapacity r l, power := Config.layerShare l
      joins := (if l = 0 then [(Config.conductCarrier r, cool)] else []) ++
        (if l = 6 then [(Config.conductUp r 6, cool)] else [(Config.conductUp r l, 0)]) ++
        (nearRegions w).map fun v => (Config.conductSide r (regionOfNum v) l, 0) }

/-- B_L of a region-layer: floor(k_L * share / 65,536 * t_L / 12 / 10 nJ), with k_L in 0.01 W. -/
def budgetOf (k : Int) (lv : Level) (l : Nat) : Nat :=
  if k ≤ 0 then 0 else k.toNat * Config.layerShare l * acPeriod lv / (284820 * 12)

def levels5 : List Level := [.a, .b, .c, .d, .e]

/-- One solve of every budget. -/
def State.solved (s : State) : Tbl Nat :=
  levels5.foldl (fun t lv =>
    (List.range 360).foldl (fun t w =>
      let tops := (List.range 7).map fun l => layerLimit l - (s.heat.guardBand w l : Int)
      let near := (nearRegions w).map fun v =>
        (List.range 7).map fun l => tblGet 0 s.heat.budgets (budgetKey lv (regionOfNum v) l)
      let k := Config.powerScale (regionOfNum w) lv (s.steadyNodes w) tops ((List.range 7).map Config.layerShare) near
      (List.range 7).foldl (fun t l => tblSet 0 t (budgetKey lv (regionOfNum w) l) (budgetOf k lv l)) t) t) []

/-- A lower result takes effect at once, a higher one as the least of the last 10 s; a history that
does not yet reach back 10 s lets none rise (R417). The first solve stands as it is. -/
def newBudgets (old : Tbl Nat) (first full : Bool) (hist : List (Tbl Nat)) (now : Tbl Nat) : Tbl Nat :=
  if first then now
  else
    (List.range 12600).foldl (fun t k =>
      let n := tblGet 0 now k
      let o := tblGet 0 old k
      let least := hist.foldl (fun m h => min m (tblGet 0 h k)) n
      tblSet 0 t k (if n ≤ o then n else if full then max o least else o)) []

/-- A budget has fallen. -/
def fell (old new : Tbl Nat) : Bool := old.any fun e => decide (tblGet 0 new e.1 < e.2)

/-- Solve again, with the cause to show (Table 11.3). -/
def State.solve (s : State) (cause : Nat) : State :=
  let h := s.heat
  let now := s.clk.now
  let r := s.solved
  let past := h.solves.filter fun p => p.1 + tenSeconds ≥ now
  let full := h.solves.any fun p => decide (p.1 + tenSeconds ≤ now)
  let b := newBudgets h.budgets h.solves.isEmpty full (past.map Prod.snd) r
  let s1 := s.setHeat { h with budgets := b, solves := (now, r) :: past, solvedInlet := h.inlet }
  if b = h.budgets ∨ s.budgetsZero then s1 else s1.budgetsChange cause (fell h.budgets b)

/-! ### A sample (every 50 us) -/

/-- A comparator that has tripped (R421). -/
def HeatState.tripped (h : HeatState) : Bool := h.sensors.any fun e => decide (e.2.above ≥ 3)

/-- A memory diode above 95 degrees during the memory hold (R429). -/
def State.holdTooHot (s : State) : Bool :=
  decide (s.st = .safeStop) && (s.stop.any fun h => !h.recovering) && s.heat.sensors.any fun e =>
    memoryLayer (sensorLayer (e.1 % 13)) && !e.2.failed && (match e.2.last with | some t => decide (t > 9500) | none => false)

/-- A thermal trip: THERM_TRIP, every unit halts, and FAULT with cause 0x16 from any state but OFF and FAULT. -/
def State.thermalTrip (s : State) : State :=
  if s.heat.tripped ∧ s.st ≠ .off ∧ s.st ≠ .fault then
    ((s.setPins { s.pins with thermTrip := true }).enterFault 0x16).haltUnits
  else s

/-- Failures that R409 and R410 speak of: of a diode, and of a monitor when both its diodes have failed. -/
def HeatState.failEvents (h : HeatState) : Nat :=
  (h.sensors.filter fun e =>
    let k := e.1 % 13
    e.2.failed && (!(decide (k = 4) || decide (k = 8) || decide (k = 12)) ||
      ((h.sensor (e.1 - 2)).failed && (h.sensor (e.1 - 1)).failed))).length

/-- The budgets are solved at once after an event of R409 or R410, and when the inlet temperature has moved by more than 2 K
since the latest solve (R417). -/
def State.solveNow (s : State) (before : Nat) : State :=
  if s.heat.solves.isEmpty then s
  else if s.heat.failEvents ≠ before then s.solve 2
  else if (s.heat.inlet - s.heat.solvedInlet).natAbs > 200 then s.solve 4
  else s

/-- SENSOR_SAMPLE. -/
def State.sample (s : State) (xs : List Sample) (c : CoolantSample) : State :=
  if s.st = .off then s
  else
    let s1 := xs.foldl (fun s x => s.sampleSensor x) s
    let ws := sampledRegions xs
    let s2 := ws.foldl (fun (s : State) w => [2, 4, 6].foldl (fun s l => s.markDisagree w l) s) s1
    let s3 := s2.sampleFlow c
    let s4 := s3.setHeat { s3.heat with samples := s3.heat.samples + 1 }
    let s5 := ws.foldl (fun (s : State) w => [1, 3, 5].foldl (fun s l => s.refreshRate w l) s) s4
    let s6 := ((ws.map (· / 30)).eraseDups.foldl (fun (s : State) k => s.cycle k) s5).showHottest
    let s7 := s6.solveNow s.heat.failEvents
    if s7.holdTooHot then s7.powerOff (some 0x14) else s7.thermalTrip

def execSensorSample (t : Time) (samples : List Sample) (coolant : CoolantSample) (s : State) :
    Host.Outcome State Fault Refusal :=
  .next ((s.advance t).sample samples coolant)

def execBudgetSolve (t : Time) (s : State) : Host.Outcome State Fault Refusal :=
  let s1 := s.advance t
  if s1.st = .off then .next s1
  else .next (s1.solve 1)

/-- THERMAL_MODEL_UPDATE (every 100 us): estimates, predictions, suspects, the thermal limit. A layer
newly suspect has the budgets solved again at once. -/
def State.modelUpdate (s : State) : State :=
  if s.st = .off then s
  else
    let s1 := (s.setHeat s.modelNodes).rampLimit
    let s2 := s1.setHeat { s1.heat with updates := s1.heat.updates + 1 }
    let r := (allLayers fun _ _ => true).foldl (fun (a : State × Bool) p =>
      let q := a.1.judgeLayer p.1 p.2
      (q.1, a.2 || q.2)) (s2, false)
    let s3 := (allLayers fun _ l => memoryLayer l).foldl (fun (s : State) p => s.refreshRate p.1 p.2) r.1.thermalLimit
    if r.2 then s3.solve 3 else s3

def execThermalModelUpdate (t : Time) (s : State) : Host.Outcome State Fault Refusal := .next (s.advance t).modelUpdate

end Sys2Proof.Machine
end

