-- ==== Sys2Proof/Machine/Power.lean ====
section
/-! DEFINITION. The power controller, regulator phases and bricks (12), and in-service loss of links and
publication of the floor plan (04 R109, 13 R487, R489). -/

namespace Sys2Proof.Machine

def State.setPower (s : State) (p : PowerState) : State := { s with power := p }

/-! ### Measurement (R446-R448) -/

def meanOf (l : List Nat) : Nat := if l = [] then 0 else l.sum / l.length

/-- P10: the input power over the last 10 ms. -/
def PowerState.p10 (p : PowerState) : Nat := meanOf (p.samples.take 10)

/-- P10 of 100 ms earlier; none while the samples do not reach back so far. -/
def PowerState.p10Before (p : PowerState) : Option Nat :=
  if p.samples.length < 110 then none else some (meanOf ((p.samples.drop 100).take 10))

def State.pwin (s : State) : Nat := meanOf (s.power.samples.take (1000 * s.regN 0x3030 2))

/-- L: the lower of the sustained cap and the coolant cap, which counts from the first coolant sample on. -/
def State.capL (s : State) : Nat :=
  let c := s.regN 0x3030 1
  if s.heat.samples = 0 then c else min c (s.heat.coolCap / 1000).toNat

def bricksLeft (s : State) (k : Nat) : Nat := 3 - tblGet 0 s.supply.bricks k

/-- The signal PWR_GOOD (R530): every stack's rail is good, from the end of ST0 on (Table 16.4; log 55). -/
def State.pwrGood (s : State) : Bool :=
  decide (s.st ≠ .off) && (decide (s.st ≠ .bringup) || decide (0 < s.boot.ended)) &&
    (List.range 12).all fun k => decide (0 < bricksLeft s k)

/-- Power of a stack over the last 10 ms. -/
def PowerState.stackP10 (p : PowerState) (k : Nat) : Nat := meanOf (p.stackW.map fun l => l.getD k 0)

/-- Stacks under the stack limit (R436). -/
def State.limitedStacks (s : State) : List Nat := (List.range 12).filter fun k => bricksLeft s k = 1

/-! ### Shedding (R450) -/

def State.shortLimit (s : State) : Bool := s.heat.limit.isSome || decide (s.limitedStacks ≠ [])

def State.shed (s : State) : State :=
  let p := s.power
  let w := s.pwin
  let l := s.capL
  if !p.shedding then
    if 100 * w ≥ 98 * l || s.shortLimit then
      (s.setPower { p with shedding := true, lowSince := none }).event evPower
    else s
  else if 100 * w ≤ 94 * l && !s.shortLimit then
    match p.lowSince with
    | none => s.setPower { p with lowSince := some s.clk.now }
    | some t0 =>
      if s.clk.now ≥ t0 + 1000 * msUnits then s.setPower { p with shedding := false, lowSince := none } else s
  else s.setPower { p with lowSince := none }

/-! ### The hold fraction (R452) -/

/-- A limit: the power held on it, the limit, whether it is reached, its code in 3000h.09. -/
structure LimitNow where
  power : Nat
  limit : Nat
  reached : Bool
  source : Nat
deriving DecidableEq, Repr

def State.limitsNow (s : State) : List LimitNow :=
  let p := s.power
  let w := s.pwin
  let l := s.capL
  let on := fun power limit source => ({ power := power, limit := limit, reached := decide (power ≥ limit), source := source } : LimitNow)
  [{ power := if 100 * w ≥ 99 * l then p.p10 else w, limit := l, reached := decide (w ≥ l), source := 1 }] ++
    (match s.heat.limit with | some t => [on p.p10 t 2] | none => []) ++
    (s.limitedStacks.map fun k => on (p.stackP10 k) 1100 3) ++ [on p.p10 25000 4] ++
    (match p.p10Before with | some b => [on p.p10 (b + min 400 (s.heat.ramp.getD 400)) 5] | none => [])

/-- k rises while a reached limit is exceeded, falls while every power lies more than 2 % below. -/
def State.holdStep (s : State) : State :=
  let ls := s.limitsNow
  let k := s.power.k
  let k1 :=
    if ls.any fun x => x.reached && decide (x.power > x.limit) then min 15 (k + 1)
    else if ls.all fun x => decide (100 * x.power < 98 * x.limit) then k - 1 else k
  let s1 := s.setPower { s.power with k := k1 }
  let s2 := if k = 0 ∧ k1 > 0 then s1.event evPower else s1
  let src := match ls.find? (·.reached) with
    | some x => x.source
    | none => s.regN 0x3000 9
  (s2.setRegN 0x3000 8 k1).setRegN 0x3000 9 (if k1 = 0 then 0 else src)

/-! ### Ballast (R454, R455) -/

def State.ballast (s : State) : Nat :=
  if s.st = .safeStop ∨ s.st = .fault ∨ s.st = .off then 0
  else
    let p := s.power
    let own := p.p10 - s.regN 0x3000 12
    let floor := if s.st = .loaded ∨ s.st = .running ∨ s.st = .held then s.regN 0x3030 3 else 0
    let keep := max floor (match p.p10Before with | some b => b - 400 | none => 0)
    let top := (s.limitsNow.filter fun x => x.source ≠ 3).foldl (fun m x => min m x.limit) 25000
    min keep top - own

/-! ### The drop and raise rules (Table 12.3, R456) -/

/-- Draw relative to level B, in thousandths. -/
def relDraw (lv : Nat) : Nat :=
  match lv with | 0 => 1280 | 1 => 1000 | 2 => 668 | 3 => 414 | _ => 207

/-- The hold fraction over 1 s exceeds the level's threshold. -/
def State.dropRule (s : State) : Bool :=
  let held := ((s.power.kHist.take 1000).map (· % 16)).sum
  match s.clk.level with
  | .a => decide (held > 0)
  | .b => decide (4 * held > 16000)
  | .c => decide (1000 * held > 333 * 16000)
  | .d => decide (2 * held > 16000)
  | .e => false

/-- The predicted draw one level faster is at most its bound; only after 10 s without hold or shedding. -/
def State.raiseRule (s : State) : Bool :=
  let cur := levelCode s.clk.level
  let quiet := decide (s.power.kHist.length ≥ 10000) && s.power.kHist.all (· = 0)
  let lower := cur - 1
  let draw := s.pwin * relDraw lower
  let bound := match lower with | 0 => 950 | 1 => 1143 | 2 => 1200 | _ => 1333
  decide (cur > 0) && quiet && decide (1000 * draw ≤ bound * s.capL * relDraw cur)

def State.rateRules (s : State) : State :=
  if s.st ≠ .running then s
  else
    let p := s.power
    let s1 := s.setPower { p with kHist := ((p.k + if p.shedding then 16 else 0) :: p.kHist).take 10000 }
    let raise := if s1.raiseRule then some (p.raiseSince.getD s1.clk.now) else none
    s1.setPower { s1.power with dropSeen := p.dropSeen || s1.dropRule, raiseSince := raise }

/-! ### The tick -/

/-- Readings of 3000h.01 to .03 and 3010h, and the energy count. -/
def State.measure (s : State) (m : PowerSample) : State :=
  let s1 := ((s.setRegN 0x3000 1 m.mV).setRegN 0x3000 2 m.mA).setRegN 0x3000 3 m.watts
  let s2 := ((m.domains.take 48).zipIdx.foldl (fun s e => s.setRegN 0x3010 (e.2 + 1) e.1) s1).bumpReg 0x3020 0 m.mJ
  s2.setPower { s2.power with samples := (m.watts :: s2.power.samples).take 30000
                              stackW := (m.stackWatts :: s2.power.stackW).take 10 }

/-- POWER_CONTROL_TICK (every 1 ms). While no program runs trims may move, once ST7 has set them (R445). -/
def State.powerTick (s : State) (m : PowerSample) : State :=
  if s.st = .off then s
  else
    let s1 := s.measure m
    let s2 := ((s1.setRegN 0x3000 4 s1.power.p10).setRegN 0x3000 5 s1.pwin).setRegN 0x3000 6 s1.capL
    let s3 := (s2.shed).holdStep
    let b := s3.ballast
    let bits := (if s3.power.shedding then 1 else 0) + (if s3.power.k > 0 then 2 else 0) + (if b > 0 then 4 else 0)
    let s4 := ((s3.setRegN 0x3000 12 b).setRegN 0x3000 7 bits).rateRules
    if s4.st = .running ∨ s4.supply.trim.isEmpty then s4 else s4.moveTrims

def execPowerControlTick (t : Time) (m : PowerSample) (s : State) : Host.Outcome State Fault Refusal :=
  .next ((s.advance t).powerTick m)

/-! ### Regions (R439-R444) -/

/-- The power switches of a region's three compute layers are open (R438): it is retired or dark, or a thermal trip has
opened them (R421). No step reads it; it is a view of the state. -/
def State.switchesOpen (s : State) (w : RegionId) : Bool :=
  decide (tblGet 0 s.supply.region w.num ≥ 2) || (decide (s.st = .fault) && decide (s.regN 0x1001 4 = 0x16))

def execRegionShort (t : Time) (w : RegionId) (_d : Domain) (s : State) : Host.Outcome State Fault Refusal :=
  .next ((s.advance t).tripRegion w)

/-- Phases lost in a domain of a region. -/
def domainCode : Domain → Nat
  | .vlg => 0 | .vmi => 1 | .vma => 2 | .vlk => 3

/-- A phase is isolated (R439); a third loss has the region retired, at once when no program runs, else
within 1 s (R441), and a retired region with fewer than three phases in a domain trips (R442). -/
def State.losePhase (s : State) (w : RegionId) (d : Nat) : State :=
  if s.st = .off ∨ s.regionLost w ∨ s.phasesLost w d ≥ 8 then s
  else
    let n := s.phasesLost w d + 1
    let sup := s.supply
    let s1 := ({ s with supply := { sup with phases := tblSet 0 sup.phases (4 * w.num + d) n } } : State)
    let s2 := (s1.bumpReg 0x3050 3 1).event evPower
    if tblGet 0 sup.region w.num = 2 then (if n > 5 then s2.tripRegion w else s2)
    else if n ≥ 3 ∧ s.st ≠ .running then s2.retire w
    else if n ≥ 3 ∧ (tblFind sup.retireBy w.num).isNone then
      { s2 with supply := { s2.supply with retireBy := tblPut s2.supply.retireBy w.num (s.clk.now + 1000 * msUnits) } }
    else s2

def execPhaseFailure (t : Time) (w : RegionId) (d : Domain) (s : State) : Host.Outcome State Fault Refusal :=
  .next ((s.advance t).losePhase w (domainCode d))

/-- REGION_RETIRE: at once when no program runs, else 1 s after the third loss; a running module halts
(R441). -/
def State.regionRetire (s : State) (w : RegionId) : State :=
  match tblFind s.supply.retireBy w.num with
  | some d =>
    if s.st ≠ .running then s.retire w
    else if s.clk.now ≥ d then (s.retire w).haltSoon 0x0C else s
  | none => s

def execRegionRetire (t : Time) (w : RegionId) (s : State) : Host.Outcome State Fault Refusal :=
  .next ((s.advance t).regionRetire w)

/-- A brick is lost (R436); the last one of a stack trips every region of it. -/
def State.loseBrick (s : State) (k : Nat) : State :=
  if s.st = .off ∨ bricksLeft s k = 0 then s
  else
    let sup := s.supply
    let s1 := ({ s with supply := { sup with bricks := tblMod 0 sup.bricks k (· + 1) } } : State).event evPower
    if bricksLeft s1 k = 0 then
      (List.range 30).foldl (fun (s : State) r => s.tripRegion (regionOfNum (30 * k + r))) s1
    else s1

def execBrickLoss (t : Time) (k : Fin 12) (s : State) : Host.Outcome State Fault Refusal :=
  .next ((s.advance t).loseBrick k.val)

/-! ### Links, publication, configuration -/

/-- FLOOR_PLAN_PUBLISH (R487); during a bring-up the stages publish (R478, R479, Table 13.14). -/
def execFloorPlanPublish (t : Time) (s : State) : Host.Outcome State Fault Refusal :=
  let s1 := s.advance t
  .next (if s1.st = .off ∨ s1.st = .bringup then s1 else s1.publish)

/-- The checking of a link fails in service (R109): its 16 spare wires take the place of lost ones, or the
direction is listed dead. -/
def State.linkFails (s : State) (r : ColId) (dir : RPort) (lost : Nat) : State :=
  if s.st = .off ∨ (neighbour r dir).isNone ∨ lost ≤ 16 then s else s.setWork (s.work.deadLink r dir)

def execLinkCheckingFail (t : Time) (r : ColId) (dir : RPort) (lostWires : Nat) (s : State) :
    Host.Outcome State Fault Refusal :=
  .next ((s.advance t).linkFails r dir lostWires)

/-- The content to keep: every unit byte that is not usable, and one more in-service finding against each
unit whose IN_SERVICE bit is set (R489). -/
def State.configContent (s : State) (gen : BitVec 64) : ConfigCopy :=
  let dead := s.work.units.filter fun e => decide (e.2 ≠ 0)
  let found := dead.foldl (fun t e =>
    if e.2.getLsbD 6 ∧ (tblFind s.cfg.ruling.dead e.1) ≠ some e.2 then tblMod 0 t e.1 (· + 1) else t) s.cfg.ruling.found
  { gen := gen, validity := 0, dead := dead, found := found }

/-- The copies after a write of which n were written and verified: an interruption leaves the copy then
being written unreadable and the later ones as they were. -/
def writtenCopies (copies : List ConfigCopy) (c : ConfigCopy) (n : Nat) : List ConfigCopy :=
  copies.zipIdx.map fun p => if p.2 < n then c else if p.2 = n then { p.1 with validity := 2 } else p.1

/-- CONFIG_WRITE: the highest generation plus one, copies A, B and C in turn (R489). -/
def State.configWrite (s : State) (n : Nat) : State :=
  if s.st = .off ∨ (s.st = .bringup ∧ s.boot.ended < 4) then s
  else
    let top := s.cfg.copies.foldl (fun m c => max m c.gen.toNat) 0
    let c := s.configContent (BitVec.ofNat 64 (top + 1))
    { s with cfg := { s.cfg with copies := writtenCopies s.cfg.copies c n, ruling := c } }

def execConfigWrite (t : Time) (verified : Nat) (s : State) : Host.Outcome State Fault Refusal :=
  .next ((s.advance t).configWrite verified)

end Sys2Proof.Machine
end

