-- ==== Sys2Proof/Machine/Bringup.lean ====
section
/-! DEFINITION. The stages of a bring-up (13 R463-R482, R490). -/

namespace Sys2Proof.Machine

/-! ### The configuration copies (R471-R473) -/

/-- What ST3 makes of the copies (R472): RESOLUTION of 2003h.04 and the content that rules. -/
def resolveCopies (cs : List ConfigCopy) : Nat × Option ConfigCopy :=
  let ok := cs.filter fun c => c.validity = 0
  let agree := ok.zipIdx.find? fun p => (ok.drop (p.2 + 1)).any fun d => d.gen = p.1.gen ∧ d.dead = p.1.dead ∧ d.found = p.1.found
  let clash := ok.zipIdx.any fun p => (ok.drop (p.2 + 1)).any fun d => d.gen = p.1.gen
  match agree with
  | some p => (0, some p.1)
  | none =>
    if clash then (3, none)
    else
      match ok.foldl (fun (m : Option ConfigCopy) c =>
          match m with | some b => if c.gen.toNat > b.gen.toNat then some c else m | none => some c) none with
      | some c => (1, some c)
      | none => (4, none)

/-- What a copy holds, as one byte string: its generation and defect map (log 8). -/
def ConfigCopy.bytes (c : ConfigCopy) : List Byte :=
  leBytes 8 c.gen.toNat ++ (c.dead.flatMap fun e => leBytes 4 e.1 ++ [e.2]) ++
    (c.found.flatMap fun e => leBytes 4 e.1 ++ leBytes 1 e.2)

/-- Copy entry (Table 13.4): role 1 ruling, 2 agrees with it. -/
def copyEntry (c : ConfigCopy) (role : Nat) : List Byte :=
  leBytes 8 (if c.validity = 2 then 0 else c.gen.toNat) ++ leBytes 1 c.validity ++ leBytes 1 role ++
    leBytes 48 (Config.copyDigest c.bytes).toNat ++ leBytes 6 0

/-- Enter 2003h. -/
def State.showCopies (s : State) (res : Nat) (rule : Option ConfigCopy) : State :=
  let role := fun (c : ConfigCopy) (i : Nat) =>
    match rule with
    | some r =>
      if c.validity = 0 ∧ c = r then
        (if (s.cfg.copies.take i).any fun d => d.validity = 0 ∧ d = r then 2 else 1) else 0
    | none => 0
  let s1 := s.cfg.copies.zipIdx.foldl (fun (s : State) p =>
    s.setDom 0x2003 (p.2 + 1) (copyEntry p.1 (role p.1 p.2))) s
  (s1.setRegN 0x2003 4 res).setReg 0x2003 5 (match rule with | some r => r.gen | none => 0)

def State.rule (s : State) (c : ConfigCopy) : State := { s with cfg := { s.cfg with ruling := c } }

/-! ### Reports (Table 13.6) -/

def reportEntry (n outcome detail ms a b c d : Nat) : List Byte :=
  leBytes 1 n ++ leBytes 1 outcome ++ leBytes 2 detail ++ leBytes 4 ms ++ leBytes 4 a ++ leBytes 4 b ++
    leBytes 4 c ++ leBytes 4 d ++ leBytes 8 0

def State.stageMs (s : State) : Nat := (s.clk.now - s.boot.since) / msUnits

/-- The entry of a stage, then 2002h.02 (R481). -/
def State.report (s : State) (n outcome : Nat) (f : StageFindings) : State :=
  ((s.setDom 0x2002 (n + 3) (reportEntry n outcome f.detail.toNat s.stageMs f.a.toNat f.b.toNat f.c.toNat f.d.toNat)).bumpReg
    0x2002 2 1).setRegN 0x2002 1 n

/-- A stage starts: its entry reads running with the counts as they stood. -/
def State.startStage (s : State) (n : Nat) : State :=
  let old := s.dom 0x2002 (n + 3)
  let entry := leBytes 1 n ++ leBytes 1 1 ++ (if old = [] then leBytes 30 0 else old.drop 2)
  let s1 := (((s.setRegN 0x2001 1 n).setRegN 0x2001 3 0xFF).setRegN 0x2002 1 n).setDom 0x2002 (n + 3) entry
  { s1 with boot := { s1.boot with stage := n, running := true, since := s1.clk.now } }

/-- The next stage follows at once, or waits for a request in host-driven mode from ST3 on (R464). -/
def State.nextStage (s : State) (n : Nat) : State :=
  if s.boot.hostMode ∧ n ≥ 3 then
    { s.setRegN 0x2001 3 n with boot := { s.boot with running := false } }
  else s.startStage n

/-! ### The work of single stages -/

/-- A new nonce from the entropy source (R498). -/
def State.drawNonce (s : State) : State :=
  let n := Config.entropy s.sec.drawn
  { s.setDom 0x8000 3 (leBytes 48 n.toNat) with sec := { s.sec with drawn := s.sec.drawn + 1 } }

/-- ST2: D01 starts at level B, the nonce is drawn, the straps are read, the host port trains. -/
def State.clocksLock (s : State) : State :=
  let k := { s.clk with d01 := true, level := Level.b, baseWall := s.clk.now, baseAc := 0 }
  let s1 := ({ s with clk := k, pins := { s.pins with holdOver := false } } : State).drawNonce
  (s1.setReg 0x1020 1 (Config.nodeStraps.setWidth 64)).setLink 30 1

/-- Units that stay dead without a new test (R490): manufacture, ST8 self-test, lost token, or two
in-service findings. -/
def staysDead (c : ConfigCopy) (e : Nat × Byte) : Bool :=
  let cause := e.2.toNat / 4 % 16
  decide (cause = 1) || decide (cause = 7) || decide (cause = 8) || decide (tblGet 0 c.found e.1 ≥ 2)

def State.mergeMap (s : State) : State :=
  s.setWork ((s.cfg.ruling.dead.filter (staysDead s.cfg.ruling)).foldl (fun p e =>
    p.finding { offset := e.1, state := BitVec.ofNat 2 e.2.toNat, cause := BitVec.ofNat 4 (e.2.toNat / 4) } false) s.work)

/-- Publish at ST7 (R478): at the kept generation when the plan is the one last published. -/
def State.publishFirst (s : State) : State :=
  let same := s.cfg.keptUnits = some s.work.units
  let g := if same then s.cfg.keptGen else s.cfg.keptGen + 1
  let p : Plan := { gen := g, units := s.work.units, shifts := [] }
  let s1 := ({ s with plan := p, work := p, cfg := s.cfg.keep p } : State).setReg
    0x2011 0 g
  if same then s1 else s1.event evFloorPlan

/-- The trim of a region (R445): steps of 5 mV within 25 mV, kept as mV + 128. -/
def trimMv (w : RegionId) : Int := 5 * max (-5) (min 5 (Config.trimSteps w))

def State.setTrims (s : State) : State :=
  { s with supply := { s.supply with
      trim := (List.range 360).map fun w => (w, (trimMv (regionOfNum w) + 128).toNat) } }

/-- ST9 ends: READY, the security version is fused, the heat of the configuration write is its own
command (Table 14.7 step 6). -/
def State.enterReady (s : State) : State :=
  let sec := s.sec.slotImage s.sec.booted |>.sec
  let s1 := if sec.toNat > s.sec.secVersion.toNat then { s with sec := { s.sec with secVersion := sec } } else s
  (s1.transition .ready (some 0x01)).setRegN 0x2002 1 0x0A

/-! ### The end of a stage -/

/-- Phases that failed their switch tests (R439, R468). -/
def State.phaseTests (s : State) (ps : List (Nat × Nat)) : State :=
  ps.foldl (fun (s : State) p =>
    let n := min p.2 (8 - tblGet 0 s.supply.phases p.1)
    let s1 : State := { s with supply := { s.supply with phases := tblMod 0 s.supply.phases p.1 (· + n) } }
    (List.range n).foldl (fun (s : State) _ => (s.bumpReg 0x3050 3 1).event evPower) s1) s

/-- Regions left with fewer than 6 working phases in a domain are retired (R468). -/
def State.shortOfPhases (s : State) : List Finding :=
  (((s.supply.phases.filter fun e => decide (e.2 > 2)).map fun e => e.1 / 4).eraseDups.filter fun w =>
    decide (tblGet 0 s.supply.region w = 0)).map fun w => { offset := 64 + w, state := 1, cause := 2 }

/-- Spare bonds in use on the channels (R181), and the most on any (Table 5.6). -/
def State.spareBonds (s : State) (bs : List (CoreId × Nat)) : State :=
  bs.foldl (fun (s : State) b =>
    (s.setVault b.1 { s.vault b.1 with spares := min b.2 32 }).setRegN 0x5222 1 (max (s.regN 0x5222 1) (min b.2 32))) s

/-- Channels that need more than 32 spares are dead, and so are their cores (R181). -/
def deadChannels (bs : List (CoreId × Nat)) : List Finding :=
  (bs.filter fun b => decide (b.2 > 32)).map fun b => { offset := offCore b.1, state := 1, cause := 4 }

/-- What the tests of a stage found enters the plan. -/
def State.stageFindings (s : State) (f : StageFindings) : State :=
  let s1 := ((s.findings f.units false).phaseTests f.phases).spareBonds f.spares
  s1.findings (s1.shortOfPhases ++ deadChannels f.spares) false

/-- A stage passed without findings. -/
def noFindings (f : StageFindings) : Bool := f.units.isEmpty && f.phases.isEmpty && f.spares.isEmpty

/-- ST3: the copies rule, are held for a choice, or are none (R472). -/
def State.endConfig (s : State) (f : StageFindings) : State :=
  let r := resolveCopies s.cfg.copies
  let s1 := s.showCopies r.1 r.2
  let n := (s.cfg.copies.filter fun c => c.validity = 0).length
  let f1 : StageFindings := { f with a := BitVec.ofNat 32 n, b := BitVec.ofNat 32 r.1,
                                     c := match r.2 with | some c => c.gen.setWidth 32 | none => 0 }
  match r.1, r.2 with
  | 3, _ =>
    let s2 := ((s1.report 3 4 { f1 with detail := 0x0301 }).setRegN 0x2001 3 3)
    { s2 with boot := { s2.boot with running := false, hostMode := true, held := true } }
  | _, none => (s1.report 3 5 { f1 with detail := 0x0302 }).enterFault 0x02
  | _, some c =>
    let s2 := (s1.rule c).report 3 2 f1
    ({ s2 with boot := { s2.boot with ended := 4 } } : State).nextStage 4

/-- ST9 trains every Amrax-L and Epmond port that is not dead (R480). -/
def State.trainPorts (s : State) : State :=
  (List.range 30).foldl (fun (s : State) i => if s.plan.usable (offPort i) then s.setLink i 1 else s.setLink i 4) s

/-- ST9 goes on while a port trains and its 25 s have not passed (R480). -/
def State.portsWait (s : State) : Bool :=
  decide (s.boot.stage = 9) && decide (s.clk.now < s.boot.since + 25000 * msUnits) &&
    (List.range 30).any fun i => decide (s.regN (0x7210 + i) 1 = 1)

/-- Ports that have found no partner at the end of ST9 are down (R480). -/
def State.partnerless (s : State) : State :=
  (List.range 30).foldl (fun (s : State) i => if s.regN (0x7210 + i) 1 = 1 then s.setLink i 0 else s) s

/-- What stage n does at its end, beyond its findings. -/
def State.stageWork (s : State) (n : Nat) : State :=
  match n with
  | 2 => s.clocksLock
  | 7 => (((s.setTrims).mergeMap).publishFirst).solve 1
  | 8 => s.publish
  | 9 => s.partnerless.publish
  | _ => s

def count32 (n : Nat) : BitVec 32 := BitVec.ofNat 32 n

/-- Regions in a state (3050h). -/
def State.regionsIn (s : State) (st : Nat) : BitVec 32 :=
  count32 ((List.range 360).filter fun w => tblGet 0 s.supply.region w = st).length

/-- Ports of a range whose link is up. -/
def State.portsUp (s : State) (lo n : Nat) : BitVec 32 :=
  count32 ((List.range n).filter fun i => s.regN (0x7210 + lo + i) 1 = 2).length

/-- Units of a range of the plan that are usable. -/
def Plan.usableOf (p : Plan) (lo n : Nat) : BitVec 32 :=
  count32 (n - (p.units.filter fun e => decide (lo ≤ e.1) && decide (e.1 < lo + n) && decide (e.2.toNat % 4 ≠ 0)).length)

/-- Counts that the module itself knows (Table 13.7); the others are what the stage's tests counted. -/
def State.stageCounts (s : State) (n : Nat) (f : StageFindings) (gen : BitVec 64) : StageFindings :=
  match n with
  | 1 => { f with a := s.regionsIn 0, b := s.regionsIn 2, c := s.regionsIn 3 }
  | 7 => { f with a := s.plan.gen.setWidth 32, b := s.plan.usableOf 9472 12960, c := s.plan.usableOf 22432 12960,
                  d := if s.plan.gen = gen then 0 else 1 }
  | 8 => { f with a := s.plan.usableOf 9472 12960 }
  | 9 => { f with a := s.portsUp 0 24, b := s.portsUp 24 6, c := count32 30 - s.plan.usableOf 35392 30 }
  | _ => f

/-- BRINGUP_STAGE_END: the findings enter the plan, the stage reports, and the next stage or READY
follows. Only ST2 and ST3 have fatal findings (R482); a lead cox that does not boot or fails its self-test at ST0 ends the
bring-up by its own row (R12, R469, Table 14.7). -/
def State.stageEnd (s : State) (f : StageFindings) : State :=
  if s.st ≠ .bringup ∨ !s.boot.running ∨ s.portsWait then s
  else
    let n := s.boot.stage
    if n = 0 ∧ (f.fatal ∨ !s.sec.slotFound) then s.leadCoxFails
    else if n = 3 then s.endConfig f
    else if n = 2 ∧ (f.fatal ∨ !s.pins.refclk) then
      let d : BitVec 16 := if s.pins.refclk then 0x0201 else 0x0202
      (s.report 2 5 { f with detail := d }).enterFault 0x02
    else
      let s1 := (s.stageFindings f).stageWork n
      let s2 := s1.report n (if noFindings f then 2 else 3) (s1.stageCounts n f s.plan.gen)
      let s3 := { s2 with boot := { s2.boot with ended := n + 1, running := false } }
      if n = 9 then s3.enterReady
      else
        let s4 := s3.nextStage (n + 1)
        if n = 8 ∧ s4.boot.running then s4.trainPorts else s4
def execBringupStageEnd (t : Time) (f : StageFindings) (s : State) : Host.Outcome State Fault Refusal :=
  .next ((s.advance t).stageEnd f)

/-! ### Requests of the host (R465, R473) -/

/-- An accepted write of 2001h.01. -/
def State.runStage (s : State) (n : Nat) : State :=
  let s1 := s.startStage n
  if n = 9 then s1.trainPorts else s1

/-- An accepted write of 2001h.02: the copy rules and ST3 ends with outcome 3. -/
def State.chooseCopy (s : State) (k : Nat) : State :=
  match s.cfg.copies[k]? with
  | none => s
  | some c =>
    let s1 := ((s.rule c).setRegN 0x2001 2 k).showCopies 2 (some c)
    let f : StageFindings :=
      { fatal := false, detail := 0,
        a := BitVec.ofNat 32 (s.cfg.copies.filter fun c => c.validity = 0).length, b := 2,
        c := c.gen.setWidth 32, d := 0, units := [] }
    let s2 := s1.report 3 3 f
    ({ s2 with boot := { s2.boot with ended := 4, held := false, chosen := true } } : State).nextStage 4

end Sys2Proof.Machine
end

