-- ==== Sys2Proof/Machine/Staging.lean ====
section
/-! DEFINITION. Staging order (04 R148, 09 R365) and the floor plan as bytes (13 Tables 13.8, 13.9). -/

namespace Sys2Proof.Machine

/-- Words of a bank and of a vault. -/
def bankWordCount : Nat := 917504
def vaultWordCount : Nat := 14680064

/-- The k-th vault that the floor plan does not list dead from vault number v on; none past the last. -/
def State.nthVault (s : State) : Nat → Nat → Nat → Option Nat
  | 0, _, _ => none
  | fuel + 1, v, k =>
    if v ≥ 12960 then none
    else if s.vaultDead (coreOfNum v) then s.nthVault fuel (v + 1) k
    else if k = 0 then some v else s.nthVault fuel (v + 1) (k - 1)

/-- Address of word j from a vault address on in staging order; none past the last usable vault. -/
def State.stagingWord (s : State) (start j : Nat) : Option Nat :=
  match placeOf start with
  | some (.vault c bank off) =>
    let p := bank * bankWordCount + off / 32 + j
    (s.nthVault 12961 c.num (p / vaultWordCount)).map fun v =>
      let q := p % vaultWordCount
      bankBase (coreOfNum v) (q / bankWordCount) + 32 * (q % bankWordCount)
  | _ => none

/-- Addresses of n words from an address: staging order in vault space, ascending in a core SRAM or well
(R365); none where they leave their unit. -/
def State.copyAddrs (s : State) (start n : Nat) : Option (List Nat) :=
  match placeOf start with
  | some (.vault _ _ _) => (List.range n).mapM (s.stagingWord start)
  | some (.sram _ off) => if off + 32 * n ≤ sramBytes then some ((List.range n).map fun j => start + 32 * j) else none
  | some (.well _ off) => if off + 32 * n ≤ wellBytes then some ((List.range n).map fun j => start + 32 * j) else none
  | none => none

/-- Words read by the cox (requester 5): their bytes, or the first word that is uncorrectable. -/
def State.coxRead (s : State) (addrs : List Nat) : State × Except Nat (List Byte) :=
  let r := (s.coxBefore false addrs).countReads reqCox addrs
  match r.2 with
  | some a => (r.1, .error a)
  | none => (r.1, .ok (addrs.flatMap fun a => readBytes r.1.mem a 32))

/-- The published floor plan as 2010h reads. -/
def Plan.bytes (p : Plan) : List Byte :=
  let n := p.shifts.length
  leBytes 8 p.gen.toNat ++ leBytes 1 1 ++ leBytes 1 0 ++ leBytes 2 n ++ leBytes 52 0 ++
    ((span 64 35360).map p.byte) ++ (p.shifts.flatMap fun r => leBytes 8 r.toNat) ++
    List.replicate (32 * ceilDiv n 4 - 8 * n) 0

end Sys2Proof.Machine
end

