-- ==== Sys2Proof/Machine/Ports.lean ====
section
/-! DEFINITION. The flit layer of the ports (09 R328-R339, R370, R371). -/

namespace Sys2Proof.Machine

/-- Payload bytes of a flit (Table 9.3). -/
def flitPayload : Nat := 244

/-- Bytes 0 to 251 of a flit. -/
def flitBytes (f : Flit) : List Byte :=
  let b := fun (p : Bool) k => if p then 2 ^ k else 0
  leBytes 8 (f.seq.toNat + 2 ^ 8 * f.ack.toNat + b f.nak 16 + 2 ^ 17 * f.ftype.toNat + 2 ^ 19 * f.vc.toNat + b f.sop 21 +
    b f.eop 22 + 2 ^ 23 * (f.reserved.toNat % 2 ^ 9) + 2 ^ 32 * f.cvc.toNat + 2 ^ 34 * f.ccount.toNat +
    2 ^ 44 * (f.reserved.toNat / 2 ^ 9)) ++ f.payload

/-- The flit with its CRC-32C (R330, R212). -/
def flitWithCrc (f : Flit) : Flit := { f with crc := crc32c (flitBytes f) }

def flitCrcOk (f : Flit) : Bool :=
  decide (f.payload.length = flitPayload) && decide (f.crc = crc32c (flitBytes f))

def State.port (s : State) (i : Nat) : PortState := tblGet PortState.down s.ports i

def State.setPort (s : State) (i : Nat) (p : PortState) : State :=
  { s with ports := tblSet PortState.down s.ports i p }

def PortState.lane (p : PortState) (l : Nat) : LaneState := tblGet LaneState.start p.lanes l

def PortState.setLane (p : PortState) (l : Nat) (v : LaneState) : PortState :=
  { p with lanes := tblSet LaneState.start p.lanes l v }

/-- LINK_STATE (Table 9.10). -/
def State.linkState (s : State) (i : Nat) : Nat := s.regN (0x7210 + i) 1

/-- Lanes of a port (Table 9.2). -/
def portLanes (i : Nat) : Nat := if i < 24 then 16 else if i < 30 then 32 else 8

def State.send (s : State) (m : Msg) : State := { s with outbox := s.outbox ++ [m] }

/-! ### Fault injection (R369-R371) -/

/-- One draw of a port's generator. -/
def xorshift (x : BitVec 32) : BitVec 32 :=
  let a := x ^^^ (x <<< 13)
  let b := a ^^^ (a >>> 17)
  b ^^^ (b <<< 5)

/-- Seed of port i at a program start. -/
def fiSeed (seed i : Nat) : BitVec 32 :=
  let x := BitVec.ofNat 32 seed ^^^ BitVec.ofNat 32 (0x9E3779B9 * (i + 1))
  if x = 0 then 1 else x

/-- FI_CREWS selects a flit of this tag: no bit set selects every flit. -/
def State.fiSelects (s : State) (i tag : Nat) : Bool :=
  let m := leNat (s.dom (0x7410 + i) 5)
  decide (m = 0) || (decide (tag < 256) && m.testBit tag)

/-- What the draws of one eligible flit bring: drop, the bit to invert, and an exchange. -/
structure Injected where
  drop : Bool
  flip : Option Nat
  swap : Bool
deriving DecidableEq, Repr

/-- FI_ACTIVE (7400h.01). -/
def State.fiActive (s : State) : Bool :=
  (List.range 31).any fun i => [1, 2, 3].any fun k => decide (s.regN (0x7410 + i) k ≠ 0)

/-- Injected faults of the PACKET layer can reach the port's messages (Table 9.12). -/
def State.packetFaults (s : State) (i : Nat) : Bool :=
  decide (s.regN (0x7410 + i) 4 = 1) && [1, 2, 3].any fun k => decide (s.regN (0x7410 + i) k ≠ 0)

/-- Three draws in order, and a fourth for a corruption that occurs (R370); each fault that acts is counted. -/
def State.injectFault (s : State) (i layer tag : Nat) : State × Injected :=
  if s.regN (0x7410 + i) 4 ≠ layer ∨ !s.fiSelects i tag then (s, ⟨false, none, false⟩)
  else
    let p := s.port i
    let a := xorshift p.rng
    let b := xorshift a
    let c := xorshift b
    let hit := fun (x : BitVec 32) k => decide (x.toNat < s.regN (0x7410 + i) k)
    let drop := hit a 1
    let bad := hit b 2
    let swap := !drop && hit c 3
    let d := xorshift c
    let r : Injected := ⟨drop, if !drop && bad then some d.toNat else none, swap⟩
    let n := (if drop then 1 else 0) + (if !drop && bad then 1 else 0) + (if swap then 1 else 0)
    ((s.setPort i { p with rng := if !drop && bad then d else c }).bumpReg (0x7410 + i) 6 n, r)

/-- Invert a bit of a byte string. -/
def flipBit (l : List Byte) (k : Nat) : List Byte :=
  l.zipIdx.map fun p => if p.2 = k / 8 then p.1 ^^^ BitVec.ofNat 8 (2 ^ (k % 8)) else p.1

/-- A flit with a bit of its bytes 0 to 251 inverted and its CRC as it was. -/
def flitFlipped (f : Flit) (k : Nat) : Flit :=
  let b := flipBit (flitBytes f) k
  let h := leNat (b.take 8)
  let g := fun lo n => h / 2 ^ lo % 2 ^ n
  { f with seq := BitVec.ofNat 8 (g 0 8), ack := BitVec.ofNat 8 (g 8 8), nak := decide (g 16 1 = 1)
           ftype := BitVec.ofNat 2 (g 17 2), vc := BitVec.ofNat 2 (g 19 2), sop := decide (g 21 1 = 1)
           eop := decide (g 22 1 = 1), cvc := BitVec.ofNat 2 (g 32 2), ccount := BitVec.ofNat 10 (g 34 10)
           reserved := BitVec.ofNat 29 (g 23 9 + 2 ^ 9 * g 44 20), payload := b.drop 8 }

/-- A message that the layers above take: the copy that the port delivered is used up, in the order of its virtual channel.
Where no fault of the PACKET layer can reach the port, what the command names is what the port delivers (R371, log 67). -/
def State.received (s : State) (i : Nat) (test : List Byte → Bool) : Bool × State :=
  let p := s.port i
  let first := fun (e : Nat × List Byte) => decide ((p.inbox.find? fun x => decide (x.1 = e.1)) = some e)
  match p.inbox.find? fun e => decide (e.1 < 4) && test e.2 && (!s.packetFaults i || first e) with
  | some e => (true, s.setPort i { p with inbox := p.inbox.erase e })
  | none => (!s.packetFaults i, s)

/-! ### Sending -/

/-- Put a DATA flit on a lane, under the LINK faults (R371). -/
def State.emit (s : State) (i l : Nat) (tag : Nat) (f : Flit) : State :=
  let r := s.injectFault i 0 tag
  let s1 := r.1
  let p := s1.port i
  let k := p.lane l
  let g := match r.2.flip with | some d => flitFlipped f (d % 2016) | none => f
  if r.2.drop then s1
  else if r.2.swap ∧ k.swap = none then s1.setPort i (p.setLane l { k with swap := some g })
  else
    let s2 := (s1.setPort i (p.setLane l { k with swap := none })).send (.lane i l g)
    match k.swap with
    | some h => s2.send (.lane i l h)
    | none => s2

/-- Credits that go back in the next flit: the lowest virtual channel that has any. -/
def PortState.credits (p : PortState) : Nat × Nat :=
  match p.give with
  | (v, n) :: _ => (v, min n 1023)
  | [] => (0, 0)

def PortState.gave (p : PortState) : PortState :=
  let c := p.credits
  { p with give := tblSet 0 p.give c.1 (tblGet 0 p.give c.1 - c.2) }

/-- A flit of a lane with its ACK and the credits due. -/
def PortState.flitFor (p : PortState) (l : Nat) (ftype : Nat) (o : OutFlit) (nak : Bool) : Flit :=
  let k := p.lane l
  let c := p.credits
  flitWithCrc
    { seq := BitVec.ofNat 8 (if ftype = 1 then k.txSeq else 0), ack := BitVec.ofNat 8 k.lastSeq, nak := nak,
      ftype := BitVec.ofNat 2 ftype, vc := BitVec.ofNat 2 o.vc, sop := o.sop, eop := o.eop,
      cvc := BitVec.ofNat 2 c.1, ccount := BitVec.ofNat 10 c.2, payload := o.payload, crc := 0, fecOk := true,
      fecCorrected := 0 }

def noFlit : OutFlit := { vc := 0, sop := false, eop := false, payload := List.replicate flitPayload 0, tag := 512 }

/-- A FILL flit that carries ACK, NAK and credits (R331). -/
def State.sendFill (s : State) (i l : Nat) (nak : Bool) : State :=
  let p := s.port i
  let k := p.lane l
  let f := p.flitFor l 0 noFlit nak
  (s.setPort i ((p.gave).setLane l { k with owed := 0 })).send (.lane i l f)

/-- A flit that may go out next: a credit of its virtual channel is held, and it goes on with the message that has begun
there, or begins one where none has (R338, R339). -/
def PortState.canSend (p : PortState) (o : OutFlit) : Bool :=
  decide (tblGet 0 p.used o.vc < 512) &&
    match tblFind p.held o.vc with
    | none => o.sop
    | some m => decide (m = o.msg)

/-- The first flit that may go out goes when its lane's buffer has room (R332, R335). -/
def State.pumpOnce (s : State) (i : Nat) : Option State :=
  let p := s.port i
  match p.queue.find? p.canSend, p.active with
  | some o, a :: as =>
    let l := (a :: as).getD (p.txK % (a :: as).length) a
    let k := p.lane l
    if s.linkState i ≠ 2 ∨ k.replay.length ≥ 64 then none
    else
      let f := p.flitFor l 1 o false
      let sent : SentFlit := { k := p.txK, tag := o.tag, msg := o.msg, since := s.clk.now, flit := f }
      let k1 := { k with txSeq := (k.txSeq + 1) % 256, replay := k.replay ++ [sent], owed := 0
                         ackSince := if k.replay = [] then s.clk.now else k.ackSince }
      let p1 := { (p.gave.setLane l k1) with queue := p.queue.erase o, held := if o.eop then tblDel p.held o.vc else tblPut p.held o.vc o.msg, txK := p.txK + 1, used := tblMod 0 p.used o.vc (· + 1) }
      some ((s.setPort i p1).emit i l o.tag f)
  | _, _ => none

def State.pumpGo (i : Nat) : Nat → State → State
  | 0, s => s
  | n + 1, s => match s.pumpOnce i with | some t => State.pumpGo i n t | none => s

def State.pump (s : State) (i : Nat) : State := State.pumpGo i (s.port i).queue.length s

/-- A lane that has no DATA flit to send sends FILL (R331): what it owes goes out at once, the credits of one virtual channel
in each flit. -/
def State.idleFill (i l : Nat) : Nat → State → State
  | 0, s => s
  | n + 1, s =>
    let p := s.port i
    if (s.pumpOnce i).isNone && decide (s.linkState i = 2) && (!p.give.isEmpty || decide ((p.lane l).owed > 0)) then
      State.idleFill i l n (s.sendFill i l false)
    else s

/-- The flits of a message (R338). -/
def flitsOf (vc tag : Nat) (bytes : List Byte) : List OutFlit :=
  let cs := chunksOf flitPayload bytes
  cs.zipIdx.map fun p =>
    { vc := vc, sop := decide (p.2 = 0), eop := decide (p.2 + 1 = cs.length),
      payload := p.1 ++ List.replicate (flitPayload - p.1.length) 0, tag := tag }

/-- Hand a message to a port. -/
def State.sendOn (s : State) (i vc tag : Nat) (bytes : List Byte) : State :=
  let p := s.port i
  (s.setPort i { p with queue := p.queue ++ flitsOf vc tag bytes }).pump i

/-- A lane sends its unacknowledged flits again (R335). -/
def State.replayLane (s : State) (i l : Nat) : State :=
  let p := s.port i
  let k := p.lane l
  let s1 := (s.setPort i (p.setLane l { k with replay := k.replay.map fun f => { f with since := s.clk.now } })).bumpReg
    (0x7210 + i) 5 1
  k.replay.foldl (fun s f => s.emit i l f.tag f.flit) s1

/-- Flits of a copy channel that wait or are not acknowledged on the host port (R366). -/
def State.copyUnacked (s : State) (ch : Nat) : Bool :=
  let p := s.port 30
  (p.queue.any fun f => decide (f.tag = 256 + ch)) ||
    p.lanes.any fun e => e.2.replay.any fun f => decide (f.tag = 256 + ch)

/-! ### Acknowledgements -/

/-- Flits up to the one an ACK names leave the buffer; nothing when it names none of them. -/
def ackList (a : Nat) (r : List SentFlit) : Option (List SentFlit) :=
  if r.any fun f => f.flit.seq.toNat = a then some ((r.dropWhile fun f => f.flit.seq.toNat ≠ a).drop 1) else none

def State.takeAck (s : State) (i l a : Nat) : State :=
  let p := s.port i
  let k := p.lane l
  match ackList a k.replay with
  | some r =>
    (s.setPort i (p.setLane l { k with replay := r, acked := some a, ackSince := s.clk.now })).pump i
  | none => s

/-- A NAK replays from ACK + 1; one whose ACK names a flit already acknowledged is ignored (R335). -/
def State.takeNak (s : State) (i l a : Nat) : State :=
  let k := (s.port i).lane l
  if (ackList a k.replay).isSome ∨ k.acked = none then (s.takeAck i l a).replayLane i l else s

def State.takeCredits (s : State) (i : Nat) (f : Flit) : State :=
  let p := s.port i
  (s.setPort i { p with used := tblMod 0 p.used f.cvc.toNat (· - f.ccount.toNat) }).pump i

/-- What every flit brings besides its payload. -/
def State.takeReturns (s : State) (i l : Nat) (f : Flit) : State :=
  let s1 := s.takeCredits i f
  if f.nak then s1.takeNak i l f.ack.toNat else s1.takeAck i l f.ack.toNat

end Sys2Proof.Machine
end

