-- ==== Sys2Proof/Machine/Torus.lean ====
section
/-! DEFINITION. The torus and the routing of crew packets (07 Table 7.10; 09 R341-R348). -/

namespace Sys2Proof.Machine

/-! ### Packet headers (Table 7.10) -/

def pkKind (h : EccWord) : Nat := fld h 0 4
def pkWire (h : EccWord) : Nat := fld h 4 4
def pkCrew (h : EccWord) : Nat := fld h 8 8
def pkStep (h : EccWord) : BitVec 32 := BitVec.ofNat 32 (fld h 16 32)
def pkLayer (h : EccWord) : Nat := fld h 48 16
def pkChunk (h : EccWord) : Nat := fld h 64 24
def pkSrc (h : EccWord) : Nat := fld h 88 12
def pkDst (h : EccWord) : Nat := fld h 100 12
def pkNf (h : EccWord) : Bool := bit h 112
def pkSat (h : EccWord) : Bool := bit h 113
def pkNfSum (h : EccWord) : Bool := bit h 114
def pkEmpty (h : EccWord) : Bool := bit h 115
def pkRestart (h : EccWord) : Bool := bit h 116
def pkLen (h : EccWord) : Nat := fld h 128 32

/-- Flags NF, SAT, NF_SUM, EMPTY and RESTART of a header, from bit 112. -/
def pkFlags (nf sat nfSum empty restart : Bool) : Nat :=
  (if nf then 1 else 0) + (if sat then 2 else 0) + (if nfSum then 4 else 0) + (if empty then 8 else 0) +
    (if restart then 16 else 0)

def pkHeader (kind wire crew : Nat) (step : BitVec 32) (layer chunk src dst flags len : Nat) : EccWord :=
  BitVec.ofNat 256 (kind + 2 ^ 4 * wire + 2 ^ 8 * crew + 2 ^ 16 * step.toNat + 2 ^ 48 * layer + 2 ^ 64 * (chunk % 2 ^ 24) +
    2 ^ 88 * src + 2 ^ 100 * dst + 2 ^ 112 * flags + 2 ^ 128 * len)

/-! ### Ranks and coordinates (R341, R342) -/

/-- DX, DY and DZ. -/
def State.dims (s : State) : Nat × Nat × Nat :=
  let d := s.regN 0x7200 1
  (d % 16 + 1, d / 16 % 16 + 1, d / 256 % 16 + 1)

def State.jobRank (s : State) : Nat := s.regN 0x7010 1

/-- Coordinates of a rank by dimension. -/
def rankCoord (d : Nat × Nat × Nat) (serpentine : Bool) (r : Nat) : List Nat :=
  let a := r % d.1
  let b := r / d.1 % d.2.1
  let c := r / (d.1 * d.2.1)
  if serpentine then
    [if (c * d.2.1 + b) % 2 = 0 then a else d.1 - 1 - a, if c % 2 = 0 then b else d.2.1 - 1 - b, c]
  else [a, b, c]

def State.coord (s : State) (r : Nat) : List Nat := rankCoord s.dims (decide (s.regN 0x7200 2 = 1)) r

def State.dimSize (s : State) (k : Nat) : Nat := match k with | 0 => s.dims.1 | 1 => s.dims.2.1 | _ => s.dims.2.2

/-- Ports of a direction in member order (Table 9.1): dimension, and whether it goes up. -/
def dirPorts (k : Nat) (up : Bool) : List Nat :=
  match k, up with
  | 0, true => [9, 12, 13, 23]
  | 0, false => [0, 10, 11, 14]
  | 1, true => [15, 17, 19, 21]
  | 1, false => [1, 3, 5, 7]
  | 2, true => [16, 18, 20, 22]
  | _, _ => [2, 4, 6, 8]

/-- Direction of an Amrax-L port. -/
def portDir (i : Nat) : Nat × Bool :=
  (([(0, true), (0, false), (1, true), (1, false), (2, true), (2, false)] : List (Nat × Bool)).find?
    fun d => (dirPorts d.1 d.2).contains i).getD (0, true)

/-- The rank at coordinates: the one below JOB_SIZE that stands there. -/
def State.rankAt (s : State) (c : List Nat) : Option Nat := (List.range s.jobSize).find? fun r => s.coord r = c

/-- The rank that R341 and R342 put behind a port, and the partner's port index. -/
def State.expectedPartner (s : State) (i : Nat) : Option (Nat × Nat) :=
  let d := portDir i
  let n := s.dimSize d.1
  let own := s.coord s.jobRank
  let x := own.getD d.1 0
  let y := if d.2 then (x + 1) % n else (x + n - 1) % n
  let m := (dirPorts d.1 d.2).idxOf i
  (s.rankAt (own.set d.1 y)).map fun r => (r, (dirPorts d.1 (!d.2)).getD m 0)

/-- Ports of a dimension of size 1 are not used (R342); a crew must be loaded for any to be. -/
def State.portUsed (s : State) (i : Nat) : Bool := decide (s.dimSize (portDir i).1 > 1)

/-- A port that packets can take: up, or retraining. -/
def State.portLive (s : State) (i : Nat) : Bool := decide (s.linkState i = 2 ∨ s.linkState i = 3)

/-! ### Routing (R344, R345, R348) -/

/-- Dimension and direction of the next hop towards coordinates. -/
def nextHop (sizes own dst : List Nat) : Option (Nat × Bool) :=
  (List.range 3).findSome? fun k =>
    let n := sizes.getD k 1
    let a := own.getD k 0
    let b := dst.getD k 0
    if a = b then none
    else
      let fwd := (b + n - a) % n
      some (k, decide (fwd ≤ n - fwd))

/-- A packet that came in on a port has crossed the dateline of the dimension it travels in: on an
earlier hop, or on the hop to this module. -/
def State.crossed (s : State) (from' : Option (Nat × Nat)) (k : Nat) : Bool :=
  match from' with
  | none => false
  | some (i, vc) =>
    let d := portDir i
    let x := (s.coord s.jobRank).getD k 0
    decide (d.1 = k) && (decide (vc % 2 = 1) || (if d.2 then decide (x = s.dimSize k - 1) else decide (x = 0)))

/-- The port and virtual channel by which a packet leaves: from this module, or from the port and virtual channel it came in
on; none where no port of its direction is live (R344, R345, R348). -/
def State.routeOf (s : State) (from' : Option (Nat × Nat)) (h : EccWord) : Option (Nat × Nat) :=
  match nextHop [s.dims.1, s.dims.2.1, s.dims.2.2] (s.coord s.jobRank) (s.coord (pkDst h)) with
  | none => none
  | some (k, up) =>
    let live := (dirPorts k up).filter s.portLive
    if live = [] then none
    else
      some (live.getD ((pkLayer h + pkChunk h) % live.length) 0,
        (if pkKind h = 1 then 0 else 2) + (if s.crossed from' k then 1 else 0))

/-- Send a packet on its way; a port is charged for its loss. -/
def State.routePacket (s : State) (charge : Nat) (from' : Option (Nat × Nat)) (h : EccWord) (bytes : List Byte) : State :=
  match s.routeOf from' h with
  | none => s.bumpReg (0x7210 + charge) 7 1
  | some (i, vc) => s.sendOn i vc (pkCrew h) bytes

/-- Port engine of a crew and layer (R347). -/
def State.homePort (s : State) (crew layer : Nat) : Nat :=
  let i := (layer + 7 * crew) % 24
  ((List.range 24).map fun j => (i + j) % 24).find? (fun p => s.linkState p ≠ 4) |>.getD i

/-- A packet of this module to another rank. -/
def State.sendPacket (s : State) (h : EccWord) (body : List EccWord) : State :=
  let s1 := s.send (.packet h body)
  let layer := if pkKind h = 4 ∨ pkKind h = 5 then 0 else pkLayer h
  s1.routePacket (s1.homePort (pkCrew h) layer) none h (bytesOfWords (h :: body))

end Sys2Proof.Machine
end

