-- ==== Sys2Proof/Machine/Snapshot.lean ====
section
/-! DEFINITION. Snapshots of the state tensors (08 R320-R323; 09 R357; 15 R519). -/

namespace Sys2Proof.Machine

def State.setSnap (s : State) (k : SnapState) : State := { s with snap := k }

def State.snapStatus (s : State) : Nat := s.regN 0x7301 5

/-- The hold of the SEAL event ends: the fills held back take effect (R321). -/
def State.releaseFills (s : State) : State :=
  let s1 := s.snap.heldFills.foldl (fun (s : State) m => s.fillMailbox m 1) s
  let sealed := s.snap.step.map fun n => BitVec.ofNat 32 (n + 2)
  { s1 with snap := SnapState.idle, latestSeal := if s.snap.heldFills = [] then s1.latestSeal else sealed }

/-- SNAP_STATUS becomes 3, 4 or 5 (R322, R323). -/
def State.setSnapStatus (s : State) (v : Nat) : State :=
  ((s.setRegN 0x7301 5 v).bumpReg 0x7301 7 1).event evSnapshot

/-- The copy is complete or released: SNAP_TAKEN, then the hold ends. -/
def State.snapDone (s : State) : State :=
  ((s.setRegN 0x7301 6 (s.snap.step.getD 0)).setSnapStatus 4).releaseFills

def State.snapFail (s : State) : State := (s.setSnapStatus 5).releaseFills

/-- A snapshot that the streamers copy fails when their port or message is lost. -/
def State.snapLost (s : State) : State := if s.snapStatus = 2 then s.snapFail else s

/-- Copy 1 - P(n): written by the updates of step n (R303): B when n is even. -/
def snapCopy (n : Nat) : Nat := if n % 2 = 0 then 1 else 0

/-- The pieces of a snapshot: each area of the copy, with its word offset in the order of the tensor's
areas (the offset is the model's choice, log 29). -/
def State.snapPieces (s : State) (n : Nat) : List (Nat × Nat × Nat × Nat) :=
  s.stateTab.tensors.flatMap fun t =>
    (((s.stateTab.areas t).filter fun r => r.copy = snapCopy n).foldl
      (fun (a : Nat × List (Nat × Nat × Nat × Nat)) r =>
        (a.1 + r.len / 32, a.2 ++ [(t.tensor, a.1, r.addr, r.len / 32)])) (0, [])).2

/-- An armed snapshot of step n begins when the SEAL event of step n + 1 fills. -/
def State.snapBegin (s : State) (sealed : Nat) : State :=
  match s.snap.step with
  | some n =>
    if s.snapStatus = 1 ∧ sealed = (n + 1) % 2 ^ 32 then
      if s.regN 0x7301 1 = 0 then s.setSnapStatus 3
      else (s.setRegN 0x7301 5 2).setSnap { s.snap with todo := s.snapPieces n }
    else s
  | none =>
    if s.snapStatus = 1 then s.setSnap { s.snap with step := some sealed } else s

/-- The SEAL event of a step: its mailboxes fill, or are held while the snapshot of the step two before it
is not ended (R321). -/
def State.sealFill (s : State) (sealed : Nat) (mbs : List Nat) : State :=
  let held := match s.snap.step with
    | some n => decide (s.snapStatus = 2 ∨ s.snapStatus = 3) && decide (sealed = (n + 2) % 2 ^ 32)
    | none => false
  if held then s.setSnap { s.snap with heldFills := s.snap.heldFills ++ mbs }
  else
    (mbs.foldl (fun (s : State) m => s.fillMailbox m 1)
      { s with latestSeal := some (BitVec.ofNat 32 sealed) }).snapBegin sealed

/-- SNAPSHOT_COPY_END: every piece is sent and answered, or the copy failed. -/
def State.snapCopyEnd (s : State) (ok : Bool) : State :=
  if s.snapStatus ≠ 2 then s
  else if !ok then s.snapFail
  else if s.snap.todo = [] ∧ !(s.streams.any fun q => q.kind.isSnap) then s.snapDone
  else s

def execSnapshotCopyEnd (t : Time) (ok : Bool) (s : State) : Host.Outcome State Fault Refusal :=
  .next ((s.advance t).snapCopyEnd ok)

/-- A write of 1 to 7301h.03 (R320): armed for the step named, or for the next one sealed. -/
def State.snapArm (s : State) : State :=
  let n := s.regN 0x7301 2
  (s.setRegN 0x7301 5 1).setSnap
    { SnapState.idle with step := if n = 0xFFFFFFFF then none else some n }

/-- A step that is sealed already: before NEXT_STEP. -/
def State.stepSealed (s : State) (n : Nat) : Bool :=
  let d := (s.regN 0x7010 3 + 2 ^ 32 - n) % 2 ^ 32
  decide (1 ≤ d) && decide (d < 2 ^ 31)

def State.snapRelease (s : State) : State := if s.snapStatus = 3 then s.snapDone else s

end Sys2Proof.Machine
end

