-- ==== Sys2Proof/Machine/Link.lean ====
section
/-! DEFINITION. Flits that arrive, acknowledgements, and the training of ports (09 R331-R343, R359; 13
R480). -/

namespace Sys2Proof.Machine

/-! ### Delivery (R332, R338, R346, R371) -/

/-- The KIND of a REPLY (Table 9.6). -/
def replyKind : Nat := 8

/-- A whole message: crew packets for another rank pass on, the others wait for the layer above; a reserved
KIND is a delivery error (R278), and so is a streamer's message that is not a REPLY (R358). -/
def State.takeMessage (s : State) (i vc : Nat) (m : List Byte) : State :=
  let h := wordOfBytes (m.take 32)
  let p := s.port i
  if i < 24 then
    if pkKind h = 0 ∨ pkKind h > 6 then s.bumpReg (0x7210 + i) 7 1
    else if pkDst h ≠ s.jobRank then s.routePacket i (some (i, vc)) h (m.take (32 + pkLen h))
    else s.setPort i { p with inbox := p.inbox ++ [(vc, m)] }
  else if i < 30 ∧ fld h 0 4 ≠ replyKind then s.bumpReg (0x7210 + i) 7 1
  else s.setPort i { p with inbox := p.inbox ++ [(vc, m)] }

/-- A message is complete: one held behind the next goes after it (R371). -/
def State.endMessage (s : State) (i vc : Nat) (q : InPart) : State :=
  let p := s.port i
  let s1 := s.setPort i { p with part := tblDel p.part vc }
  if q.spoilt then s1.bumpReg (0x7210 + i) 7 1
  else
    match tblFind p.behind vc with
    | some old =>
      let s2 := s1.takeMessage i vc q.bytes
      let p2 := s2.port i
      (s2.setPort i { p2 with behind := tblDel p2.behind vc }).takeMessage i vc old
    | none =>
      if q.late then s1.setPort i { s1.port i with behind := tblPut (s1.port i).behind vc q.bytes }
      else s1.takeMessage i vc q.bytes

/-- Where a packet that comes in on a port passes on, by its first flit: none for one that stays here (R346). While faults of
the PACKET layer can reach the port, a packet is taken whole first (DESIGN CHOICE, log 67). -/
def State.passes (s : State) (i : Nat) (f : Flit) : Bool :=
  let h := wordOfBytes (f.payload.take 32)
  f.sop && decide (i < 24) && !s.packetFaults i && decide (pkKind h ≠ 0) && decide (pkKind h ≤ 6) && decide (pkDst h ≠ s.jobRank)

/-- The source of a passing packet, as the sending port knows it. -/
def passKey (i vc : Nat) : Nat := 4 * i + vc + 1

/-- A flit of a passing packet leaves by the port that its first flit chose (R346); a packet that no live port can take, or
whose port dies, is lost and counted with its last flit (R348). -/
def State.passFlit (s : State) (i : Nat) (q : InPart) (f : Flit) : State :=
  let vc := f.vc.toNat
  let keep := fun (s : State) (q : InPart) => s.setPort i { s.port i with part := tblPut (s.port i).part vc q }
  let gone := fun (s : State) => s.setPort i { s.port i with part := tblDel (s.port i).part vc }
  match q.pass with
  | some (j, v) =>
    if s.portLive j then
      let o : OutFlit := { vc := v, sop := f.sop, eop := f.eop, payload := f.payload, tag := (q.bytes.getD 1 0).toNat, msg := passKey i vc }
      let p := s.port j
      let s1 := (s.setPort j { p with queue := p.queue ++ [o] }).pump j
      if f.eop then gone s1 else keep s1 q
    else if f.eop then (gone s).bumpReg (0x7210 + i) 7 1
    else keep s { q with pass := none, spoilt := true }
  | none => if f.eop then (gone s).bumpReg (0x7210 + i) 7 1 else keep s { q with spoilt := true }

/-- A flit goes to the layers above, under the PACKET faults; its place in the receive buffer is free
again (R339). -/
def State.deliverFlit (s : State) (i : Nat) (f : Flit) : State :=
  let vc := f.vc.toNat
  let p := s.port i
  let old : InPart := if f.sop then { bytes := [], spoilt := false, late := false }
    else (tblFind p.part vc).getD { bytes := [], spoilt := true, late := false }
  if s.passes i f then
    let head := f.payload.take 32
    (s.setPort i { p with give := tblMod 0 p.give vc (· + 1) }).passFlit i
      { bytes := head, spoilt := false, late := false, pass := s.routeOf (some (i, vc)) (wordOfBytes head) } f
  else if !f.sop && old.pass.isSome then
    (s.setPort i { p with give := tblMod 0 p.give vc (· + 1) }).passFlit i old f
  else
  let tag := if i < 24 then ((old.bytes ++ f.payload).getD 1 0).toNat else 512
  let s1 := s.setPort i { p with give := tblMod 0 p.give vc (· + 1) }
  let r := s1.injectFault i 1 tag
  let data := match r.2.flip with | some d => flipBit f.payload (d % 1952) | none => f.payload
  let q : InPart := { bytes := old.bytes ++ data, spoilt := old.spoilt || r.2.drop, late := old.late || r.2.swap }
  if f.eop then r.1.endMessage i vc q
  else r.1.setPort i { r.1.port i with part := tblPut (r.1.port i).part vc q }

/-- Deliver the next flit of the rotation when its lane holds it. -/
def State.deliverOnce (s : State) (i : Nat) : Option State :=
  let p := s.port i
  match p.active with
  | [] => none
  | a :: as =>
    let l := (a :: as).getD (p.rxK % (a :: as).length) a
    let k := p.lane l
    match k.rxHeld with
    | [] => none
    | f :: fs =>
      let k1 := { k with rxHeld := fs, lastSeq := f.seq.toNat, owed := k.owed + 1
                         owedSince := if k.owed = 0 then s.clk.now else k.owedSince }
      let s1 := (s.setPort i { (p.setLane l k1) with rxK := p.rxK + 1 }).deliverFlit i f
      some (State.idleFill i l 5 (if k1.owed ≥ 16 then s1.sendFill i l false else s1))

def State.deliverGo (i : Nat) : Nat → State → State
  | 0, s => s
  | n + 1, s => match s.deliverOnce i with | some t => State.deliverGo i n t | none => s

def State.deliverAll (s : State) (i : Nat) : State :=
  State.deliverGo i ((s.port i).lanes.foldl (fun n e => n + e.2.rxHeld.length) 0) s

/-! ### Reception (R331, R333) -/

/-- A discarded flit: counted, and one NAK for the loss. -/
def State.rejectFlit (s : State) (i l : Nat) : State :=
  let s1 := s.bumpReg (0x7210 + i) 4 1
  let p := s1.port i
  let k := p.lane l
  if k.nakOut then s1 else (s1.setPort i (p.setLane l { k with nakOut := true })).sendFill i l true

/-- A lane that takes flits. -/
def State.laneUp (s : State) (i l : Nat) : Bool := decide (s.linkState i = 2) && (s.port i).active.contains l

/-- A flit that passes the checks; one with a reserved bit set is discarded as one that fails them (R5). -/
def State.flitGood (f : Flit) : Bool := f.fecOk && flitCrcOk f && decide (f.ftype.toNat ≠ 3) && decide (f.reserved = 0)

def State.dataFlit (s : State) (i l : Nat) (f : Flit) : State :=
  if !s.laneUp i l then s
  else
    let s1 := s.bumpReg (0x7210 + i) 3 f.fecCorrected
    let k := (s1.port i).lane l
    if !State.flitGood f || decide (f.seq.toNat ≠ k.rxSeq) then s1.rejectFlit i l
    else
      let k1 := { k with rxSeq := (k.rxSeq + 1) % 256, rxHeld := k.rxHeld ++ [f], nakOut := false }
      ((s1.setPort i ((s1.port i).setLane l k1)).takeReturns i l f).deliverAll i

/-- A flit has 244 payload bytes (Table 9.3). -/
def flitForm (f : Flit) : Bool := decide (f.payload.length = flitPayload)

/-- DATA_FLIT_RECEIVE takes flits of FTYPE DATA (log 4). -/
def execDataFlitReceive (t : Time) (port : Fin 31) (lane : BitVec 5) (f : Flit) (s : State) :
    Host.Outcome State Fault Refusal :=
  if !flitForm f then .fault .badOperand
  else if f.fecOk && flitCrcOk f && (decide (f.ftype.toNat = 0) || decide (f.ftype.toNat = 2)) then .next (s.advance t)
  else .next ((s.advance t).dataFlit port.val lane.toNat f)

def State.fillFlit (s : State) (i l : Nat) (f : Flit) : State :=
  if !s.laneUp i l then s
  else
    let s1 := s.bumpReg (0x7210 + i) 3 f.fecCorrected
    if !State.flitGood f then s1.rejectFlit i l else s1.takeReturns i l f

def execFillFlitReceive (t : Time) (port : Fin 31) (lane : BitVec 5) (f : Flit) (s : State) :
    Host.Outcome State Fault Refusal :=
  if !flitForm f then .fault .badOperand
  else if f.fecOk && flitCrcOk f && (decide (f.ftype.toNat = 1) || decide (f.ftype.toNat = 2)) then .next (s.advance t)
  else .next ((s.advance t).fillFlit port.val lane.toNat f)

def execNakReceive (t : Time) (port : Fin 31) (lane : BitVec 5) (ack : BitVec 8) (s : State) :
    Host.Outcome State Fault Refusal :=
  let s1 := s.advance t
  .next (if s1.laneUp port.val lane.toNat then s1.takeNak port.val lane.toNat ack.toNat else s1)

def execAckReceive (t : Time) (port : Fin 31) (lane : BitVec 5) (ack : BitVec 8) (s : State) :
    Host.Outcome State Fault Refusal :=
  let s1 := s.advance t
  .next (if s1.laneUp port.val lane.toNat then s1.takeAck port.val lane.toNat ack.toNat else s1)

/-! ### Timers (R334, R335) -/

def State.ackTimer (s : State) (i l : Nat) : State :=
  let k := (s.port i).lane l
  if s.laneUp i l && decide (k.owed > 0) && decide (10 * s.clk.now ≥ 10 * k.owedSince + usUnits) then s.sendFill i l false
  else s

def execAckSendTimer (t : Time) (port : Fin 31) (lane : BitVec 5) (s : State) : Host.Outcome State Fault Refusal :=
  .next ((s.advance t).ackTimer port.val lane.toNat)

def State.replayTimer (s : State) (i l : Nat) : State :=
  match ((s.port i).lane l).replay with
  | [] => s
  | f :: _ => if s.laneUp i l && decide (s.clk.now ≥ f.since + 20 * usUnits) then s.replayLane i l else s

def execReplayTimeout (t : Time) (port : Fin 31) (lane : BitVec 5) (s : State) : Host.Outcome State Fault Refusal :=
  .next ((s.advance t).replayTimer port.val lane.toNat)

/-! ### Training (R336, R337) -/

/-- A port that was up trains again. -/
def State.retrain (s : State) (i : Nat) : State := (s.setLink i 3).bumpReg (0x7210 + i) 6 1

def State.portRetrain (s : State) (i l : Nat) : State :=
  let k := (s.port i).lane l
  if s.laneUp i l && !k.replay.isEmpty && decide (s.clk.now ≥ k.ackSince + 5 * msUnits) then s.retrain i else s

def execPortRetrain (t : Time) (port : Fin 31) (lane : BitVec 5) (s : State) : Host.Outcome State Fault Refusal :=
  .next ((s.advance t).portRetrain port.val lane.toNat)

/-- The partner has begun retraining. -/
def execTrainFlitReceive (t : Time) (port : Fin 31) (s : State) : Host.Outcome State Fault Refusal :=
  let s1 := s.advance t
  .next (if s1.linkState port.val = 2 then s1.retrain port.val else s1)

/-- Unacknowledged flits in rotation order. -/
def insertSent (f : SentFlit) : List SentFlit → List SentFlit
  | [] => [f]
  | g :: t => if f.k ≤ g.k then f :: g :: t else g :: insertSent f t

def PortState.unacked (p : PortState) : List SentFlit :=
  (p.lanes.flatMap fun e => e.2.replay).foldl (fun l f => insertSent f l) []

/-- A flit of the buffer as one that waits. -/
def SentFlit.again (f : SentFlit) : OutFlit :=
  { vc := f.flit.vc.toNat, sop := f.flit.sop, eop := f.flit.eop, payload := f.flit.payload, tag := f.tag,
    msg := f.msg }

/-- The message in progress on each virtual channel once the flits from the partner's index on wait again. -/
def heldAgain (held : Tbl Nat) (left : List SentFlit) : Tbl Nat :=
  left.foldr (fun f h => if f.flit.sop then tblDel h f.flit.vc.toNat else tblPut h f.flit.vc.toNat f.msg) held

/-- Credits that undelivered flits carried, to be given again. -/
def giveAgain (give : Tbl Nat) (left : List SentFlit) : Tbl Nat :=
  left.foldl (fun g f => tblMod 0 g f.flit.cvc.toNat (· + f.flit.ccount.toNat)) give

/-- A LINK_ID that is due goes out (R343). -/
def State.linkIdDue (s : State) (i : Nat) : State :=
  let p := s.port i
  if p.idDue then (s.setPort i { p with idDue := false }).send (.linkId i (BitVec.ofNat 12 s.jobRank) (BitVec.ofNat 5 i)) else s

/-- The port comes up on its lanes and reports its own rotation index; the sender resumes from the flit that the partner's
index names, with the contents of the replay buffers (R336). Lanes number their flits from 0 after a training (log 30). -/
def State.portUp (s : State) (i : Nat) (lanes : List Nat) (delivered : BitVec 32) : State :=
  let p := s.port i
  let left := p.unacked.filter fun f => decide ((delivered.toNat + 2 ^ 32 - f.k % 2 ^ 32) % 2 ^ 32 = 0) ||
    decide ((delivered.toNat + 2 ^ 32 - f.k % 2 ^ 32) % 2 ^ 32 ≥ 2 ^ 31)
  let k0 := match left with | f :: _ => f.k | [] => p.txK
  let used := left.foldl (fun u f => tblMod 0 u f.flit.vc.toNat (· - 1)) p.used
  let p1 := { p with active := lanes, lanes := [], txK := k0, queue := (left.map SentFlit.again) ++ p.queue
                     used := used, failures := 0, held := heldAgain p.held left, give := giveAgain p.give left }
  (((((s.setPort i p1).setRegN (0x7210 + i) 2 lanes.length).setLink i 2).send (.rotation i (BitVec.ofNat 32 p.rxK))).linkIdDue i).pump i

/-- Passing messages that a dead port leaves in part do not go on (R337). -/
def State.dropPassing (s : State) (i : Nat) : State :=
  let of := fun m : Nat => decide (passKey i 0 ≤ m) && decide (m ≤ passKey i 3)
  { s with ports := s.ports.map fun e =>
      (e.1, { e.2 with queue := e.2.queue.filter fun o => !of o.msg, held := e.2.held.filter fun h => !of h.2 }) }

/-- A dead port (R337, R357, R359): listed dead, what it had sent and not seen acknowledged is lost, its
draws fill nothing, and a snapshot fails. -/
def State.portDead (s : State) (i : Nat) : State :=
  let p := s.port i
  let s1 := ((s.setPort i { PortState.down with inbox := p.inbox, rng := p.rng }).dropPassing i).setRegN (0x7210 + i) 2 0
  let s2 := (s1.setLink i 4).setWork (s1.work.mark (offPort i) 1 12 true)
  let kept := s2.streams.filter fun q => decide (q.port ≠ i) || (match q.kind with | .draw _ _ _ _ => false | _ => true)
  let lost := fun (e : Nat × CopyJob) => (e.1, { e.2 with lost := e.2.lost || (decide (i = 30) && s.copyUnacked e.1) })
  let s3 : State := { s2 with streams := kept, copies := s2.copies.map lost }
  if 24 ≤ i ∧ i < 30 then s3.snapLost else s3

def State.trainingEnd (s : State) (i : Nat) (how : TrainEnd) (delivered : BitVec 32) : State :=
  if s.linkState i ≠ 1 ∧ s.linkState i ≠ 3 then s
  else
    let n := portLanes i
    match how with
    | .full => s.portUp i (span 0 n) delivered
    | .lowerHalf => s.portUp i (span 0 (n / 2)) delivered
    | .upperHalf => s.portUp i (span (n / 2) (n / 2)) delivered
    | .failed =>
      let p := s.port i
      if p.failures + 1 ≥ 3 then s.portDead i else s.setPort i { p with failures := p.failures + 1 }

def execTrainingAttemptEnd (t : Time) (port : Fin 31) (how : TrainEnd) (peerDelivered : BitVec 32) (s : State) :
    Host.Outcome State Fault Refusal := .next ((s.advance t).trainingEnd port.val how peerDelivered)

/-- No partner within 25 s of the start of ST9: down, not dead (R480, R337). -/
def State.partnerTimeout (s : State) (i : Nat) : State :=
  if s.st = .bringup ∧ s.boot.stage = 9 ∧ s.linkState i = 1 ∧ s.clk.now ≥ s.boot.since + 25000 * msUnits then
    s.setLink i 0
  else s

def execPortPartnerTimeout (t : Time) (port : Fin 31) (s : State) : Host.Outcome State Fault Refusal :=
  .next ((s.advance t).partnerTimeout port.val)

/-! ### LINK_ID (R343) -/

def State.linkIdIn (s : State) (i rank peer : Nat) : State :=
  if i ≥ 24 then s
  else
    let s1 := s.setRegN (0x7210 + i) 10 rank
    if s1.expectedPartner i = some (rank, peer) then s1
    else ((s1.setReg 0x7200 4 (s1.reg 0x7200 4 ||| BitVec.ofNat 64 (2 ^ i))).setLink i 5)

def execLinkId (t : Time) (port : Fin 31) (rank : BitVec 12) (peerPort : BitVec 5) (s : State) :
    Host.Outcome State Fault Refusal := .next ((s.advance t).linkIdIn port.val rank.toNat peerPort.toNat)

end Sys2Proof.Machine
end

