-- ==== Sys2Proof/Machine/Mask.lean ====
section
/-! DEFINITION. Watched words of HOST mailboxes, and the mask expander (04 R134; 06 R220-R225). -/

namespace Sys2Proof.Machine

/-! ### Watched words (R134, R225) -/

/-- A write has taken the counter at an address from old to new: every mailbox that watches it fills by
the rise; a fall or no change fills nothing. -/
def State.watched (s : State) (a old new : Nat) : State :=
  match s.image with
  | none => s
  | some im =>
    if new ≤ old then s
    else (im.mbs.filter fun m => decide (m.kind = 1) && decide (m.watch = a)).foldl
      (fun (s : State) m => s.fillMailbox m.id (new - old)) s

/-- The counter in bytes 0 to 7 of a word. -/
def wordCounter (w : EccWord) : Nat := fld w 0 64

/-- The cox raises the watched word of a mailbox, with the exit request (R225). A word that cannot be read is free
(log 63). -/
def State.coxRaise (s : State) (mb n : Nat) (exit : Bool) : State :=
  match s.image.bind fun im => im.mbs.find? fun m => m.id = mb ∧ m.kind = 1 with
  | none => s
  | some m =>
    let r := s.coxWord m.watch
    let old := wordCounter r.2
    let rest := r.2.toNat / 2 ^ 65 * 2 ^ 65
    let v := BitVec.ofNat 256 (rest + (if exit then 2 ^ 64 else 0) + (old + n) % 2 ^ 64)
    (r.1.coxWrites m.watch [v]).watched m.watch old ((old + n) % 2 ^ 64)

/-! ### The mask expander (R220-R224) -/

def visibleByte (v : Bool) : Byte := if v then 0x00 else 0xFC

/-- Block 0: the CAUSAL block. -/
def causalBlock : List Byte := (List.range 128).flatMap fun q => (List.range 128).map fun k => visibleByte (decide (k ≤ q))

/-- A bias block from a bitmap: bit (q, k) in byte 16q + k/8, bit k mod 8. -/
def bitmapBlock (bm : List Byte) : List Byte :=
  bm.flatMap fun b => (List.range 8).map fun k => visibleByte (b.getLsbD k)

/-- Class of tile (i, j) from the words of the class map (R221). -/
def tileClass (ms : List EccWord) (nk i j : Nat) : Nat :=
  fld (ms.getD (i * ceilDiv nk 128 + j / 128) 0) (2 * (j % 128)) 2

/-- Number of EXPLICIT tiles (R222). -/
def explicitTiles (ms : List EccWord) (nq nk : Nat) : Nat :=
  ((List.range nq).flatMap fun i => (List.range nk).filter fun j => tileClass ms nk i j = 2).length

/-- The fields of the mask descriptor that are named, with every reserved one zero (Table 6.2, R5). -/
def maskClean (w v : EccWord) : Bool :=
  decide (fld w 120 8 = 0) && decide (fld w 184 8 = 0) && decide (fld w 248 8 = 0) && decide (fld v 15 1 = 0) &&
    decide (fld v 31 1 = 0) && decide (fld v 42 214 = 0)

/-- The request that the expander serves is done with. -/
def State.maskServed (s : State) : State := { s with pages := { s.pages with maskRise := 0 } }

/-- The bias blocks from the bitmaps of the EXPLICIT tiles (R223). -/
def biasBlocks (bitmaps : List EccWord) : List (List Byte) :=
  causalBlock :: (chunksOf 2048 (bytesOfWords bitmaps)).map bitmapBlock

/-- MASK_EXPAND: the class map and every bitmap are read, then the bias blocks are written, then the mailbox fills (R224).
A descriptor with a reserved bit set is discarded (R5). A request that meets an uncorrectable word writes and fills
nothing, and stays (log 63). -/
def State.maskExpand (s : State) : State :=
  let d := s.regN 0x6023 1
  if d = 0 ∨ s.pages.maskRise = 0 then s
  else
    let r0 := s.coxWords d 2
    match r0.2 with
    | none => r0.1
    | some ws =>
      let w := ws.getD 0 0
      let v := ws.getD 1 0
      let nq := fld v 0 15 + 1
      let nk := fld v 16 15 + 1
      if !maskClean w v then r0.1.maskServed
      else
        let r1 := r0.1.coxWords (fld w 64 56) (nq * ceilDiv nk 128)
        match r1.2 with
        | none => r1.1
        | some ms =>
          let r2 := r1.1.coxWords (fld w 128 56) (64 * explicitTiles ms nq nk)
          match r2.2 with
          | none => r2.1
          | some bits =>
            let s1 := (biasBlocks bits).zipIdx.foldl
              (fun (s : State) p => s.coxWrites (fld w 192 56 + 16384 * p.2) (wordsOfBytes p.1)) r2.1
            ((s1.bumpReg 0x6023 2 1).coxRaise (fld v 32 10) s.pages.maskRise false).maskServed

def execMaskExpand (t : Time) (s : State) : Host.Outcome State Fault Refusal := .next (s.advance t).maskExpand

/-- A host write to the request counter of the descriptor (R224). -/
def State.maskRequest (s : State) (a old new : Nat) : State :=
  if s.regN 0x6023 1 = a ∧ a ≠ 0 ∧ new > old then
    { s with pages := { s.pages with maskRise := s.pages.maskRise + (new - old) } }
  else s

end Sys2Proof.Machine
end

