-- ==== Sys2Proof/Machine/HostMem.lean ====
section
/-! DEFINITION. Storage accesses of the host (01 R25-R27; 05 R184, R185, R188-R190, R207-R213; 09 R360-R363). -/

namespace Sys2Proof.Machine

/-! ### Messages (Tables 9.7, 9.8) -/

def hostHeader (ty : Nat) (init : Bool) (tag n addr status : Nat) : List Byte :=
  leBytes 32 (ty + (if init then 16 else 0) + 2 ^ 8 * tag + 2 ^ 16 * ((n - 1) % 256) + 2 ^ 32 * addr + 2 ^ 96 * status)

/-- Status codes of Table 9.8. -/
def hostOk : Nat := 0
def hostEcc : Nat := 0x0610
def hostWidth : Nat := 0x0611
def hostAddr : Nat := 0x0612
def hostTimeout : Nat := 0x0613

/-- Send a completion through the host port. -/
def State.hostAnswer (s : State) (tag status : Nat) (data : List Byte) : State :=
  (s.send (.completion (BitVec.ofNat 8 tag) (BitVec.ofNat 16 status) data)).sendOn 30 0 512
    (hostHeader 8 false tag 1 0 status ++ data)

/-- The module answers on the host port once ST2 has locked its clocks, whatever state a bring-up that stopped before has led
to (R364, R376), and not in OFF. -/
def State.hostHears (s : State) : Bool :=
  match s.st with
  | .off => false
  | .ready | .loaded | .running => true
  | .bringup | .held | .safeStop | .fault => decide (s.boot.ended ≥ 3)

/-! ### Judging an access (R25, Table 1.5) -/

def isVault : Place → Bool
  | .vault _ _ _ => true
  | _ => false

/-- Table 1.5. -/
def hostMay (st : ModState) (p : Place) (write : Bool) : Bool :=
  match st with
  | .ready | .loaded | .held => true
  | .running => isVault p
  | .fault => isVault p && !write
  | .off | .bringup | .safeStop => false

/-- The status of an access to words (R25, in its order). -/
def State.judgeHost (s : State) (write : Bool) (as : List Nat) : Nat :=
  let ps := as.filterMap placeOf
  if ps.length < as.length then hostAddr
  else if ps.any (fun p => !hostMay s.st p write) then 0x0401
  else if ps.any (fun p => s.placeDead p || (write && s.drainOnly p)) then hostAddr
  else hostOk

/-! ### Words -/

/-- The 48-byte record of a word (R361, R212). -/
def State.hostRecord (s : State) (a : Nat) : List Byte :=
  let b := readBytes s.mem a 32
  let st := s.stampOf a
  b ++ leBytes 4 (st.toNat % 2 ^ 32) ++ leBytes 1 (st.toNat / 2 ^ 32) ++ leBytes 3 0 ++ leBytes 4 (crc32c b).toNat ++
    leBytes 4 0

/-- A host write of one word (R189, R210): in a vault its stamp too. The value of a stamp of state NONE is
free. A counter that rises is seen by the mailboxes and the mask expander that watch it. -/
def State.hostPut (s : State) (a : Nat) (w : EccWord) (stamp : Option (BitVec 32)) : State :=
  let old := wordCounter (s.word a)
  let s1 := s.putWord a w
  let s2 :=
    if a < 2 ^ 52 then
      match stamp with
      | some v => s1.setStamp a 1 v
      | none => s1.drawWord.2.setStamp a 0 (s1.drawWord.1.setWidth 32)
    else s1
  (s2.watched a old (wordCounter w)).maskRequest a old (wordCounter w)

/-- The words of a WRITE or WRITE_STAMPED. -/
def hostWords (stamped : Bool) (data : List Byte) : List (EccWord × Option (BitVec 32)) :=
  if stamped then
    (chunksOf 40 data).map fun r => (wordOfBytes (r.take 32), some (BitVec.ofNat 32 (leNat ((r.drop 32).take 4))))
  else (chunksOf 32 data).map fun r => (wordOfBytes r, none)

/-- The reserved bytes of stamped records are zero (R5, R361). -/
def stampedOk (data : List Byte) : Bool := (chunksOf 40 data).all fun r => decide (leNat (r.drop 36) = 0)

/-! ### Banks in use (R207, R208) -/

/-- A command owns the bank, or accesses to it are held already. -/
def State.bankOwned (s : State) (c : CoreId) (bank : Nat) : Bool :=
  (s.nbUnit c bank).running.isSome || !(tblGet [] (s.vault c).held bank).isEmpty

def State.wordHeld (s : State) (a : Nat) : Bool :=
  match bankOf a with
  | some p => s.bankOwned p.1 p.2
  | none => false

def State.addHeld (s : State) (c : CoreId) (bank : Nat) (h : HeldAcc) : State :=
  let v := s.vault c
  s.setVault c { v with held := tblMod [] v.held bank (· ++ [h]) }

/-- Hold the words of a request, one bank access of up to eight words at a time (R172, R207). -/
def State.holdWords (s : State) (tag : Nat) (write : Bool) (ws : List (Nat × (EccWord × Option (BitVec 32)))) : State :=
  ((ws.filterMap fun w => bankOf w.1).eraseDups).foldl
    (fun (s : State) p =>
      (chunksOf 8 (ws.filter fun w => bankOf w.1 = some p)).foldl
        (fun (s : State) k => s.addHeld p.1 p.2
          { tag := tag, write := write, addrs := k.map Prod.fst, words := if write then k.map Prod.snd else [],
            arrived := acNow s.clk }) s) s

/-- A request is at an end: nothing of it is held any more. -/
def State.dropTag (s : State) (tag : Nat) : State :=
  { s with hostTags := tblDel s.hostTags tag
           vaults := s.vaults.map fun e => (e.1, { e.2 with held :=
             (e.2.held.map fun b => (b.1, b.2.filter fun h => h.tag ≠ tag)).filter fun b => !b.2.isEmpty }) }

/-! ### Requests -/

/-- n word addresses from an address. -/
def wordAddrs (a n : Nat) : List Nat := (List.range n).map fun j => a + 32 * j

/-- A refusal under R25; 0x0401 is recorded in 1102h. -/
def State.hostRefuse (s : State) (tag status addr : Nat) : State :=
  (if status = 0x0401 then s.conflict 0xFFFF 0 2 (addr / 2 ^ 24 % 2 ^ 32) else s).hostAnswer tag status []

/-- A request error (R362). -/
def State.requestError (s : State) : State := s.bumpReg 0x722E 8 1

/-- Words of a read that no command holds up are read at once, in order. -/
def State.storageRead (s : State) (tag addr n : Nat) : State :=
  let as := wordAddrs addr n
  let code := s.judgeHost false as
  if addr % 32 ≠ 0 then s.hostAnswer tag hostWidth []
  else if code ≠ 0 then s.hostRefuse tag code addr
  else if s.st = .fault ∧ s.supply.dark then s.hostAnswer tag hostTimeout []
  else
    let s1 := s.settleNow as
    let now := as.filter fun a => !s1.wordHeld a
    let held := as.filter s1.wordHeld
    let r := s1.countReads reqHost now
    match r.2 with
    | some _ => r.1.hostAnswer tag hostEcc []
    | none =>
      if held = [] then r.1.hostAnswer tag hostOk (now.flatMap r.1.hostRecord)
      else
        let t : HostTag := { write := false, addrs := as, got := now.map fun a => (a, r.1.hostRecord a), left := held,
                             since := s.clk.now }
        ({ r.1 with hostTags := tblPut r.1.hostTags tag t } : State).holdWords tag false (held.map fun a => (a, (0, none)))

/-- Words of a write that no command holds up are written at once, in order. -/
def State.storageWrite (s : State) (tag addr n : Nat) (stamped : Bool) (data : List Byte) : State :=
  let as := wordAddrs addr n
  let code := s.judgeHost true as
  if addr % 32 ≠ 0 ∨ data.length ≠ n * (if stamped then 40 else 32) then s.hostAnswer tag hostWidth []
  else if code ≠ 0 then s.hostRefuse tag code addr
  else
    let s1 := s.settleNow as
    let ws := as.zip (hostWords stamped data)
    let held := ws.filter fun w => s1.wordHeld w.1
    let now := ws.filter fun w => !s1.wordHeld w.1
    let s2 := now.foldl (fun (s : State) w => s.hostPut w.1 w.2.1 w.2.2) (s1.settleWrite (now.map Prod.fst))
    if held = [] then s2.hostAnswer tag hostOk []
    else
      let t : HostTag := { write := true, addrs := as, got := [], left := held.map Prod.fst, since := s.clk.now }
      ({ s2 with hostTags := tblPut s2.hostTags tag t } : State).holdWords tag true held

/-- Words of a request that have been done leave it; with none left it completes (R362). -/
def State.tagDone (s : State) (tag : Nat) (as : List Nat) (recs : List (Nat × List Byte)) : State :=
  match tblFind s.hostTags tag with
  | none => s
  | some t =>
    let t1 := { t with got := recs.foldl (fun g r => tblPut g r.1 r.2) t.got, left := t.left.filter fun a => !as.contains a }
    if t1.left = [] then
      (s.dropTag tag).hostAnswer tag hostOk (if t.write then [] else t.addrs.flatMap fun a => tblGet [] t1.got a)
    else { s with hostTags := tblPut s.hostTags tag t1 }

/-! ### HELD_BANK_ACCESS -/

/-- Perform a held access in its ac. -/
def State.doHeld (s : State) (h : HeldAcc) : State :=
  if h.write then
    ((h.addrs.zip h.words).foldl (fun (s : State) w => s.hostPut w.1 w.2.1 w.2.2) s).tagDone h.tag h.addrs []
  else
    let r := s.countReads reqHost h.addrs
    match r.2 with
    | some _ => (r.1.dropTag h.tag).hostAnswer h.tag hostEcc []
    | none => r.1.tagDone h.tag h.addrs (h.addrs.map fun a => (a, r.1.hostRecord a))

def State.heldAccess (s : State) (c : CoreId) (bank : Nat) : State :=
  let v := s.vault c
  match tblGet [] v.held bank with
  | [] => s
  | h :: rest =>
    if !s.clk.d01 then s
    else
      let slot := nextHeldSlot h.arrived
      let late := rest.map fun x => { x with arrived := max x.arrived slot }
      let s1 := (s.advanceAc slot).setVault c { v with held := tblSet [] v.held bank late }
      let sg := slot - sigmaOrigin s.umpire
      let s2 := if h.write then s1.beforeWrite c h.addrs sg else s1.beforeRead c sg
      (s2.writeBack c bank sg h.addrs).doHeld h

def execHeldBankAccess (c : CoreId) (bank : Fin 16) (s : State) : Host.Outcome State Fault Refusal :=
  .next (s.heldAccess c bank.val)

/-! ### Time limits (R363) -/

/-- A host-initiated request that is not complete 1 ms after its arrival: words of a write that wait are
written or not as the command says (log 14). -/
def State.tagTimeout (s : State) (tag : Nat) (wrote : List Bool) : State :=
  match tblFind s.hostTags tag with
  | none => s
  | some t =>
    if s.clk.now < t.since + msUnits then s
    else
      let ws := (s.vaults.flatMap fun e => e.2.held.flatMap fun b => b.2).flatMap fun h =>
        if h.tag = tag ∧ h.write then h.addrs.zip h.words else []
      let done := (ws.zip wrote).filter fun p => p.2
      let s1 := done.foldl (fun (s : State) p => s.hostPut p.1.1 p.1.2.1 p.1.2.2) (s.settleWrite (done.map fun p => p.1.1))
      (s1.dropTag tag).hostAnswer tag hostTimeout []

end Sys2Proof.Machine
end

