-- ==== Sys2Proof/Machine/Copy.lean ====
section
/-! DEFINITION. The copy engine (09 R365-R367, Tables 9.7 to 9.9). -/

namespace Sys2Proof.Machine

def copyObj (ch : Nat) : Nat := 0x7230 + ch

def State.copyJob (s : State) (ch : Nat) : Option CopyJob := tblFind s.copies ch

def State.setCopy (s : State) (ch : Nat) (j : CopyJob) : State := { s with copies := tblPut s.copies ch j }

/-- Address of word j in copy order (R365); none past the unit. A request that begins in a dead vault fails at its first word
(R22), so no word of it lies elsewhere. -/
def State.copyAddr (s : State) (start j : Nat) : Option Nat :=
  match placeOf start with
  | some (.vault c _ _) => if s.vaultDead c then some (start + 32 * j) else s.stagingWord start j
  | some (.sram _ off) => if off + 32 * (j + 1) ≤ sramBytes then some (start + 32 * j) else none
  | some (.well _ off) => if off + 32 * (j + 1) ≤ wellBytes then some (start + 32 * j) else none
  | none => none

/-- A request that would leave its unit is refused; an address that names no unit fails at its first word. -/
def State.copyFits (s : State) (start words : Nat) : Bool :=
  (placeOf start).isNone || (s.copyAddr start (words - 1)).isSome

/-- Host bytes of a word: PLAIN 32; RECORD 40 towards the module and 48 from it. -/
def CopyJob.step (j : CopyJob) : Nat := if !j.record then 32 else if j.toHost then 48 else 40

/-- Words of the next message. -/
def CopyJob.piece (j : CopyJob) : Nat := min 256 (j.words - j.done)

/-- The address of word j and the status of an access to it now (R366), with the conflict recorded. -/
def State.copyJudge (s : State) (j : CopyJob) (k : Nat) (write : Bool) : State × Except Nat Nat :=
  if j.start % 32 ≠ 0 then (s, .error hostWidth)
  else
    match s.copyAddr j.start k with
    | none => (s, .error hostAddr)
    | some a =>
      let c := s.judgeHost write [a]
      if c = 0x0401 then (s.conflict 0xFFFF 0 3 (a / 2 ^ 24 % 2 ^ 32), .error c)
      else if c ≠ 0 then (s, .error c)
      else if s.st = .fault ∧ s.supply.dark then (s, .error hostTimeout)
      else (s, .ok a)

/-- Store words in copy order up to the first that fails, whose status stops the channel. -/
def State.copyStore (s : State) (ch : Nat) (j : CopyJob) : List (EccWord × Option (BitVec 32)) → State
  | [] => s.setCopy ch { j with asked := 0 }
  | w :: ws =>
    let r := s.copyJudge j j.done true
    match r.2 with
    | .error c => r.1.setCopy ch { j with asked := 0, status := c }
    | .ok a => ((r.1.coxBefore true [a]).hostPut a w.1 w.2).copyStore ch { j with done := j.done + 1 } ws

/-- Read n words from word k in copy order: their host bytes, or the status of the first that fails. -/
def State.copyLoad (s : State) (j : CopyJob) : Nat → Nat → List Byte → State × Except Nat (List Byte)
  | 0, _, acc => (s, .ok acc)
  | n + 1, k, acc =>
    let r := s.copyJudge j k false
    match r.2 with
    | .error c => (r.1, .error c)
    | .ok a =>
      let s1 := r.1.coxBefore false [a]
      if s1.eccOf a ≥ 2 then (s1.countRead a reqHost, .error hostEcc)
      else
        let s2 := s1.countRead a reqHost
        s2.copyLoad j n (k + 1) (acc ++ (if j.record then s2.hostRecord a else readBytes s2.mem a 32))

/-- The next message to the host: a read of host memory, or a write of words read now. -/
def State.copyAsk (s : State) (ch : Nat) : State :=
  match s.copyJob ch with
  | none => s
  | some j =>
    let n := j.piece
    if j.status ≠ 0 ∨ j.asked ≠ 0 ∨ n = 0 then s
    else
      let host := j.hostAddr + j.done * j.step
      let asked := { j with asked := n, since := s.clk.now }
      if j.toHost then
        let r := s.copyLoad j n j.done []
        match r.2 with
        | .error c => r.1.setCopy ch { j with status := c }
        | .ok data =>
          ((r.1.setCopy ch asked).send
            (.hostRequest (BitVec.ofNat 8 ch) true (BitVec.ofNat 64 host) n data)).sendOn 30 0 (256 + ch)
            (hostHeader 10 true ch n host 0 ++ data)
      else
        ((s.setCopy ch asked).send (.hostRequest (BitVec.ofNat 8 ch) false (BitVec.ofNat 64 host) n [])).sendOn 30 0
          (256 + ch) (hostHeader 9 true ch n host 0)

/-- GO (Table 9.9): the channel is busy and asks for its first piece. -/
def State.copyStart (s : State) (ch : Nat) (toHost record : Bool) : State :=
  let j : CopyJob := { toHost := toHost, record := record, hostAddr := s.regN (copyObj ch) 1, start := s.regN (copyObj ch) 2,
                       words := s.regN (copyObj ch) 3 / 32, done := 0, asked := 0, status := 0, since := s.clk.now }
  (((s.setCopy ch j).setRegN (copyObj ch) 5 1).setRegN (copyObj ch) 7 0).copyAsk ch

/-- DONE_BYTES of the words done. -/
def State.copyShow (s : State) (ch : Nat) : State :=
  match s.copyJob ch with
  | some j => s.setRegN (copyObj ch) 7 (32 * j.done)
  | none => s

/-- A COMPLETION of the host: data of a read, or the end of a write. One whose length does not fit its
request, or with a reserved byte that is not zero, ends as BUS_ERROR_WIDTH (log 45). -/
def State.copyCompletion (s : State) (ch status : Nat) (data : List Byte) : State :=
  match s.copyJob ch with
  | none => s
  | some j =>
    if j.asked = 0 ∨ !s.hostHears then s
    else if status ≠ 0 then s.setCopy ch { j with asked := 0, status := status }
    else if j.toHost then ((s.setCopy ch { j with asked := 0, done := j.done + j.asked }).copyShow ch).copyAsk ch
    else if data.length ≠ j.asked * j.step ∨ (j.record ∧ !stampedOk data) then s.setCopy ch { j with asked := 0, status := hostWidth }
    else ((s.copyStore ch j (hostWords j.record data)).copyShow ch).copyAsk ch

def execHostCompletionReceived (t : Time) (tag : BitVec 8) (status : BitVec 16) (data : List Byte) (s : State) :
    Host.Outcome State Fault Refusal := .next ((s.advance t).copyCompletion tag.toNat status.toNat data)

/-- A read of host memory unanswered for 1 ms (R363, Table 9.8). -/
def State.copyTimeout (s : State) (ch : Nat) : State :=
  match s.copyJob ch with
  | none => s
  | some j =>
    if j.toHost ∨ j.asked = 0 ∨ s.clk.now < j.since + msUnits then s else s.setCopy ch { j with asked := 0, status := hostTimeout }

def execHostRequestTimeout (t : Time) (tag : BitVec 8) (init : Bool) (wrote : List Bool) (s : State) :
    Host.Outcome State Fault Refusal :=
  let s1 := s.advance t
  .next (if init then s1.copyTimeout tag.toNat else s1.tagTimeout tag.toNat wrote)

/-- COPY_REQUEST_END: all words done, or the first failing word. -/
def State.copyEnd (s : State) (ch : Nat) : State :=
  match s.copyJob ch with
  | none => s
  | some j =>
    let finished := decide (j.done = j.words) && !(j.toHost && (j.lost || s.copyUnacked ch))
    if j.status = 0 ∧ !finished then s
    else
      let s1 := (({ s with copies := tblDel s.copies ch } : State).setRegN (copyObj ch) 7 (32 * j.done)).setRegN
        (copyObj ch) 6 j.status
      ((s1.setRegN (copyObj ch) 5 (if j.status = 0 then 2 else 3)).bumpReg (copyObj ch) 8 1).event evCopyEnded

def execCopyRequestEnd (t : Time) (ch : Fin 16) (s : State) : Host.Outcome State Fault Refusal :=
  .next ((s.advance t).copyEnd ch.val)

end Sys2Proof.Machine
end

