-- ==== Sys2Proof/Machine/CrewTree.lean ====
section
/-! DEFINITION. The tree of a layer, packet bodies, wire encodings and the data of crews (07 R260-R282,
R291, R292; 09 R350). -/

namespace Sys2Proof.Machine

/-! ### Positions (R263-R265) -/

/-- Trailing zero bits of p, up to 13. -/
def trailGo : Nat → Nat → Nat
  | 0, _ => 0
  | n + 1, p => if p % 2 = 0 then 1 + trailGo n (p / 2) else 0

def trailing (p : Nat) : Nat := trailGo 13 p

def treeSpan (n p : Nat) : Nat := if p = 0 then n else 2 ^ trailing p

/-- Children in ascending k. -/
def treeChildren (n p : Nat) : List Nat :=
  ((List.range 13).filter fun k => decide (2 ^ k < treeSpan n p) && decide (p + 2 ^ k < n)).map fun k => p + 2 ^ k

def treeParent (p : Nat) : Nat := p - 2 ^ trailing p

def subtree (n p : Nat) : List Nat := span p (min (p + treeSpan n p) n - p)

def heightGo (n : Nat) : Nat → Nat → Nat
  | 0, _ => 1
  | k + 1, p => 1 + ((treeChildren n p).map (heightGo n k)).foldl max 0

/-- h(q) (R265). -/
def treeHeight (n p : Nat) : Nat := heightGo n 13 p

def CrewDef.size (d : CrewDef) : Nat := d.members.length

/-- Position of a member index in a layer's tree, and the member index at a position. -/
def CrewDef.posOf (d : CrewDef) (l : CrewLayer) (i : Nat) : Nat := (i + d.size - d.members.idxOf l.owner) % d.size

def CrewDef.idxAt (d : CrewDef) (l : CrewLayer) (p : Nat) : Nat := (p + d.members.idxOf l.owner) % d.size

def CrewDef.rankAt (d : CrewDef) (l : CrewLayer) (p : Nat) : Nat := d.members.getD (d.idxAt l p) 0

def CrewDef.layer (d : CrewDef) (id : Nat) : Option CrewLayer := d.layers.find? fun l => l.id = id

/-! ### Bodies (Tables 7.12 to 7.14) -/

/-- A bitmap of 4,096 members as 16 words, and its indices. -/
def bitmapWords (is : List Nat) : List EccWord :=
  (List.range 16).map fun k => BitVec.ofNat 256 ((List.range 256).foldl
    (fun a j => if is.contains (256 * k + j) then a + 2 ^ j else a) 0)

def bitmapOf (ws : List EccWord) : List Nat :=
  (List.range 4096).filter fun i => bit (ws.getD (i / 256) 0) (i % 256)

def b2n (p : Bool) : Nat := if p then 1 else 0

def layerBodyWords (b : LayerBody) : List EccWord :=
  BitVec.ofNat 256 (b.nchunk + 2 ^ 32 * b2n b.nfSum + 2 ^ 33 * b2n (!b.nf.isEmpty) + 2 ^ 48 * b.absent.length +
    2 ^ 64 * (b.satChunks % 2 ^ 32)) :: (bitmapWords b.absent ++ bitmapWords b.nf)

def layerBodyOf (ws : List EccWord) : LayerBody :=
  let w := ws.getD 0 0
  { nchunk := fld w 0 32, nfSum := bit w 32, satChunks := fld w 64 32,
    absent := bitmapOf ((ws.drop 1).take 16), nf := bitmapOf ((ws.drop 17).take 16) }

/-- Body of a seal with the unions of every epilogue. -/
def sealWords (b : SealBody) (nonfin : Nat) (offenders absent : List Nat) : List EccWord :=
  BitVec.ofNat 256 (b2n b.skip + 4 * b2n b.nfAny + 8 * b2n b.nfSum + 16 * nonfin + 2 ^ 16 * b.absentLayers) ::
    (bitmapWords offenders ++ bitmapWords absent)

def sealBodyOf (step : BitVec 32) (ws : List EccWord) : SealBody :=
  let w := ws.getD 0 0
  { step := step, skip := decide (fld w 0 2 = 1), nfAny := bit w 2, nfSum := bit w 3, absentLayers := fld w 16 16 }

/-- The seal record (Table 7.14). -/
def sealRecord (b : SealBody) : EccWord :=
  BitVec.ofNat 256 (b.step.toNat + 2 ^ 32 * (if b.skip then 0 else 0x3F800000) + 2 ^ 64 * b2n b.skip +
    2 ^ 66 * b2n b.nfAny + 2 ^ 67 * b2n b.nfSum + 2 ^ 80 * b.absentLayers)

/-! ### Chunks of storage (R260, R261, R275, R292) -/

def CrewLayer.chunkElems (l : CrewLayer) (j : Nat) : Nat :=
  if j + 1 < l.chunks then 4096 else 1024 * (l.nk - 4 * (l.chunks - 1))

/-- Address of a chunk of an area that begins at an extent. -/
def CrewDef.chunkAddr (d : CrewDef) (l : CrewLayer) (first j : Nat) : Option Nat :=
  ((extentRun d.extents first l.chunks).find? fun e => decide (e.2.2 ≤ j) && decide (j < e.2.2 + e.2.1)).map
    fun e => e.1 + 16384 * (j - e.2.2)

def f32Words (vals : List F32) : List EccWord := packWords 4 (vals.map (·.toNat))

def wordF32s (ws : List EccWord) : List F32 := ws.flatMap fun w => (List.range 8).map (f32At w)

/-- A chunk read by a port engine (requester 3), in order with the schedule: an uncorrectable word makes all of it NaN (R275,
R292). -/
def State.readChunk (s : State) (d : CrewDef) (l : CrewLayer) (first j : Nat) : State × List F32 :=
  let n := l.chunkElems j
  match d.chunkAddr l first j with
  | none => (s, List.replicate n f32Nan)
  | some a =>
    let r := s.readFor reqPort ((List.range (n / 8)).map fun k => a + 32 * k)
    match r.2 with
    | none => (r.1, List.replicate n f32Nan)
    | some ws => (r.1, wordF32s ws)

def f32Finite (x : F32) : Bool := (xOfF32 x).isFin

/-- Elementwise sums in FP32 (R63), and their events: one became infinite from finite operands exactly where `inf` counts it
(R62, R282). -/
def addChunks (a b : List F32) : List F32 × Ev := evMap (fun p : F32 × F32 => f32Add p.1 p.2) (a.zip b)

/-- The own contribution: the gradient first, then any pending carry (R294); with the events of that sum. -/
def State.ownChunk (s : State) (r : CrewRun) (l : CrewLayer) (j : Nat) : State × List F32 × Ev :=
  let g := s.readChunk r.defn l l.contrib j
  match (if r.carries.contains l.id then l.carry else none) with
  | none => (g.1, g.2, Ev.zero)
  | some c =>
    let k := g.1.readChunk r.defn l c j
    (k.1, addChunks g.2 k.2)

/-- The bytes from a on that fall in the word at w. A word they do not fill is read first; while it is uncorrectable it stays
as it is (log 63). -/
def State.pokeWord (a : Nat) (bs : List Byte) (s : State) (w : Nat) : State :=
  let lo := max a w
  let hi := min (a + bs.length) (w + 32)
  let new := (bs.drop (lo - a)).take (hi - lo)
  if new.length = 32 then s.coxWrites w [wordOfBytes new]
  else
    let r := s.readFor reqPort [w]
    match r.2 with
    | none => r.1
    | some ws =>
      let old := bytesOfWords ws
      r.1.coxWrites w [wordOfBytes (old.take (lo - w) ++ new ++ old.drop (hi - w))]

/-- Store bytes that need not fill whole words. -/
def State.poke (s : State) (a : Nat) (bs : List Byte) : State :=
  let first := a / 32 * 32
  ((List.range (ceilDiv (a - first + bs.length) 32)).map fun k => first + 32 * k).foldl (State.pokeWord a bs) s

/-! ### Wire encodings (R279-R281) -/

/-- The code of a chunk in the own scale table; none when its word is uncorrectable (R292). -/
def State.scaleCode (s : State) (d : CrewDef) (l : CrewLayer) (j : Nat) : State × Option Nat :=
  let a := d.scaleAddr + l.scaleOff + j
  let r := s.readFor reqPort [a / 32 * 32]
  (r.1, r.2.map fun ws => ((bytesOfWords ws).getD (a % 32) 0).toNat)

/-- BS8 words of a chunk with the events of its encoding. -/
def encodeWire (code : Option Nat) (vals : List F32) : List EccWord × Ev :=
  let enc := evMap (fun b : List F32 =>
    match code with
    | some c => encodeSupplied blockBs8 c (b.map xOfF32)
    | none => (blkNan, Ev.oneBlockNan)) (chunksOf 32 vals)
  ((chunksOf 32 enc.1).flatMap fun bl => groupOfBlocks true bl, enc.2)

/-- The values of a received BS8 chunk, and the blocks that R51 refuses. -/
def decodeWire (ws : List EccWord) : List F32 × Ev :=
  let r := evMap (fun b => widenBlock true b) ((chunksOf 33 ws).flatMap fun g => blocksOfGroup true g)
  (r.1.flatten, r.2)

/-- Events of the link engine reach 5200h at the next boundary; its saturations are WIRE_SAT's alone (R50, R66, R67). -/
def State.linkEvents (s : State) (e : Ev) : State := s.gather { e with sat := 0 }

/-- ceil(log2 (2M)) + 119 for a finite magnitude M = m * 2^e. -/
def codeOfMag (m : Nat) (e : Int) : Nat := (max 0 (min 246 (e + 1 + (ceilLog2 m : Nat) + 119))).toNat

/-- The next scale code of a chunk (R281). -/
def nextCode (c : Nat) (sat : Bool) (sums : List F32) : Nat :=
  let xs := (sums.map xOfF32).filter fun x => !x.isNan
  let cm :=
    if xs.any Xf.isInf then 246
    else match amaxOf xs with
      | .fin _ m e => if m = 0 then c else codeOfMag m e
      | _ => c
  if sat then max cm (min (c + 1) 246) else cm

/-! ### Open transfers of port engines (R350, R353) -/

/-- The route for a transfer to a sink: the fewest flits queued, then the lowest route word index. -/
def State.pickRoute (s : State) (sink : Nat) : Option OpenRoute :=
  match s.image with
  | none => none
  | some im =>
    (im.openRoutes.filter fun o => o.sinks.contains sink).foldl
      (fun (b : Option OpenRoute) o =>
        let rank := fun (o : OpenRoute) => [(tblGet [] s.openQ o.key).length, o.key % 16384, o.key]
        match b with
        | none => some o
        | some p => if lexLt (rank o) (rank p) then some o else b) none

/-- The flits of a transfer: seven words each, the last marked and naming the mailbox. -/
def openFlits (route port dest mb : Nat) (ws : List EccWord) : List MeshFlit :=
  let cs := chunksOf 7 ws
  cs.zipIdx.map fun p =>
    { valid := true, kind := .opened route port,
      words := openHeader (dest + 224 * p.2) p.1.length (decide (p.2 + 1 = cs.length)) mb ::
        (p.1 ++ List.replicate (7 - p.1.length) 0) }

/-- Queue a transfer; none when no open route ends at the sink of its destination. -/
def State.openSend (s : State) (port dest mb : Nat) (ws : List EccWord) : Option State :=
  match (placeOf dest).bind sinkOf with
  | none => none
  | some k =>
    (s.pickRoute (sinkKey k)).map fun o =>
      { s with openQ := tblMod [] s.openQ o.key (· ++ openFlits o.key port dest mb ws) }

/-- Destinations of the open flits that wait, travel or are not yet written. -/
def State.openDests (s : State) : List Nat :=
  let isOpen := fun (f : MeshFlit) => match f.kind with | .opened _ _ => f.valid | _ => false
  ((s.openQ.flatMap Prod.snd).filter isOpen ++ (s.flits.map (·.flit)).filter isOpen).map (fun f => openDest (f.words.getD 0 0)) ++
    (s.sinks.flatMap Prod.snd).map fun f => openDest (f.words.getD 0 0)

end Sys2Proof.Machine
end

