-- ==== Sys2Proof/Machine/Crew.lean ====
section
/-! DEFINITION. Crews and the link engine (07 R268-R299; 12 R457, R458). -/

namespace Sys2Proof.Machine

def State.crew (s : State) (c : Nat) : Option CrewRun := tblFind s.crews c

def State.setCrew (s : State) (c : Nat) (r : CrewRun) : State := { s with crews := tblPut s.crews c r }

def State.crewReg (s : State) (c k v : Nat) : State := s.setRegN (0x7010 + c) k v

/-- A packet or notice discarded under 07 (DISCARDS). -/
def State.discard (s : State) (c : Nat) : State := s.bumpReg (0x7010 + c) 10 1

def CrewRun.node (r : CrewRun) (l : Nat) : NodeState := tblGet NodeState.start r.nodes l

def CrewRun.setNode (r : CrewRun) (l : Nat) (n : NodeState) : CrewRun :=
  { r with nodes := tblSet NodeState.start r.nodes l n }

def State.setNode (s : State) (c : Nat) (r : CrewRun) (l : Nat) (n : NodeState) : State := s.setCrew c (r.setNode l n)

/-- Own member index and position. -/
def State.ownIdx (s : State) (d : CrewDef) : Nat := d.members.idxOf s.jobRank

def State.ownPos (s : State) (d : CrewDef) (l : CrewLayer) : Nat := d.posOf l (s.ownIdx d)

/-- Mailboxes of a crew event (Tables 4.9, 7.8). -/
def State.crewMbs (s : State) (c ev : Nat) : List Nat :=
  match s.image with
  | some im => (im.mbs.filter fun m => decide (m.kind = 3) && decide (m.tag = c + 256 * ev)).map (·.id)
  | none => []

def State.crewEvent (s : State) (c ev : Nat) : State := (s.crewMbs c ev).foldl (fun (s : State) m => s.fillMailbox m 1) s

/-- An update-only image names no PREAMBLE or EPILOGUE mailbox (R326). -/
def State.updateOnly (s : State) : Bool :=
  match s.image with
  | some im => !(im.mbs.any fun m => decide (m.kind = 3) && decide (m.tag / 256 = 1 ∨ m.tag / 256 = 2))
  | none => false

def State.fwMajor (s : State) : Nat := (s.sec.slotImage s.sec.booted).version.toNat / 2 ^ 24

/-- One packet to a rank of the crew. -/
def State.crewSend (s : State) (c kind wire : Nat) (step : BitVec 32) (layer chunk dst flags : Nat) (body : List EccWord) :
    State :=
  s.sendPacket (pkHeader kind wire c step layer chunk s.jobRank dst flags (32 * body.length)) body

def State.crewSendAll (s : State) (c kind : Nat) (r : CrewRun) (layer chunk : Nat) (body : List EccWord) : State :=
  (r.defn.members.filter (· ≠ s.jobRank)).foldl (fun s m => s.crewSend c kind 0 r.step layer chunk m 0 body) s

/-! ### The node work of a layer (R266, R277-R286) -/

def chunkKey (p j : Nat) : Nat := p * 2 ^ 24 + j

/-- What the present children hold for a chunk, in ascending k; none while one is undecided or its chunk
has not come. -/
def NodeState.inputs (n : NodeState) (kids : List Nat) (j : Nat) : Option (List ChunkIn) :=
  kids.foldl (fun (a : Option (List ChunkIn)) q =>
    match a, tblFind n.children q with
    | some l, some true => (tblFind n.chunks (chunkKey q j)).map fun x => l ++ [x]
    | some l, some false => some l
    | _, _ => none) (some [])

/-- The sum of R266: the own contribution when it is included, then the children's; with its events. -/
def sumChunk (own : Option (List F32)) (ins : List ChunkIn) : Option (List F32) × Ev :=
  ins.foldl (fun a x =>
    match x.vals with
    | none => a
    | some v =>
      match a.1 with
      | none => (some v, a.2)
      | some w => let r := addChunks w v; (some r.1, a.2.plus r.2)) (own, Ev.zero)

/-- The root forms the code of chunk j for the next step from c_j, the code that the step's preamble set: the table's, or the
one kept when the chunk is summed again (R281, R298). With the table's word uncorrectable there is none to form, nor a word
to write it into (log 63). -/
def State.rootCode (s : State) (d : CrewDef) (l : CrewLayer) (n : NodeState) (j : Nat) (sat : Bool) (acc : Option (List F32)) :
    State × NodeState :=
  let a := d.scaleAddr + l.scaleOff + j
  let q := s.readFor reqPort [a / 32 * 32]
  match q.2 with
  | none => (q.1, n)
  | some ws =>
    let bs := bytesOfWords ws
    let c := (tblFind n.codes j).getD (bs.getD (a % 32) 0).toNat
    (q.1.coxWrites (a / 32 * 32) [wordOfBytes (bs.set (a % 32) (BitVec.ofNat 8 (nextCode c sat (acc.getD []))))],
      { n with codes := tblPut n.codes j c })

/-- The root writes a sum and forms the chunk's next code (R277, R281). -/
def State.rootWrite (s : State) (c : Nat) (r : CrewRun) (l : CrewLayer) (n : NodeState) (j : Nat) (sat : Bool)
    (acc : Option (List F32)) : State × NodeState :=
  let d := r.defn
  let vals := acc.getD (List.replicate (l.chunkElems j) 0)
  let s1 := match l.dest.bind fun f => d.chunkAddr l f j with
    | some a => (s.openSend (s.homePort c l.id) a d.sumMb (f32Words vals)).getD s
    | none => s
  if d.bs8 then s1.rootCode d l n j sat acc else (s1, n)

/-- A node passes its sum on, encoded (R279, R282); what it answers is whether its own encoding saturated. -/
def State.passOn (s : State) (c : Nat) (r : CrewRun) (l : CrewLayer) (j : Nat) (nf sat nfSum : Bool)
    (acc : Option (List F32)) : State × Bool :=
  let d := r.defn
  let parent := d.rankAt l (treeParent (s.ownPos d l))
  let wire := if d.bs8 then 4 else 3
  match acc with
  | none => (s.crewSend c 1 wire r.step l.id j parent (pkFlags nf sat nfSum true false) [], false)
  | some v =>
    if d.bs8 then
      let k := s.scaleCode d l j
      let e := encodeWire k.2 v
      let own := decide (e.2.sat > 0)
      ((((k.1.linkEvents e.2).bumpReg (0x7010 + c) 9 e.2.sat).crewSend c 1 wire r.step l.id j parent (pkFlags nf (sat || own) nfSum false false) e.1), own)
    else (s.crewSend c 1 wire r.step l.id j parent (pkFlags nf sat nfSum false false) (f32Words v), false)

/-- One chunk: summed, written or sent, and the present children's credit extended. A sum that becomes infinite from finite
operands sets NF_SUM, but for one that the BS8 wire carries on, where it saturates (R282). -/
def State.sumStep (s : State) (c : Nat) (r : CrewRun) (l : CrewLayer) (n : NodeState) (ins : List ChunkIn) : State :=
  let d := r.defn
  let p := s.ownPos d l
  let j := n.next
  let k := s.ownChunk r l j
  let bad := k.2.1.any fun x => !f32Finite x
  let sum := sumChunk (if n.excluded then none else some k.2.1) ins
  let nf := bad || ins.any (·.nf)
  let sat := ins.any (·.sat)
  let made := (if n.excluded then Ev.zero else k.2.2).plus sum.2
  let nfSum := (decide (made.inf > 0) && (!d.bs8 || decide (p = 0))) || ins.any (·.nfSum)
  let s0 := k.1.linkEvents made
  let w := if p = 0 then let x := s0.rootWrite c r l n j sat sum.1; (x.1, false, x.2)
    else let x := s0.passOn c r l j nf sat nfSum sum.1; (x.1, x.2, n)
  let kids := (treeChildren d.size p).filter fun q => tblFind n.children q = some true
  let s1 := kids.foldl (fun s q => s.crewSend c 6 0 r.step l.id (j + 8) (d.rankAt l q) 0 []) w.1
  s1.setNode c r l.id
    { w.2.2 with
             next := j + 1, ownNf := n.ownNf || bad, nfSum := n.nfSum || nfSum
             satChunks := n.satChunks + (if w.2.1 then 1 else 0)
             chunks := (treeChildren d.size p).foldl (fun t q => tblDel t (chunkKey q j)) n.chunks }

/-- The body of a node's trailer, or of the root's epilogue (R286, Table 7.12). -/
def NodeState.body (n : NodeState) (chunks idx : Nat) : LayerBody :=
  let ts := n.trailers.map Prod.snd
  { nchunk := chunks, nfSum := n.nfSum || ts.any (·.nfSum), satChunks := ts.foldl (fun a t => a + t.satChunks) n.satChunks,
    absent := (ts.foldl (fun a t => a ++ t.absent) n.absent).eraseDups,
    nf := (ts.foldl (fun a t => a ++ t.nf) (if n.ownNf then [idx] else [])).eraseDups }

/-- Every present child's trailer has come. -/
def NodeState.trailersIn (n : NodeState) : Bool :=
  n.children.all fun e => !e.2 || (tblFind n.trailers e.1).isSome

/-- One step of a node that can go on: the next chunk, or the trailer. -/
def State.nodeStep (s : State) (c : Nat) (lid : Nat) : Option State :=
  (s.crew c).bind fun r => (r.defn.layer lid).bind fun l =>
    let n := r.node lid
    let p := s.ownPos r.defn l
    if n.ready.isNone ∨ n.late then none
    else if n.next < l.chunks then
      if p > 0 ∧ n.next ≥ n.credit then none
      else (n.inputs (treeChildren r.defn.size p) n.next).map fun ins => s.sumStep c r l n ins
    else if p > 0 ∧ !n.trailerSent ∧ n.trailersIn then
      let b := n.body l.chunks (s.ownIdx r.defn)
      some ((s.crewSend c 2 0 r.step lid 0 (r.defn.rankAt l (treeParent p)) 0 (layerBodyWords b)).setNode c r lid
        { n with trailerSent := true })
    else none

def State.nodeGo (c lid : Nat) : Nat → State → State
  | 0, s => s
  | k + 1, s => match s.nodeStep c lid with | some t => State.nodeGo c lid k t | none => s

/-- A node goes on as far as it can. -/
def State.progress (s : State) (c lid : Nat) : State :=
  match (s.crew c).bind fun r => r.defn.layer lid with
  | some l => State.nodeGo c lid (l.chunks + 1) s
  | none => s

/-- The ready instant (R276, R277): credits for chunks 0 to 7; under a restart with RESTART to the present
children (R298). -/
def State.nodeReady (s : State) (c lid : Nat) : State :=
  match s.crew c with
  | none => s
  | some r =>
    match r.defn.layer lid with
    | none => s
    | some l =>
      let n := r.node lid
      let kids := (treeChildren r.defn.size (s.ownPos r.defn l)).filter fun q => tblFind n.children q ≠ some false
      let s1 := kids.foldl (fun s q =>
        let again := n.restarted && decide (tblFind n.children q = some true)
        s.crewSend c 6 0 r.step lid 7 (r.defn.rankAt l q) (pkFlags false false false false again) []) s
      (s1.setNode c r lid { n with ready := some s.clk.now }).progress c lid

/-- A notice and the complete preamble are there: the node starts, or its test pass does (R276). -/
def State.nodeTry (s : State) (c lid : Nat) : State :=
  match s.crew c with
  | none => s
  | some r =>
    let n := r.node lid
    if r.complete ∧ n.noticed ∧ n.ready.isNone ∧ !n.late ∧ r.defn.nonfin ≠ 1 then s.nodeReady c lid else s

/-- ZERO_RANK_TEST_END: the own contribution is excluded when the test met a non-finite element (R291). -/
def State.testEnd (s : State) (c lid : Nat) : State :=
  match s.crew c with
  | none => s
  | some r =>
    match r.defn.layer lid with
    | none => s
    | some l =>
      let n := r.node lid
      if r.defn.nonfin = 1 ∧ r.complete ∧ n.noticed ∧ n.ready.isNone ∧ !n.late then
        let t := (List.range l.chunks).foldl (fun (a : State × Bool) j =>
          let k := a.1.ownChunk r l j
          (k.1, a.2 || k.2.1.any fun x => !f32Finite x)) (s, false)
        (t.1.setNode c r lid { n with excluded := t.2, ownNf := t.2 }).nodeReady c lid
      else s

def execZeroRankTestEnd (t : Time) (crew : BitVec 8) (layer : BitVec 16) (s : State) : Host.Outcome State Fault Refusal :=
  .next ((s.advance t).testEnd crew.toNat layer.toNat)

/-! ### Preambles (R268-R271) -/

/-- A word of the scale table as a preamble carries it; with the word uncorrectable, its codes are free (log 63). -/
def State.scaleWord (s : State) (w : Nat) : State × EccWord := s.wordFor reqPort w

/-- The codes of a layer in the own scale table. -/
def State.layerCodes (s : State) (d : CrewDef) (l : CrewLayer) : State × List Byte :=
  let a := d.scaleAddr + l.scaleOff
  let first := a / 32 * 32
  let r := ((List.range (ceilDiv (a - first + l.chunks) 32)).map fun k => first + 32 * k).foldl
    (fun (p : State × List Byte) w => let q := p.1.scaleWord w; (q.1, p.2 ++ bytesOfWord q.2)) (s, [])
  (r.1, (r.2.drop (a - first)).take l.chunks)

/-- Scale records of the layers that this module owns (Table 7.9). -/
def State.scaleRecords (s : State) (d : CrewDef) : State × List EccWord :=
  (d.layers.filter fun l => d.bs8 && decide (l.owner = s.jobRank)).foldl
    (fun (p : State × List EccWord) l =>
      let q := p.1.layerCodes d l
      (q.1, p.2 ++ BitVec.ofNat 256 (l.id + 2 ^ 16 * l.chunks) :: wordsOfBytes q.2)) (s, [])

def State.preambleBody (s : State) (c : Nat) (r : CrewRun) : State × List EccWord :=
  let q := s.scaleRecords r.defn
  (q.1, wordsOfBytes ((s.dom (0x7010 + c) 5 ++ leBytes 48 0).take 48 ++ leBytes 2 s.fwMajor ++ leBytes 1 (s.regN 0x3040 2) ++
    leBytes 13 0) ++ q.2)

/-- Scale codes of a preamble go into the own scale table (R270). -/
def State.takeScales (s : State) (d : CrewDef) : Nat → List EccWord → State
  | 0, _ => s
  | k + 1, ws =>
    match ws with
    | [] => s
    | h :: t =>
      let n := fld h 16 24
      let m := ceilDiv n 32
      let s1 := match d.layer (fld h 0 16) with
        | some l => s.poke (d.scaleAddr + l.scaleOff) ((bytesOfWords (t.take m)).take (min n l.chunks))
        | none => s
      s1.takeScales d k (t.drop m)

/-- A crew error (R269): the crew stops and the umpire halts the module at the next boundary. -/
def State.crewError (s : State) (c code : Nat) : State :=
  let s1 := ((s.crewReg c 6 4).setRegN 0x7010 5 code).event evCrewError
  let s2 := match s1.crew c with | some r => s1.setCrew c { r with started := false } | none => s1
  if s2.st = .running then s2.haltSoon 0x0A else s2

/-- The preamble of the step is complete: the PREAMBLE event, the agreed level, and the notices that waited
(R270, R276, R458). -/
def State.preambleDone (s : State) (c : Nat) (r : CrewRun) : State :=
  let s1 := ((s.setCrew c { r with complete := true }).crewReg c 6 3).crewEvent c 1
  let s2 := if s1.levelCrew = some c then s1.agree ((r.counted.map Prod.snd).foldl max 0) else s1
  (r.nodes.map Prod.fst).foldl (fun s l => s.nodeTry c l) s2

/-- Count a member's preamble. -/
def State.countPreamble (s : State) (c i rate : Nat) : State :=
  match s.crew c with
  | none => s
  | some r =>
    let r1 := { r with counted := tblPut r.counted i rate }
    if !r.complete ∧ r1.counted.length = r.defn.size then s.preambleDone c r1 else s.setCrew c r1

/-- Check a preamble of the current step (R269) and count it. -/
def State.checkPreamble (s : State) (c : Nat) (h : HeldPreamble) : State :=
  match s.crew c with
  | none => s
  | some r =>
    let bs := bytesOfWords (h.body.take 2)
    if !r.started then s
    else if bs.take 48 ≠ (s.dom (0x7010 + c) 5 ++ leBytes 48 0).take 48 then s.crewError c 0x0B01
    else if leNat ((bs.drop 48).take 2) ≠ s.fwMajor then s.crewError c 0x0B02
    else if h.step ≠ r.step then s.crewError c 0x0B03
    else (s.takeScales r.defn r.defn.layers.length (h.body.drop 2)).countPreamble c (r.defn.members.idxOf h.src) ((bs.getD 50 0).toNat)

/-- The own preamble goes to every other member and is counted (R268); held ones follow (R271). -/
def State.sendPreamble (s : State) (c : Nat) : State :=
  match s.crew c with
  | none => s
  | some r =>
    let held := r.held.filter fun h => h.step = r.step
    let body := s.preambleBody c r
    let s1 := body.1.crewSendAll c 5 r 0 0 body.2
    let s2 := s1.countPreamble c (s.ownIdx r.defn) (s.regN 0x3040 2)
    let s3 := match s2.crew c with
      | some k => s2.setCrew c { k with held := k.held.filter fun h => h.step ≠ r.step }
      | none => s2
    held.foldl (fun s h => s.checkPreamble c h) s3

def State.preambleIn (s : State) (c src : Nat) (step : BitVec 32) (body : List EccWord) : State :=
  match s.crew c with
  | none => s
  | some r =>
    let h : HeldPreamble := { src := src, step := step, body := body }
    if !r.defn.members.contains src then s.discard c
    else if !r.started ∨ step = r.step + 1 then s.setCrew c { r with held := r.held ++ [h] }
    else s.checkPreamble c h

/-! ### Seals and carries (R289-R297) -/

/-- Verdict of the crew's policy (Table 7.15). -/
def skipVerdict (nonfin : Nat) (nfAny nfSum : Bool) : Bool :=
  match nonfin with
  | 0 => nfAny || nfSum
  | 1 => nfSum
  | _ => false

/-- Layers in which this module was absent (R293). -/
def State.absentLayers (s : State) (r : CrewRun) : List CrewLayer :=
  r.defn.layers.filter fun l =>
    match (r.node l.id).epilogue with | some b => b.absent.contains (s.ownIdx r.defn) | none => false

/-- An absent member's carry: a finite contribution is written as an open transfer and pending; a non-finite one clears
it (R294). -/
def State.writeCarry (s : State) (c : Nat) (l : CrewLayer) : State :=
  match s.crew c, l.carry with
  | some r, some f =>
    let t := (List.range l.chunks).foldl (fun (a : State × List (List F32)) j =>
      let k := a.1.ownChunk r l j
      (k.1.linkEvents k.2.2, a.2 ++ [k.2.1])) (s, [])
    let finite := t.2.all fun v => v.all f32Finite
    let rest := r.carries.filter (· ≠ l.id)
    if finite then
      let s1 := t.2.zipIdx.foldl (fun (s : State) p =>
        match r.defn.chunkAddr l f p.2 with
        | some a => (s.openSend (s.homePort c l.id) a r.defn.sumMb (f32Words p.1)).getD s
        | none => s) t.1
      s1.setCrew c { r with carries := rest ++ [l.id] }
    else t.1.setCrew c { r with carries := rest }
  | _, _ => s

/-- What the seal waits for: the epilogue of every layer, and under ADD_NEXT with APPLY the notice of every
layer in which this module was absent (R290 step 1, R297). -/
def State.sealReady (s : State) (r : CrewRun) (b : SealBody) : Bool :=
  (r.defn.layers.all fun l => (r.node l.id).epilogue.isSome) &&
    (r.defn.drop || b.skip || (s.absentLayers r).all fun l => (r.node l.id).noticed)

/-- Step 1 of R290: the carry actions. -/
def State.carryActions (s : State) (c : Nat) (r : CrewRun) (b : SealBody) : State :=
  if b.skip then s
  else
    let gone := (s.absentLayers r).map (·.id)
    let kept := r.carries.filter gone.contains
    let s1 := s.setCrew c { r with carries := kept }
    if r.defn.drop then s1 else (s.absentLayers r).foldl (fun s l => s.writeCarry c l) s1

/-- Steps 3 to 6 of R290: the SEAL event, the step numbers, the counters, and the preamble of the next step. -/
def State.sealSteps (s : State) (c : Nat) (r : CrewRun) (b : SealBody) : State :=
  let n := b.step.toNat
  let s2 := (s.sealFill n (s.crewMbs c 3)).crewReg c 7 n
  let s3 := if s2.regN 0x7010 3 = n then s2.setRegN 0x7010 3 ((n + 1) % 2 ^ 32) else s2
  let s4 := ((s3.bumpReg (0x7010 + c) 8 (s.absentLayers r).length).bumpReg (0x7010 + c) 11 (b2n b.nfAny)).bumpReg
    (0x7010 + c) 12 (b2n b.skip)
  let s5 := match s4.crew c with
    | some k => s4.setCrew c { k with step := b.step + 1, counted := [], complete := false, nodes := [], sealSent := false,
                                      sealed := none, sealStage := 0 }
    | none => s4
  ((s5.crewReg c 6 2).formRequest).sendPreamble c

/-- Open flits to one of these areas are not all written yet. -/
def State.openTo (s : State) (areas : List (Nat × Nat)) : Bool :=
  s.openDests.any fun a => areas.any fun e => decide (e.1 ≤ a) && decide (a < e.1 + e.2)

/-- How far a seal's processing has come. -/
def State.sealAt (s : State) (c k : Nat) : State :=
  match s.crew c with
  | some r => s.setCrew c { r with sealStage := k }
  | none => s

/-- The next part of R290 that can be done: the carry actions, the seal record once the carries are written, and the rest once
the record is; the carries and the record travel as open transfers (R290, R294, R297). -/
def State.sealStep (s : State) (c : Nat) : Option State :=
  (s.crew c).bind fun r => r.sealed.bind fun b =>
    if !r.started then none
    else
      match r.sealStage with
      | 0 => if s.sealReady r b then some ((s.carryActions c r b).sealAt c 1) else none
      | 1 =>
        if s.openTo r.defn.carryAreas then none
        else (s.openSend (s.homePort c 0) r.defn.sealAddr r.defn.sumMb [sealRecord b]).map fun t => t.sealAt c 2
      | _ => if s.openTo [(r.defn.sealAddr, 32)] then none else some (s.sealSteps c r b)

def State.sealGo (c : Nat) : Nat → State → State
  | 0, s => s
  | n + 1, s => match s.sealStep c with | some t => State.sealGo c n t | none => s

/-- A seal's processing goes on as far as it can. -/
def State.trySeal (s : State) (c : Nat) : State := State.sealGo c 3 s

/-- The words of an open flit are written; a seal's processing may have waited for them (R128, R297). -/
def execOpenFlitWrite (k : SinkId) (s : State) : Host.Outcome State Fault Refusal :=
  .next ((s.crews.map Prod.fst).foldl (fun s c => s.trySeal c) (s.openWrite k))

def State.takeSeal (s : State) (c : Nat) (b : SealBody) : State :=
  match s.crew c with
  | none => s
  | some r => if r.sealed.isSome then s else (s.setCrew c { r with sealed := some b, sealStage := 0 }).trySeal c

/-- The sealer holds the epilogues of all layers: the seal goes to every member (R289). -/
def State.sealerTry (s : State) (c : Nat) : State :=
  match s.crew c with
  | none => s
  | some r =>
    let eps := r.defn.layers.map fun l => (r.node l.id).epilogue
    if s.ownIdx r.defn = 0 ∧ !r.sealSent ∧ eps.all Option.isSome then
      let bs := eps.filterMap id
      let nf := (bs.flatMap (·.nf)).eraseDups
      let ab := (bs.flatMap (·.absent)).eraseDups
      let nfSum := bs.any (·.nfSum)
      let b : SealBody :=
        { step := r.step, skip := skipVerdict r.defn.nonfin (!nf.isEmpty) nfSum, nfAny := !nf.isEmpty, nfSum := nfSum,
          absentLayers := (bs.filter fun x => !x.absent.isEmpty).length }
      let s1 := s.setCrew c { r with sealSent := true }
      (s1.crewSendAll c 4 r 0 r.defn.layers.length (sealWords b r.defn.nonfin nf ab)).takeSeal c b
    else s

/-- An epilogue is known on this module (R288). -/
def State.takeEpilogue (s : State) (c lid : Nat) (b : LayerBody) : State :=
  match s.crew c with
  | none => s
  | some r =>
    let n := r.node lid
    let late := b.absent.contains (s.ownIdx r.defn) && !n.noticed
    (((s.setNode c r lid { n with epilogue := some b, late := n.late || late }).crewEvent c 2).sealerTry c).trySeal c

/-- LAYER_COMPLETE (R287): every chunk summed, the trailers there, and every flit of the sums written. -/
def State.layerComplete (s : State) (c lid : Nat) : State :=
  match s.crew c with
  | none => s
  | some r =>
    match r.defn.layer lid with
    | none => s
    | some l =>
      let n := r.node lid
      let area := match l.dest with | some f => extentRun r.defn.extents f l.chunks | none => []
      let open' := s.openDests.any fun a => area.any fun e => decide (e.1 ≤ a) && decide (a < e.1 + 16384 * e.2.1)
      if r.started ∧ s.ownPos r.defn l = 0 ∧ n.ready.isSome ∧ n.next = l.chunks ∧ n.trailersIn ∧ !open' ∧ n.epilogue.isNone then
        let b := n.body l.chunks (s.ownIdx r.defn)
        (s.crewSendAll c 3 r lid 0 (layerBodyWords b)).takeEpilogue c lid b
      else s

def execLayerComplete (t : Time) (crew : BitVec 8) (layer : BitVec 16) (s : State) : Host.Outcome State Fault Refusal :=
  .next ((s.advance t).layerComplete crew.toNat layer.toNat)

/-! ### Ready notices (R272-R274, R547) -/

def State.notice (s : State) (h : EccWord) : State :=
  let c := pkCrew h
  match s.crew c with
  | none => s.discard c
  | some r =>
    let n := r.node (pkLayer h)
    if !r.started ∨ pkStep h ≠ r.step ∨ (r.defn.layer (pkLayer h)).isNone ∨ n.noticed then s.discard c
    else
      let s1 := s.setNode c r (pkLayer h) { n with noticed := true }
      (s1.nodeTry c (pkLayer h)).trySeal c

/-- The first message of a port that a test selects, and the state without it. -/
def State.takeInbox (s : State) (i : Nat) (f : Nat → List Byte → Bool) : Option (List Byte) × State :=
  let p := s.port i
  match p.inbox.find? fun m => f m.1 m.2 with
  | none => (none, s)
  | some m => (some m.2, s.setPort i { p with inbox := p.inbox.erase m })

/-- Messages that came over a link, or from a core of the module. -/
def fromCore : Nat := 4

def execReady (t : Time) (port : Fin 31) (s : State) : Host.Outcome State Fault Refusal :=
  let r := (s.advance t).takeInbox port.val fun v m => decide (v = fromCore) && decide (pkKind (wordOfBytes (m.take 32)) = 7)
  .next (match r.1 with
    | some m => r.2.notice (wordOfBytes (m.take 32))
    | none => r.2)

/-! ### Received packets (R278) -/

/-- Reserved fields of a header, and fields that Table 7.10 has zero in packets of its kind. -/
def pkClean (h : EccWord) : Bool :=
  let k := pkKind h
  decide (fld h 117 11 = 0) && decide (fld h 160 96 = 0) && (decide (k = 1) || decide (pkWire h = 0 ∧ fld h 112 4 = 0)) &&
    (decide (k = 6) || !pkRestart h) && (decide (k = 1 ∨ k = 4 ∨ k = 6) || decide (pkChunk h = 0)) &&
    (!decide (k = 4 ∨ k = 5) || decide (pkLayer h = 0))

/-- Reserved fields of a body (Tables 7.9, 7.12, 7.13). -/
def pkBodyClean (k : Nat) (body : List EccWord) : Bool :=
  let w := body.headD 0
  match k with
  | 2 | 3 => decide (fld w 34 14 = 0) && decide (fld w 61 3 = 0) && decide (fld w 96 160 = 0)
  | 4 => decide (fld w 0 2 ≤ 1) && decide (fld w 6 10 = 0) && decide (fld w 32 224 = 0)
  | 5 => decide (fld (body.getD 1 0) 152 104 = 0)
  | _ => true

/-- A packet reaches the link engine as the port delivered it. One with a reserved bit or value is discarded whole, as a
delivery error of its port (R5; DEDUCED, log 67), and so is one of an unloaded crew (R278). -/
def State.crewPacket (s : State) (port kind : Nat) (hdr : EccWord) (body : List EccWord) (f : State → CrewRun → State) :
    State :=
  let bs := bytesOfWords (hdr :: body)
  let q := s.received port fun m => decide (m.take bs.length = bs)
  let s1 := q.2
  if !q.1 ∨ pkKind hdr ≠ kind then s1
  else if !pkClean hdr || !pkBodyClean kind body then s1.bumpReg (0x7210 + port) 7 1
  else
    match s1.crew (pkCrew hdr) with
    | none => s1.bumpReg (0x7210 + port) 7 1
    | some r => f s1 r

/-- Packets of the current step go on; those of the next step find nothing yet to act on; others are
discarded. -/
def State.stepPacket (s : State) (r : CrewRun) (hdr : EccWord) (f : State → State) : State :=
  if r.started ∧ pkStep hdr = r.step then f s
  else if r.started ∧ pkStep hdr = r.step + 1 then s
  else s.discard (pkCrew hdr)

/-- A packet of a layer from the position that may send it. -/
def State.layerPacket (s : State) (r : CrewRun) (hdr : EccWord) (from' : CrewLayer → List Nat)
    (f : State → CrewLayer → Nat → State) : State :=
  s.stepPacket r hdr fun s =>
    match r.defn.layer (pkLayer hdr) with
    | none => s.discard (pkCrew hdr)
    | some l =>
      match (from' l).find? fun q => r.defn.rankAt l q = pkSrc hdr with
      | some q => f s l q
      | none => s.discard (pkCrew hdr)

def State.kidsOf (s : State) (r : CrewRun) (l : CrewLayer) : List Nat := treeChildren r.defn.size (s.ownPos r.defn l)

/-- The deadline of a child (R283). -/
def deadlineOf (r : CrewRun) (n : NodeState) (q : Nat) : Option Time :=
  match r.defn.waitUs, n.ready with
  | some w, some t => some (t + w * treeHeight r.defn.size q * usUnits)
  | _, _ => none

/-- A child is absent: so is its whole subtree (R285). -/
def State.markAbsent (s : State) (c : Nat) (r : CrewRun) (l : CrewLayer) (q : Nat) : State :=
  let n := r.node l.id
  let gone := (subtree r.defn.size q).map (r.defn.idxAt l)
  (s.setNode c r l.id { n with children := tblPut n.children q false, absent := n.absent ++ gone }).progress c l.id

/-- A chunk of a present child enters the sum when it is due; one already summed is not used again. -/
def State.takeChunk (s : State) (c : Nat) (r : CrewRun) (l : CrewLayer) (q : Nat) (hdr : EccWord) (body : List EccWord) :
    State :=
  let n := r.node l.id
  let j := pkChunk hdr
  let data := if pkWire hdr = 4 then decodeWire body else (wordF32s body, Ev.zero)
  let x : ChunkIn := { nf := pkNf hdr, sat := pkSat hdr, nfSum := pkNfSum hdr, vals := if pkEmpty hdr then none else some data.1 }
  let kids := if j = 0 then tblPut n.children q true else n.children
  let used := !(decide (j < n.next) || decide (j ≥ l.chunks))
  let chunks := if used then tblPut n.chunks (chunkKey q j) x else n.chunks
  ((s.linkEvents (if used && !pkEmpty hdr then data.2 else Ev.zero)).setNode c r l.id { n with children := kids, chunks := chunks }).progress c l.id

def State.chunkIn (s : State) (c : Nat) (r : CrewRun) (l : CrewLayer) (q : Nat) (hdr : EccWord) (body : List EccWord) :
    State :=
  let n := r.node l.id
  match tblFind n.children q with
  | some false => s.discard c
  | some true => s.takeChunk c r l q hdr body
  | none =>
    match deadlineOf r n q with
    | some t => if s.clk.now > t then (s.markAbsent c r l q).discard c else s.takeChunk c r l q hdr body
    | none => s.takeChunk c r l q hdr body

def execChunk (t : Time) (port : Fin 31) (hdr : EccWord) (body : List EccWord) (s : State) : Host.Outcome State Fault Refusal :=
  .next ((s.advance t).crewPacket port.val 1 hdr body fun s r =>
    if pkWire hdr ≠ (if r.defn.bs8 then 4 else 3) then s.bumpReg (0x7210 + port.val) 7 1
    else s.layerPacket r hdr (s.kidsOf r) fun s l q => s.chunkIn (pkCrew hdr) r l q hdr body)

def execTrailer (t : Time) (port : Fin 31) (hdr : EccWord) (body : List EccWord) (s : State) : Host.Outcome State Fault Refusal :=
  .next ((s.advance t).crewPacket port.val 2 hdr body fun s r =>
    s.layerPacket r hdr (s.kidsOf r) fun s l q =>
      let n := r.node l.id
      if tblFind n.children q = some false then s.discard (pkCrew hdr)
      else (s.setNode (pkCrew hdr) r l.id { n with trailers := tblPut n.trailers q (layerBodyOf body) }).progress (pkCrew hdr) l.id)

def execEpilogue (t : Time) (port : Fin 31) (hdr : EccWord) (body : List EccWord) (s : State) : Host.Outcome State Fault Refusal :=
  .next ((s.advance t).crewPacket port.val 3 hdr body fun s r =>
    s.layerPacket r hdr (fun _ => [0]) fun s l _ =>
      if (r.node l.id).epilogue.isSome then s else s.takeEpilogue (pkCrew hdr) l.id (layerBodyOf body))

def execSeal (t : Time) (port : Fin 31) (hdr : EccWord) (body : List EccWord) (s : State) : Host.Outcome State Fault Refusal :=
  .next ((s.advance t).crewPacket port.val 4 hdr body fun s r =>
    s.stepPacket r hdr fun s =>
      if r.defn.members.head? = some (pkSrc hdr) then s.takeSeal (pkCrew hdr) (sealBodyOf (pkStep hdr) body)
      else s.discard (pkCrew hdr))

def execPreamble (t : Time) (port : Fin 31) (hdr : EccWord) (body : List EccWord) (s : State) : Host.Outcome State Fault Refusal :=
  .next ((s.advance t).crewPacket port.val 5 hdr body fun s _ => s.preambleIn (pkCrew hdr) (pkSrc hdr) (pkStep hdr) body)

/-- RESTART: the node resends from chunk 0 and passes RESTART on to its present children (R298). -/
def State.restartNode (s : State) (c : Nat) (r : CrewRun) (l : CrewLayer) : State :=
  let n := r.node l.id
  let kids := (s.kidsOf r l).filter fun q => tblFind n.children q = some true
  let s1 := kids.foldl (fun s q =>
    s.crewSend c 6 0 r.step l.id 7 (r.defn.rankAt l q) (pkFlags false false false false true) []) s
  (s1.setNode c r l.id { n with chunks := [], trailers := [], next := 0, credit := 8, nfSum := false, satChunks := 0
                                trailerSent := false }).progress c l.id

def execCredit (t : Time) (port : Fin 31) (hdr : EccWord) (s : State) : Host.Outcome State Fault Refusal :=
  .next ((s.advance t).crewPacket port.val 6 hdr [] fun s r =>
    let up := fun (l : CrewLayer) => let p := s.ownPos r.defn l; if p = 0 then [] else [treeParent p]
    s.layerPacket r hdr up fun s l _ =>
      let n := r.node l.id
      if pkRestart hdr then s.restartNode (pkCrew hdr) r l
      else (s.setNode (pkCrew hdr) r l.id { n with credit := max n.credit (pkChunk hdr + 1) }).progress (pkCrew hdr) l.id)

/-- CREW_WAIT_DEADLINE: chunk 0 of an undecided child has not come by its deadline; at the deadline itself it may still come
(R283). -/
def State.waitDeadline (s : State) (c lid rank : Nat) : State :=
  match s.crew c with
  | none => s
  | some r =>
    match r.defn.layer lid with
    | none => s
    | some l =>
      let n := r.node lid
      match (s.kidsOf r l).find? fun q => r.defn.rankAt l q = rank with
      | none => s
      | some q =>
        match tblFind n.children q, deadlineOf r n q with
        | none, some t => if r.started ∧ s.clk.now > t then s.markAbsent c r l q else s
        | _, _ => s

def execCrewWaitDeadline (t : Time) (crew : BitVec 8) (layer : BitVec 16) (child : BitVec 12) (s : State) :
    Host.Outcome State Fault Refusal := .next ((s.advance t).waitDeadline crew.toNat layer.toNat child.toNat)

/-! ### Start and restart (R258, R268, R297, R298, R326) -/

/-- Program stroke 0 for one crew: carries and nodes are cleared, and the current step is NEXT_STEP; preambles of
that step counted before stay counted (log 32). -/
def State.startCrew (s : State) (c : Nat) : State :=
  match s.crew c with
  | none => s
  | some r =>
    let step := BitVec.ofNat 32 (s.regN 0x7010 3)
    let kept := if r.step = step then r.counted else []
    let s2 := s.setCrew c { r with started := true, step := step, counted := kept, complete := false, nodes := [],
                                    sealSent := false, sealed := none, sealStage := 0, carries := [] }
    if s2.updateOnly then s2.crewReg c 6 3
    else
      let early := r.held.filter fun h => h.step ≠ step ∧ h.step ≠ step + 1
      let s3 := (s2.crewReg c 6 2).sendPreamble c
      match early with
      | h :: _ => s3.checkPreamble c h
      | [] => s3

/-- The fill that the cox supplies to an update-only image from the retained seal record (R326); with the record unreadable
there is none (R188). -/
def State.retainedSeal (s : State) (c : Nat) : State :=
  match s.crew c with
  | none => s
  | some r =>
    if !s.updateOnly then s
    else
      let q := s.coxWords r.defn.sealAddr 1
      match q.2 with
      | some ws =>
        let n := fld (ws.headD 0) 0 32
        if q.1.regN 0x7010 3 = (n + 1) % 2 ^ 32 then q.1.sealFill n (q.1.crewMbs c 3) else q.1
      | none => q.1

end Sys2Proof.Machine
end

