-- ==== Sys2Proof/Machine/Sha.lean ====
section
/-! DEFINITION. SHA-384, which the spec names (04 Table 4.6, 07 Table 7.2, 13 R478, 14 R492) and whose text it leaves to
FIPS 180-4 (PRESUMED, log 8). Words of 64 bits are numbers; `eager` has Lean's kernel evaluate one before it goes on. -/

namespace Sys2Proof.Machine

/-- Evaluate a number before it is used. -/
def eager {α : Type} (x : Nat) (f : Nat → α) : α :=
  match x with
  | 0 => f 0
  | n + 1 => f (n + 1)

/-- Rotation of a 64-bit word to the right. -/
def shaRot (x n : Nat) : Nat := x >>> n ||| (x <<< (64 - n)) % 2 ^ 64

/-- The constants of the rounds, in the order of their use. -/
def shaRounds : List Nat :=
  [0x428A2F98D728AE22, 0x7137449123EF65CD, 0xB5C0FBCFEC4D3B2F, 0xE9B5DBA58189DBBC,
   0x3956C25BF348B538, 0x59F111F1B605D019, 0x923F82A4AF194F9B, 0xAB1C5ED5DA6D8118,
   0xD807AA98A3030242, 0x12835B0145706FBE, 0x243185BE4EE4B28C, 0x550C7DC3D5FFB4E2,
   0x72BE5D74F27B896F, 0x80DEB1FE3B1696B1, 0x9BDC06A725C71235, 0xC19BF174CF692694,
   0xE49B69C19EF14AD2, 0xEFBE4786384F25E3, 0x0FC19DC68B8CD5B5, 0x240CA1CC77AC9C65] ++
  [0x2DE92C6F592B0275, 0x4A7484AA6EA6E483, 0x5CB0A9DCBD41FBD4, 0x76F988DA831153B5,
   0x983E5152EE66DFAB, 0xA831C66D2DB43210, 0xB00327C898FB213F, 0xBF597FC7BEEF0EE4,
   0xC6E00BF33DA88FC2, 0xD5A79147930AA725, 0x06CA6351E003826F, 0x142929670A0E6E70,
   0x27B70A8546D22FFC, 0x2E1B21385C26C926, 0x4D2C6DFC5AC42AED, 0x53380D139D95B3DF,
   0x650A73548BAF63DE, 0x766A0ABB3C77B2A8, 0x81C2C92E47EDAEE6, 0x92722C851482353B] ++
  [0xA2BFE8A14CF10364, 0xA81A664BBC423001, 0xC24B8B70D0F89791, 0xC76C51A30654BE30,
   0xD192E819D6EF5218, 0xD69906245565A910, 0xF40E35855771202A, 0x106AA07032BBD1B8,
   0x19A4C116B8D2D0C8, 0x1E376C085141AB53, 0x2748774CDF8EEB99, 0x34B0BCB5E19B48A8,
   0x391C0CB3C5C95A63, 0x4ED8AA4AE3418ACB, 0x5B9CCA4F7763E373, 0x682E6FF3D6B2B8A3,
   0x748F82EE5DEFB2FC, 0x78A5636F43172F60, 0x84C87814A1F0AB72, 0x8CC702081A6439EC] ++
  [0x90BEFFFA23631E28, 0xA4506CEBDE82BDE9, 0xBEF9A3F7B2C67915, 0xC67178F2E372532B,
   0xCA273ECEEA26619C, 0xD186B8C721C0C207, 0xEADA7DD6CDE0EB1E, 0xF57D4F7FEE6ED178,
   0x06F067AA72176FBA, 0x0A637DC5A2C898A6, 0x113F9804BEF90DAE, 0x1B710B35131C471B,
   0x28DB77F523047D84, 0x32CAAB7B40C72493, 0x3C9EBE0A15C9BEBC, 0x431D67C49C100D4C,
   0x4CC5D4BECB3E42B6, 0x597F299CFC657E2A, 0x5FCB6FAB3AD6FAEC, 0x6C44198C4A475817]

/-- The words of the state. -/
structure ShaState where
  a : Nat
  b : Nat
  c : Nat
  d : Nat
  e : Nat
  f : Nat
  g : Nat
  h : Nat
deriving DecidableEq, Repr

def shaStart : ShaState :=
  ⟨0xCBBB9D5DC1059ED8, 0x629A292A367CD507, 0x9159015A3070DD17, 0x152FECD8F70E5939,
   0x67332667FFC00B31, 0x8EB44A8768581511, 0xDB0C2E0D64F98FA7, 0x47B5481DBEFA4FA4⟩

/-- One round on constant k and schedule word w. -/
def shaRound (s : ShaState) (k w : Nat) : ShaState :=
  let ch := (s.e &&& s.f) ^^^ ((2 ^ 64 - 1 - s.e) &&& s.g)
  let maj := (s.a &&& s.b) ^^^ (s.a &&& s.c) ^^^ (s.b &&& s.c)
  let t1 := s.h + (shaRot s.e 14 ^^^ shaRot s.e 18 ^^^ shaRot s.e 41) + ch + k + w
  let t2 := (shaRot s.a 28 ^^^ shaRot s.a 34 ^^^ shaRot s.a 39) + maj
  eager ((t1 + t2) % 2 ^ 64) fun a => eager ((s.d + t1) % 2 ^ 64) fun e => ⟨a, s.a, s.b, s.c, e, s.e, s.f, s.g⟩

/-- Word i of a schedule of sixteen words in one number, the latest lowest. -/
def shaWord (w i : Nat) : Nat := (w >>> (64 * i)) % 2 ^ 64

/-- The rounds in turn on the schedule, whose earliest word is the one in turn. -/
def shaGo : List Nat → Nat → ShaState → ShaState
  | k :: ks, w, s =>
    let x := shaWord w 14
    let y := shaWord w 1
    let next := (shaRot y 19 ^^^ shaRot y 61 ^^^ y >>> 6) + shaWord w 6 + (shaRot x 1 ^^^ shaRot x 8 ^^^ x >>> 7) + shaWord w 15
    eager ((2 ^ 64 * w + next % 2 ^ 64) % 2 ^ 1024) fun n => shaGo ks n (shaRound s k (shaWord w 15))
  | [], _, s => s

/-- One block of 128 bytes, high byte first. -/
def shaBlock (s : ShaState) (block : Nat) : ShaState :=
  let t := shaGo shaRounds block s
  let add := fun x y : Nat => (x + y) % 2 ^ 64
  eager (add s.a t.a) fun a => eager (add s.b t.b) fun b => eager (add s.c t.c) fun c => eager (add s.d t.d) fun d =>
    eager (add s.e t.e) fun e => eager (add s.f t.f) fun f => eager (add s.g t.g) fun g => eager (add s.h t.h) fun h =>
      ⟨a, b, c, d, e, f, g, h⟩

/-- A message with its padding: a bit 1, zeros, and its length in bits as 16 bytes, high byte first. -/
def shaPad (bs : List Byte) : List Byte :=
  eager bs.length fun n => bs ++ [0x80] ++ List.replicate ((239 - n % 128) % 128) 0 ++ (leBytes 16 (8 * n)).reverse

/-- The blocks in turn: n bytes still to come after the next one, the bytes of the block so far, and the state. -/
def shaFeed : List Byte → Nat → Nat → ShaState → ShaState
  | [], _, _, s => s
  | b :: bs, n, block, s =>
    eager (256 * block + b.toNat) fun block =>
      match n with
      | 0 => shaFeed bs 127 0 (shaBlock s block)
      | m + 1 => shaFeed bs m block s

/-- SHA-384 of a byte string; byte 0 of the digest stands in bits [7:0], as byte strings do in fields (R4). -/
def sha384 (bs : List Byte) : BitVec 384 :=
  let s := shaFeed (shaPad bs) 127 0 shaStart
  BitVec.ofNat 384 (leNat ([s.a, s.b, s.c, s.d, s.e, s.f].flatMap fun w => (leBytes 8 w).reverse))

end Sys2Proof.Machine
end

