-- ==== Sys2Proof/Machine/Security.lean ====
section
/-! DEFINITION. Authorisation records, the life cycle, installs, attestation and test tokens (14). -/

namespace Sys2Proof.Machine

/-- Abort codes (Table 10.11). -/
def abOk : Nat := 0
def abTooLarge : Nat := 0x0103
def abNoObject : Nat := 0x0201
def abNoSub : Nat := 0x0202
def abReadOnly : Nat := 0x0301
def abLength : Nat := 0x0303
def abState : Nat := 0x0401
def abAuth : Nat := 0x0402
def abBusy : Nat := 0x0403
def abChanged : Nat := 0x0404
def abRange : Nat := 0x0501
def abInvalid : Nat := 0x0502
def abTimeout : Nat := 0x0601
def abSequence : Nat := 0x0602

def State.setSec (s : State) (k : SecState) : State := { s with sec := k }

def bytesAt (l : List Byte) (o n : Nat) : List Byte := (l.drop o).take n

def natAt (l : List Byte) (o n : Nat) : Nat := leNat (bytesAt l o n)

/-! ### Records (R498, R499) -/

/-- Purpose number of Config.certTrusted for a KIND (Table 14.1). -/
def purposeOf (kind : Nat) : Nat := kind + 1

/-- No reserved value in the fields of Table 14.4. -/
def recordFieldsOk (r : List Byte) : Bool :=
  let kind := natAt r 1 1
  let valid := natAt r 60 4
  let fi := natAt r 64 1
  decide (193 ≤ r.length) && decide (r.length ≤ 2240) && decide (natAt r 0 1 = 1) && decide (natAt r 2 2 = 0) &&
    decide (natAt r 65 31 = 0) &&
    (if kind = 3 then decide (1 ≤ valid) && decide (valid ≤ 86400000) && decide (fi ≤ 1)
     else decide (kind = 1 ∨ kind = 2) && decide (valid = 0) && decide (fi = 0))

/-- R499. -/
def State.recordPasses (s : State) (r : List Byte) : Bool :=
  let cert := r.drop 192
  recordFieldsOk r && decide (natAt r 4 8 = Config.serial.toNat) && decide (bytesAt r 12 48 = s.dom 0x8000 3) &&
    Config.certTrusted Config.rootDigest (purposeOf (natAt r 1 1)) cert &&
    Config.sigVerifies (r.take 96) (bytesAt r 96 96) cert

/-- Every record check and install reports in 8000h.0C and 8000h.0D. -/
def State.secResult (s : State) (code : Nat) : State := (s.setRegN 0x8000 12 code).bumpReg 0x8000 13 1

/-- Commit of 8000h.05: a record of KIND PROVISION or DEBUG_ENTRY; a new nonce in any case (R498). -/
def State.authCommit (s : State) (r : List Byte) : State × Nat :=
  let ok := s.recordPasses r && decide (natAt r 1 1 ≠ 3)
  let s1 := s.drawNonce
  if ok then
    (((s1.setSec { s1.sec with authKind := some (natAt r 1 1) }).setDom 0x8000 5 r).secResult 0, abOk)
  else (s1.secResult abAuth, abAuth)

/-- Commit of 8020h.02: a TEST_TOKEN record comes into force (R507). -/
def State.tokenCommit (s : State) (r : List Byte) : State × Nat :=
  let ok := s.recordPasses r && decide (natAt r 1 1 = 3) && decide (s.sec.lc ≠ 4)
  let s1 := s.drawNonce
  if ok then
    let t := s.clk.now + natAt r 60 4 * msUnits
    let fi := decide (natAt r 64 1 % 2 = 1)
    let s2 := ((s1.setSec { s1.sec with token := some (t, fi) }).setDom 0x8020 2 r).setRegN 0x8020 3 1
    ((if fi || s2.inDebug then s2 else s2.fiZero).secResult 0, abOk)
  else (s1.secResult abAuth, abAuth)

/-- Fault injection is permitted (R369). -/
def State.fiAllowed (s : State) : Bool :=
  s.inDebug || (match s.sec.token with | some t => t.2 | none => false)

/-- TOKEN_LAPSE: the end of VALID_MS. -/
def execTokenLapse (t : Time) (s : State) : Host.Outcome State Fault Refusal :=
  let s1 := s.advance t
  .next (match s1.sec.token with
    | some k => if s1.clk.now ≥ k.1 then s1.lapseToken else s1
    | none => s1)

/-! ### The life cycle (R496, R497) -/

/-- A transition that Table 14.3 permits with the record in force. -/
def State.lcPermits (s : State) (v : Nat) : Bool :=
  let k := s.sec
  match k.lc, v with
  | 0, 1 => decide (k.authKind = some 1)
  | 1, 2 => true
  | 2, 3 => decide (k.authKind = some 2) && decide (k.debugEntries < 31)
  | 3, 2 => true
  | 1, 4 => true
  | 2, 4 => true
  | 3, 4 => true
  | _, _ => false

/-- A write of 8000h.02 in a state that allows it: any record is consumed. -/
def State.lcRequest (s : State) (v : Nat) : State × Nat :=
  let s1 := s.setSec { s.sec with authKind := none }
  if v > 4 then (s1, abRange)
  else if s.lcPermits v then (s1, abOk) else (s1, abAuth)

/-- Steps 2 to 4 of R497, after the response. -/
def State.lcTransition (s : State) (v : Nat) : State :=
  let n := if v = 3 then s.sec.debugEntries + 1 else s.sec.debugEntries
  (s.setSec { s.sec with lc := v, debugEntries := n }).beginBringup (some 0x18)

/-! ### Installs (R502, R504) -/

/-- R502 over the bytes of a firmware image. -/
def State.firmwareValid (s : State) (b : List Byte) : Bool :=
  let certLen := natAt b 24 4
  let cert := bytesAt b 256 certLen
  let body := bytesAt b (256 + 32 * ceilDiv certLen 32) (natAt b 16 8)
  decide (b.length ≥ 256) && decide (natAt b 0 4 = 0x4C4D4657) && decide (1 ≤ certLen) && decide (certLen ≤ 2048) &&
    decide (natAt b 12 4 = 0) && decide (natAt b 28 4 = 0) && decide (natAt b 80 48 = 0) && decide (natAt b 224 32 = 0) &&
    decide (body.length = natAt b 16 8) && Config.certTrusted Config.rootDigest 0 cert &&
    Config.sigVerifies (b.take 128) (bytesAt b 128 96) cert &&
    decide (sha384 body = BitVec.ofNat 384 (natAt b 32 48)) &&
    decide (natAt b 8 4 ≥ s.sec.secVersion.toNat)

/-- INSTALL_END: the image at 8000h.09 is checked and written to the slot not booted. -/
def State.installEnd (s : State) : State :=
  match s.sec.install with
  | none => s
  | some (addr, len) =>
    let s1 := s.setSec { s.sec with install := none }
    match s1.copyAddrs addr (len / 32) with
    | none => s1.secResult abAuth
    | some as =>
      let r := s1.coxRead as
      match r.2 with
      | .error _ => r.1.secResult abAuth
      | .ok b =>
        if r.1.firmwareValid b then
          let im : SlotImage := { version := BitVec.ofNat 32 (natAt b 4 4), sec := BitVec.ofNat 32 (natAt b 8 4),
                                  digest := BitVec.ofNat 384 (natAt b 32 48) }
          (r.1.setSec { r.1.sec with slots := tblPut r.1.sec.slots (1 - r.1.sec.booted) im }).secResult 0
        else r.1.secResult abAuth

def execInstallEnd (t : Time) (s : State) : Host.Outcome State Fault Refusal := .next (s.advance t).installEnd

/-! ### Attestation (R505, R506) -/

def State.uptimeMs (s : State) : Nat := (s.clk.now - s.clk.bootAt) / msUnits

/-- Bytes 0 to 287 of the report (Table 14.9). -/
def State.reportBody (s : State) (nonce : List Byte) : List Byte :=
  let slot := s.sec.slotImage s.sec.booted
  leBytes 1 1 ++ leBytes 1 s.sec.lc ++ leBytes 1 (modCode s.st) ++ leBytes 1 (if s.sec.token.isSome then 1 else 0) ++
    leBytes 1 s.sec.debugEntries ++ leBytes 3 0 ++ leBytes 8 Config.serial.toNat ++ leBytes 4 slot.version.toNat ++
    leBytes 4 slot.sec.toNat ++ (nonce ++ leBytes (32 - nonce.length) 0) ++ leBytes 48 slot.digest.toNat ++
    leBytes 48 Config.engineDigest.toNat ++ leBytes 48 (match s.image with | some im => im.digest.toNat | none => 0) ++
    leBytes 8 s.plan.gen.toNat ++ leBytes 48 (sha384 s.plan.bytes).toNat ++ leBytes 8 s.uptimeMs ++ leBytes 24 0

/-- ATT_REPORT_READY: formed and signed, or failed when the entropy source or, outside MANUFACTURE, the
signature unit has failed. -/
def State.attReady (s : State) (entropyOk signerOk : Bool) : State :=
  match s.sec.attNonce with
  | none => s
  | some nonce =>
    let s1 := s.setSec { s.sec with attNonce := none }
    let ok := entropyOk && (signerOk || decide (s.sec.lc = 0))
    let s2 :=
      if ok then
        let b := s.reportBody nonce
        (s1.setDom 0x8010 4 (b ++ (if s.sec.lc = 0 then leBytes 96 0 else Config.deviceSign b))).setRegN 0x8010 3 2
      else s1.setRegN 0x8010 3 3
    s2.bumpReg 0x8010 6 1

def execAttReportReady (t : Time) (entropyOk signerOk : Bool) (s : State) : Host.Outcome State Fault Refusal :=
  .next ((s.advance t).attReady entropyOk signerOk)

/-- A write of 1 to 8010h.02. -/
def State.attRequest (s : State) : State :=
  (s.setSec { s.sec with attNonce := some (s.dom 0x8010 1) }).setRegN 0x8010 3 1

end Sys2Proof.Machine
end

