-- ==== Sys2Proof/Machine/Pages.lean ====
section
/-! DEFINITION. The page manager: slots and their headers, pages, the prefix directory, victims, spills and prefetches (06
R229-R252; 15 R519, R520; log 33). -/

namespace Sys2Proof.Machine

def State.setPages (s : State) (p : PageState) : State := { s with pages := p }

/-! ### SipHash-2-4 (R248) -/

structure Sip where
  a : BitVec 64
  b : BitVec 64
  c : BitVec 64
  d : BitVec 64
deriving DecidableEq, Repr

def sipRound (v : Sip) : Sip :=
  let a := v.a + v.b
  let b := v.b.rotateLeft 13 ^^^ a
  let a2 := a.rotateLeft 32
  let c := v.c + v.d
  let d := v.d.rotateLeft 16 ^^^ c
  let a3 := a2 + d
  let d2 := d.rotateLeft 21 ^^^ a3
  let c2 := c + b
  let b2 := b.rotateLeft 17 ^^^ c2
  ⟨a3, b2, c2.rotateLeft 32, d2⟩

def sipWord (v : Sip) (m : BitVec 64) : Sip :=
  let w := sipRound (sipRound { v with d := v.d ^^^ m })
  { w with a := w.a ^^^ m }

/-- SipHash-2-4 of a message of whole 8-byte words. -/
def sipHash (k0 k1 : BitVec 64) (ms : List (BitVec 64)) : BitVec 64 :=
  let v : Sip := ⟨k0 ^^^ 0x736f6d6570736575, k1 ^^^ 0x646f72616e646f6d, k0 ^^^ 0x6c7967656e657261, k1 ^^^ 0x7465646279746573⟩
  let w := ms.foldl sipWord v
  let x := sipWord w (BitVec.ofNat 64 (8 * ms.length % 256 * 2 ^ 56))
  let y := sipRound (sipRound (sipRound (sipRound { x with c := x.c ^^^ 0xff })))
  y.a ^^^ y.b ^^^ y.c ^^^ y.d

/-- The chain hash of a block after the one before it. -/
def State.chainHash (s : State) (prev : BitVec 64) (toks : List (BitVec 32)) : BitVec 64 :=
  let key := leNat (s.dom 0x6021 1)
  sipHash (BitVec.ofNat 64 key) (BitVec.ofNat 64 (key / 2 ^ 64))
    (prev :: (chunksOf 2 toks).map fun p => BitVec.ofNat 64 ((p.headD 0).toNat + 2 ^ 32 * (p.getD 1 0).toNat))

/-- Sharing is on (R252). -/
def State.sharing (s : State) : Bool := decide (s.regN 0x6021 2 = 1) && decide (s.regN 0x6021 4 = 1)

/-! ### Slots in storage (R229, R230, Tables 6.5, 6.6) -/

def PoolEntry.keyWords (e : PoolEntry) : Nat := pageRegion (e.fmt % 16) (32 * (e.fmt / 16 % 8 + 1))

/-- S: words of a slot. -/
def PoolEntry.slotWords (e : PoolEntry) : Nat := 8 * ceilDiv (10 + 2 * e.keyWords) 8

/-- Address of a word offset in the entry's bank. -/
def PoolEntry.addr (e : PoolEntry) (off : Nat) : Nat :=
  match unitOfUid e.unit with
  | some (.core c) => bankBase c e.bank + 32 * off
  | _ => 0

def PoolEntry.slotAddr (e : PoolEntry) (k : Nat) : Nat := e.addr (e.slotBase + k * e.slotWords)

def tierCode : Tier → Nat
  | .open => 1 | .sealed => 2 | .leaving => 3 | .arriving => 4

def pageHeader (e : PoolEntry) (p : Page) (tier gen : Nat) : EccWord :=
  BitVec.ofNat 256 (e.fmt + 2 ^ 8 * p.fill + 2 ^ 16 * tier + 2 ^ 24 * p.group + 2 ^ 32 * p.layer + 2 ^ 64 * (64 * p.ord) +
    2 ^ 128 * p.hash.toNat + 2 ^ 192 * gen)

def tokenWords (toks : List (BitVec 32)) : List EccWord :=
  packWords 4 ((toks ++ List.replicate (64 - toks.length) (0 : BitVec 32)).map BitVec.toNat)

/-- GEN in a slot's header, free where it cannot be read (log 63). -/
def State.slotGen (s : State) (e : PoolEntry) (k : Nat) : State × Nat :=
  let r := s.coxWord (e.slotAddr k)
  (r.1, fld r.2 192 32)

/-- The header of a page in its slot, with a TIER and the slot's GEN. -/
def State.setTier (s : State) (e : PoolEntry) (k : Nat) (p : Page) (tier : Nat) : State :=
  let g := s.slotGen e k
  g.1.coxWrites (e.slotAddr k) [pageHeader e p tier g.2]

/-- A whole slot: header, token block, keys and values, zeros (R229). -/
def slotImage (e : PoolEntry) (p : Page) (tier gen : Nat) (kv : List EccWord) : List EccWord :=
  pageHeader e p tier gen :: 0 :: (tokenWords p.tokens ++ kv ++ List.replicate (e.slotWords - 10 - 2 * e.keyWords) 0)

/-- A slot receives a page: header with the next GEN, token block, and keys and values from another slot (Table 6.13 step 3,
R242). Answered is whether those could be read; nothing is written else. -/
def State.fillSlot (s : State) (e : PoolEntry) (k : Nat) (p : Page) (tier from' : Nat) : State × Bool :=
  let g := s.slotGen e k
  let r := g.1.coxWords (from' + 320) (2 * e.keyWords)
  match r.2 with
  | none => (r.1, false)
  | some kv => (r.1.coxWrites (e.slotAddr k) (slotImage e p tier ((g.2 + 1) % 2 ^ 32) kv), true)

/-! ### Pages and entries -/

def slotKey (entry k : Nat) : Nat := entry * 16384 + k

/-- Index of the ordinal entry of a head group for an ordinal (R235). -/
def Pool.entryOf (q : Pool) (layer group ord : Nat) : Option Nat :=
  q.entries.findIdx? fun e => !e.landing && decide (e.layer = layer) && decide (e.group = group) && decide (e.ord = ord % e.e)

def Pool.landingOf (q : Pool) (layer group : Nat) : Option PoolEntry :=
  q.entries.find? fun e => e.landing && decide (e.layer = layer) && decide (e.group = group)

/-- Head groups with ordinal entries. -/
def Pool.groups (q : Pool) : List (Nat × Nat) :=
  ((q.entries.filter fun e => !e.landing).map fun e => (e.layer, e.group)).eraseDups

def State.entry (s : State) (i : Nat) : Option PoolEntry := s.pages.pool.bind fun q => q.entries[i]?

def State.page (s : State) (h : Nat) : Option Page := s.pages.pages.find? fun p => p.handle = h

def State.modPage (s : State) (h : Nat) (f : Page → Page) : State :=
  s.setPages { s.pages with pages := s.pages.pages.map fun p => if p.handle = h then f p else p }

def State.dropPage (s : State) (h : Nat) : State :=
  s.setPages { s.pages with pages := s.pages.pages.filter fun p => decide (p.handle ≠ h) }

/-- The page of a sequence. -/
def State.seqPage (s : State) (seq layer group ord : Nat) : Option Page :=
  s.pages.pages.find? fun p => p.seqs.contains seq && decide (p.layer = layer) && decide (p.group = group) && decide (p.ord = ord)

/-- Write the TIER of a page's slot. -/
def State.showTier (s : State) (p : Page) (tier : Nat) : State :=
  match p.slot with
  | some k => match s.entry (k / 16384) with
    | some e => s.setTier e (k % 16384) p tier
    | none => s
  | none => s

/-- A page without references: its slot is FREE, or it leaves the spill tier (R251). -/
def State.freePage (s : State) (p : Page) : State := (s.showTier p 0).dropPage p.handle

def Page.refs (p : Page) : Nat := p.seqs.length + (if p.inDir then 1 else 0)

/-- A page on its way between its slot and the streamers (Table 6.14). -/
def Page.moving (p : Page) : Bool := p.slot.isSome && (decide (p.tier = .arriving) || decide (p.tier = .leaving))

/-- Pages whose count has fallen to zero; one that is arriving or leaving is no longer in that state first (R243, Table
6.14). -/
def State.freeUnused (s : State) : State :=
  (s.pages.pages.filter fun p => decide (p.refs = 0) && !p.moving).foldl (fun s p => s.freePage p) s

/-- A sequence drops its references (R251). -/
def State.releaseSeq (s : State) (q : Nat) : State :=
  let ps := s.pages
  ((s.setPages { ps with seqs := ps.seqs.filter fun x => decide (x.id ≠ q)
                         pages := ps.pages.map fun p => { p with seqs := p.seqs.filter (· ≠ q) } })).freeUnused

def State.seq (s : State) (q : Nat) : Option SeqState := s.pages.seqs.find? fun x => x.id = q

def State.setSeq (s : State) (x : SeqState) : State :=
  s.setPages { s.pages with seqs := (s.pages.seqs.filter fun y => decide (y.id ≠ x.id)) ++ [x] }

/-! ### The directory (R248-R252) -/

/-- Nodes below a node, with fuel. -/
def belowGo (dir : List DirNode) : Nat → List (BitVec 64) → List (BitVec 64)
  | 0, hs => hs
  | k + 1, hs =>
    let more := (dir.filter fun n => hs.contains n.parent && !hs.contains n.hash && decide (n.ord > 0)).map (·.hash)
    if more = [] then hs else belowGo dir k (hs ++ more)

/-- Remove a node and all below it. -/
def State.dropNode (s : State) (h : BitVec 64) : State :=
  let ps := s.pages
  let gone := belowGo ps.dir ps.dir.length [h]
  (s.setPages { ps with dir := ps.dir.filter fun n => !gone.contains n.hash
                        pages := ps.pages.map fun p => if p.inDir ∧ gone.contains p.hash then { p with inDir := false } else p }).freeUnused

/-- The oldest last use, then the order of the list. -/
def oldest {α : Type} (use : α → Nat) (l : List α) : Option α :=
  l.foldl (fun b x => match b with | none => some x | some y => if use x < use y then some x else b) none

/-- A node enters when its pages seal; above the limit the oldest unpinned one goes. -/
def State.enterNode (s : State) (n : DirNode) (pinned : Page → Bool) : State :=
  let ps := s.pages
  let s1 :=
    if ps.dir.length ≥ 1048576 then
      match oldest (·.lastUse) (ps.dir.filter fun d => !(ps.pages.any fun p => p.inDir && decide (p.hash = d.hash) && pinned p)) with
      | some d => s.dropNode d.hash
      | none => s
    else s
  s1.setPages { s1.pages with dir := s1.pages.dir ++ [n] }

/-! ### Pins, victims and slots (R243, R244) -/

/-- Ordinals of a sequence that the slot words of round r name in an entry of a group of E entries with Q
words (R238). -/
def roundOrds (e q r : Nat) (ord : Nat) : Bool := decide (ord / e / q = r)

def State.roundNames (s : State) (p : Page) (r : Nat) : Bool :=
  match s.pages.pool.bind fun q => (q.entryOf p.layer p.group p.ord).bind fun i => q.entries[i]? with
  | none => false
  | some e => (s.pages.call.any fun l => l.active && p.seqs.contains l.seq) && roundOrds e.e e.q r p.ord

/-- The last round that holds a page of an active lane. -/
def State.lastRound (s : State) : Nat :=
  match s.pages.pool with
  | none => 0
  | some pool =>
    let full := (s.pages.call.filter (·.active)).flatMap fun l =>
      (s.pages.pages.filter fun p => p.seqs.contains l.seq && decide (p.fill = 64))
    full.foldl (fun m p =>
      match (pool.entryOf p.layer p.group p.ord).bind fun i => pool.entries[i]? with
      | some e => max m (p.ord / e.e / e.q)
      | none => m) 0

/-- The current round and the next: after the last round of a token, round 0 of the next one (R243). -/
def State.liveRounds (s : State) : List Nat :=
  let r := s.pages.round
  let next := if r > s.lastRound then 0 else r
  if r = 0 then [0] else [r - 1, next]

def State.pinned (s : State) (p : Page) : Bool :=
  decide (p.tier = .arriving) || (s.liveRounds.any fun r => s.roundNames p r) ||
    (decide (p.tier = .open) && s.pages.call.any fun l => p.seqs.contains l.seq)

/-- A FREE slot of an entry, the lowest. -/
def State.freeSlot (s : State) (i : Nat) : Option Nat :=
  (s.entry i).bind fun e => (List.range e.nslot).find? fun k => !(s.pages.pages.any fun p => p.slot = some (slotKey i k))

/-- What R244 finds for an entry without a FREE slot. -/
inductive Victim where
  | none
  | waits
  | page (p : Page)
deriving DecidableEq, Repr

def State.victim (s : State) (i : Nat) : Victim :=
  let here := s.pages.pages.filter fun p => match p.slot with | some k => decide (k / 16384 = i) | Option.none => false
  if here.any fun p => p.tier = .leaving then .waits
  else
    match oldest (fun p => p.lastUse * 16384 + (p.slot.getD 0) % 16384)
        (here.filter fun p => (decide (p.tier = .sealed) || decide (p.tier = .open)) && !s.pinned p &&
          decide (p.cancelled ≠ some s.pages.turn)) with
    | some p => .page p
    | Option.none => .none

/-- A slot for a page of an entry: a FREE one; none yet, for a victim that leaves; or none at all. -/
inductive SlotFound where
  | slot (k : Nat)
  | waits
  | none
deriving DecidableEq, Repr

/-- Find a slot (R244): a victim without references is FREE at once, another one begins to leave. -/
def State.needSlot (s : State) (i : Nat) : State × SlotFound :=
  match s.freeSlot i with
  | some k => (s, .slot k)
  | Option.none =>
    match s.victim i with
    | .waits => (s, .waits)
    | .none => (s, .none)
    | .page p =>
      if p.refs = 0 then
        let s1 := s.freePage p
        (s1, match s1.freeSlot i with | some k => .slot k | Option.none => .none)
      else ((s.showTier p 3).modPage p.handle fun p => { p with tier := .leaving }, .waits)

/-! ### Spills and prefetches (R245, R246) -/

def Page.backTier (p : Page) : Tier := if p.fill = 64 then .sealed else .open

/-- A spill is cancelled: the page returns to the tier it left (Table 6.14, R519). -/
def State.cancelSpill (s : State) (h : Nat) : State :=
  match s.page h with
  | none => s
  | some p =>
    if p.tier ≠ .leaving then s
    else
      let kept := s.streams.filter fun q => decide (q.kind ≠ .spill h)
      let s1 := ({ s with streams := kept } : State).showTier p (tierCode p.backTier)
      s1.modPage h fun p => { p with tier := p.backTier, cancelled := some s.pages.turn }

/-- A page that is needed: a leaving one returns, a spilled one begins to arrive when its entry has a slot, and waits for
one that a victim is to leave (R246). Answered is whether its entry has any slot for it. -/
def State.wantPage (s : State) (h : Nat) : State × Bool :=
  match s.page h with
  | none => (s, true)
  | some p =>
    if p.slot.isSome then (if p.tier = .leaving then s.cancelSpill h else s, true)
    else
      match s.pages.pool.bind fun q => q.entryOf p.layer p.group p.ord with
      | none => (s, true)
      | some i =>
        let r := s.needSlot i
        let others := r.1.pages.wanted.filter (· ≠ h)
        match r.2 with
        | .slot k =>
          let s1 := (r.1.setPages { r.1.pages with wanted := others }).modPage h fun p =>
            { p with slot := some (slotKey i k), tier := .arriving, landed := false }
          (match s1.entry i with | some e => s1.setTier e k p 4 | none => s1, true)
        | .waits => (r.1.setPages { r.1.pages with wanted := others ++ [h] }, true)
        | .none => (r.1.setPages { r.1.pages with wanted := others }, false)

/-- Prefetch the spilled pages that a predicate picks. -/
def State.prefetch (s : State) (f : Page → Bool) : State :=
  (s.pages.pages.filter fun p => f p && p.slot.isNone).foldl (fun s p => (s.wantPage p.handle).1) s

/-- The prefetches that wait for a slot are tried again. -/
def State.retryWanted (s : State) : State := s.pages.wanted.foldl (fun s h => (s.wantPage h).1) s

/-- A page is resident for attention. -/
def Page.resident (p : Page) : Bool := p.slot.isSome && (decide (p.tier = .open) || decide (p.tier = .sealed))

end Sys2Proof.Machine
end

