-- ==== Sys2Proof/Machine/Turns.lean ====
section
/-! DEFINITION. The page manager's work between tokens: slot arrays, turn records, turns, rounds, calls and the dispatch
selection (05 R214-R217; 06 R238-R256; log 33, log 64). -/

namespace Sys2Proof.Machine

/-! ### Slot arrays and turn records (R238, R239, Tables 6.7, 6.11) -/

/-- The slot word that names a page, with class ALL (log 33). -/
def slotWord (e : PoolEntry) (k gen pos : Nat) : EccWord :=
  BitVec.ofNat 256 (e.slotBase + k * e.slotWords + 2 ^ 20 + 2 ^ 24 + 2 ^ 32 * gen + 2 ^ 64 * pos)

/-- The page that slot word q of a lane names in round r: a sealed one in its slot (R238). -/
def State.namedPage (s : State) (e : PoolEntry) (l : Option LaneRec) (q r : Nat) : Option (LaneRec × Nat) :=
  match l with
  | none => none
  | some l =>
    if !l.active then none
    else
      match s.seqPage l.seq e.layer e.group (e.ord + e.e * (q + e.q * r)) with
      | some p => if p.fill = 64 then p.slot.map fun k => (l, k % 16384) else none
      | none => none

/-- Write every slot array of a round: the words of every lane of the pool, those of lanes without a page with PRESENT 0. -/
def State.writeRound (s : State) (r : Nat) : State :=
  match s.pages.pool with
  | none => s
  | some pool =>
    (pool.entries.filter fun e => !e.landing).foldl (fun (s : State) e =>
      (List.range (pool.bmax * e.q)).foldl (fun (s : State) i =>
        let a := e.addr (e.sarray + i)
        match s.namedPage e (s.pages.call[i / e.q]?) (i % e.q) r with
        | some (l, k) =>
          let g := s.slotGen e k
          let pos := match s.seq l.seq with | some x => x.pos | none => 0
          g.1.coxWrites a [slotWord e k g.2 pos]
        | none => s.coxWrites a [0]) s) s

/-- The turn record of a lane. -/
def turnRecord (pos : Nat) (intok : BitVec 32) (active : Bool) : List EccWord :=
  let tailn := pos % 64 + 1
  let w0 := BitVec.ofNat 256 (pos % 2 ^ 48 + 2 ^ 48 * tailn + 2 ^ 64 * intok.toNat + (if active then 2 ^ 96 else 0))
  let bias := (List.range 64).map fun r => visibleByte (decide (r + tailn ≥ 64))
  w0 :: (wordsOfBytes bias ++ List.replicate 5 0 ++ packWords 4 (List.replicate 256 (pos % 2 ^ 32)))

def State.writeTurnRecords (s : State) : State :=
  match s.pages.pool with
  | none => s
  | some pool =>
    s.pages.call.zipIdx.foldl (fun (s : State) lb =>
      let pos := match s.seq lb.1.seq with | some x => x.pos | none => 0
      s.coxWrites (pool.turnAddr + 1280 * lb.2) (turnRecord pos lb.1.intok lb.1.active)) s

/-! ### Lanes -/

def State.modLane (s : State) (b : Nat) (f : LaneRec → LaneRec) : State :=
  s.setPages { s.pages with call := s.pages.call.zipIdx.map fun p => if p.2 = b then f p.1 else p.1 }

/-- A lane's call ends with a status. -/
def State.endLane (s : State) (b status : Nat) : State :=
  (s.modLane b fun l => { l with active := false }).setRegN 0x6022 9 status

/-- What a lane still had to seal is given up (R247). -/
def State.dropAdopts (s : State) (b : Nat) : State :=
  let gone := s.pages.adopts.filter fun a => decide (a.lane = b)
  s.setPages { s.pages with
    adopts := s.pages.adopts.filter fun a => decide (a.lane ≠ b)
    blocks := s.pages.blocks.filter fun k => !(gone.any fun a => decide (k = (a.lane, a.ord))) }

def poolFull : Nat := 0x0A01

def maxPos : Nat := 2 ^ 48 - 1

/-! ### A turn (Table 6.13, R240) -/

/-- Landing slots of a group's landing entry. -/
def State.landSlots (s : State) : Nat :=
  match s.pages.pool with
  | some q => ((q.entries.filter (·.landing)).map (·.nslot)).foldl min 64
  | none => 1

/-- Tokens that a lane's turn has computed: one, or a chunk of the prompt. How many tokens a chunk holds is not stated: the
model takes as many as fill the landing slots (DESIGN CHOICE, log 64). -/
def State.turnTokens (s : State) (l : LaneRec) (pos : Nat) : List (BitVec 32) :=
  if l.prompt = [] then [l.intok] else l.prompt.take (64 * max 1 s.landSlots - pos % 64)

/-- Step 3: pages completed from one position to another are to be adopted. -/
def State.adoptions (s : State) (b pos pos' : Nat) : List Adopt :=
  match s.pages.pool with
  | none => []
  | some q =>
    q.groups.flatMap fun g =>
      (List.range (pos' / 64 - pos / 64)).map fun k => { lane := b, layer := g.1, group := g.2, ord := pos / 64 + k, land := k }

/-- A full block of a sequence enters the directory when sharing is on and no equal block is there (R250). -/
def State.enterBlock (s : State) (seq ord : Nat) (prev h : BitVec 64) (toks : List (BitVec 32)) : State :=
  if !s.sharing ∨ s.pages.dir.any (fun n => decide (n.hash = h)) then s
  else
    let s1 := s.enterNode { hash := h, parent := prev, ord := ord, tokens := toks, lastUse := s.pages.turn } s.pinned
    let mark := s1.pages.pages.map fun p => if p.seqs.contains seq ∧ p.ord = ord then { p with inDir := true } else p
    s1.setPages { s1.pages with pages := mark }

/-- Chain hashes of the full blocks of a token list from a block on. -/
def State.chainFrom (s : State) (prev : BitVec 64) : Nat → List (BitVec 32) → List (BitVec 64 × List (BitVec 32))
  | 0, _ => []
  | n + 1, toks =>
    if toks.length < 64 then []
    else
      let h := s.chainHash prev (toks.take 64)
      (h, toks.take 64) :: s.chainFrom h n (toks.drop 64)

/-- Tokens, parent hash and chain hash of a block of a sequence. -/
def State.blockOf (s : State) (seq ord : Nat) : List (BitVec 32) × BitVec 64 × BitVec 64 :=
  match s.seq seq with
  | none => ([], 0, 0)
  | some x =>
    let hs := s.chainFrom 0 (ord + 1) x.tokens
    let prev := if ord = 0 then 0 else (hs.getD (ord - 1) (0, [])).1
    ((x.tokens.drop (64 * ord)).take 64, prev, (hs.getD ord (0, [])).1)

/-- What becomes of a page that goes from landing into its entry: it is there, it waits for a slot, no slot can be found, or
landing cannot be read. -/
inductive Put where
  | done | waits | full | unread
deriving DecidableEq, Repr

/-- A page goes from a landing slot into a slot of its entry. -/
def State.putPage (s : State) (e : PoolEntry) (p : Page) (k tier from' : Nat) (new : Bool) : State × Put :=
  let r := s.fillSlot e (k % 16384) p tier from'
  if !r.2 then (r.1, .unread)
  else
    let p := { p with slot := some k }
    if new then
      (r.1.setPages { r.1.pages with pages := r.1.pages.pages ++ [p], nextHandle := r.1.pages.nextHandle + 1 }, .done)
    else (r.1.modPage p.handle fun _ => p, .done)

/-- A page of a lane goes from landing into its ordinal's entry, in place where the sequence has it there already, else into
a slot of the entry (Table 6.13 step 3, R242). -/
def State.placePage (s : State) (a : Adopt) (seq fill : Nat) (toks : List (BitVec 32)) (hash : BitVec 64) : State × Put :=
  match s.pages.pool with
  | none => (s, .done)
  | some q =>
    match q.entryOf a.layer a.group a.ord, q.landingOf a.layer a.group with
    | some i, some land =>
      match q.entries[i]? with
      | none => (s, .done)
      | some e =>
        let from' := land.slotAddr a.land
        let tier := if fill = 64 then 2 else 1
        let p0 : Page := { handle := s.pages.nextHandle, layer := a.layer, group := a.group, ord := a.ord, slot := none,
                           tier := if fill = 64 then .sealed else .open, seqs := [seq], inDir := false,
                           lastUse := s.pages.turn, fill := fill, tokens := toks, hash := hash, cancelled := none,
                           landed := false }
        match s.seqPage seq a.layer a.group a.ord with
        | some old =>
          let p := { p0 with handle := old.handle, seqs := old.seqs }
          match old.slot with
          | some k =>
            if old.tier = .arriving then (s, .waits)
            else ((if old.tier = .leaving then s.cancelSpill old.handle else s)).putPage e p k tier from' false
          | none =>
            let r := s.needSlot i
            match r.2 with
            | .slot k => r.1.putPage e p (slotKey i k) tier from' false
            | .waits => (r.1, .waits)
            | .none => (r.1, .full)
        | none =>
          let r := s.needSlot i
          match r.2 with
          | .slot k => r.1.putPage e p0 (slotKey i k) tier from' true
          | .waits => (r.1, .waits)
          | .none => (r.1, .full)
    | _, _ => (s, .done)

/-- One adoption; a lane whose page finds no slot ends with POOL_FULL (R247), one whose landing slot cannot be read with the
storage error (log 63). -/
def State.adopt (s : State) (a : Adopt) : State :=
  match s.pages.call[a.lane]? with
  | none => s
  | some l =>
    let b := s.blockOf l.seq a.ord
    let r := s.placePage a l.seq 64 b.1 b.2.2
    match r.2 with
    | .done => r.1.setPages { r.1.pages with adopts := r.1.pages.adopts.erase a }
    | .waits => r.1
    | .full => (r.1.endLane a.lane poolFull).dropAdopts a.lane
    | .unread => (r.1.endLane a.lane 0x0610).dropAdopts a.lane

/-- Adopt what can be adopted. -/
def State.runAdopts (s : State) : State :=
  s.pages.adopts.foldl (fun (s : State) a => if s.pages.adopts.contains a then s.adopt a else s) s

/-- The blocks sealed in the turn enter the directory, in the order of their lanes (R250). -/
def State.enterBlocks (s : State) : State :=
  let s1 := s.pages.blocks.foldl (fun (s : State) k =>
    match s.pages.call[k.1]? with
    | none => s
    | some l =>
      let b := s.blockOf l.seq k.2
      s.enterBlock l.seq k.2 b.2.1 b.2.2 b.1) s
  s1.setPages { s1.pages with blocks := [] }

/-- Pages that the arrays of a round name. -/
def State.roundPages (s : State) (r : Nat) : List Page :=
  s.pages.pages.filter fun p => decide (p.fill = 64) && s.roundNames p r

/-- A page that a turn or the start of a call needs: where its entry has no slot for it, the lanes that include it end with
POOL_FULL (R247). -/
def State.needPage (s : State) (p : Page) : State :=
  let r := s.wantPage p.handle
  if r.2 then r.1
  else
    (List.range s.pages.call.length).foldl (fun (s : State) b =>
      if (s.pages.call[b]?).any fun l => l.active && p.seqs.contains l.seq then s.endLane b poolFull else s) r.1

/-- Pages of a round are used in the present turn (R244). -/
def State.useRound (s : State) (r : Nat) : State :=
  s.setPages { s.pages with pages := s.pages.pages.map fun p =>
    if p.fill = 64 ∧ s.roundNames p r then { p with lastUse := s.pages.turn } else p }

/-- Steps 5 and 6: the arrays of round 0, the turn records, and the raise of TURN_MB. -/
def State.finishTurn (s : State) : State :=
  match s.pages.pool with
  | none => s
  | some q =>
    let s1 := (s.writeRound 0).writeTurnRecords
    let s2 := if s.pages.delayed then s1.bumpReg 0x6022 8 1 else s1
    let ended := s2.pages.call.all fun l => !l.active
    let s3 := (s2.bumpReg 0x6022 10 1).coxRaise q.turnMb 1 ended
    (s3.setPages { s3.pages with turning := false, delayed := false, round := 0, turn := s3.pages.turn + 1 }).useRound 0

/-- The turn goes on: adoptions, then the pages it waits for, then its end. -/
def State.turnGoOn (s : State) : State :=
  if !s.pages.turning then s
  else
    let s1 := s.runAdopts
    if s1.pages.adopts ≠ [] then s1
    else
      let s2 := s1.enterBlocks
      let s3 := ((s2.roundPages 0).filter fun p => !p.resident).foldl State.needPage s2
      if (s3.roundPages 0).all Page.resident then s3.finishTurn
      else s3.setPages { s3.pages with delayed := true }

/-- Step 2 for one lane: its token and its position. -/
def State.laneTurn (s : State) (b : Nat) (out : BitVec 32) : State :=
  match s.pages.call[b]? with
  | none => s
  | some l =>
    match s.seq l.seq with
    | none => s
    | some x =>
      if !l.active then s
      else
        let toks := s.turnTokens l x.pos
        let pos := x.pos + toks.length
        let s1 := s.setSeq { x with pos := pos, tokens := x.tokens ++ toks }
        let new := s.adoptions b x.pos pos
        let s2 := s1.setPages { s1.pages with
          adopts := s1.pages.adopts ++ new
          blocks := s1.pages.blocks ++ (span (x.pos / 64) (pos / 64 - x.pos / 64)).map fun o => (b, o) }
        let rest := l.prompt.drop toks.length
        if pos > maxPos then s2.endLane b 0x0A03
        else if rest ≠ [] then s2.modLane b fun l => { l with prompt := rest, intok := rest.headD 0 }
        else
          let left := l.left - 1
          let finished := decide (left = 0) || (decide (l.stop ≠ 0xFFFFFFFF) && decide (out = l.stop))
          s2.modLane b fun l => { l with prompt := [], intok := out, left := left, active := !finished }

/-- PAGE_MANAGER_TURN: the output counter has advanced; the lanes' tokens come with the step. -/
def State.pageTurn (s : State) (tokens : List (BitVec 32)) : State :=
  if s.pages.pool.isNone ∨ s.pages.turning ∨ s.pages.ending ∨ s.pages.call = [] then s
  else
    let s1 := (List.range s.pages.call.length).foldl (fun (s : State) b => s.laneTurn b (tokens.getD b 0)) s
    (s1.setPages { s1.pages with turning := true, starting := false, delayed := false }).turnGoOn

def execPageManagerTurn (t : Time) (tokens : List (BitVec 32)) (s : State) : Host.Outcome State Fault Refusal :=
  .next ((s.advance t).pageTurn tokens)

/-- ROUND_START (R241): the arrays of the round, ROUND_MB with the exit request on the last round that holds a
page, and the prefetch of the next round. -/
def State.roundStart (s : State) : State :=
  match s.pages.pool with
  | none => s
  | some q =>
    if q.roundMb = q.turnMb ∨ s.pages.call = [] then s
    else
      let r := s.pages.round
      let s0 := ((s.roundPages r).filter fun p => !p.resident).foldl State.needPage s
      if !(s0.roundPages r).all Page.resident then s0
      else
        let s1 := ((s0.writeRound r).coxRaise q.roundMb 1 (decide (r ≥ s0.lastRound))).useRound r
        let s2 := s1.setPages { s1.pages with round := r + 1 }
        s2.prefetch fun p => decide (p.fill = 64) && s2.liveRounds.any fun n => s2.roundNames p n

def execRoundStart (t : Time) (s : State) : Host.Outcome State Fault Refusal := .next (s.advance t).roundStart

/-! ### Calls (R239, R242, R249, R256) -/

/-- A hit: the sequence includes the node's pages, which begin to come back where they are spilled (R246, R249). -/
def State.takeNode (s : State) (seq : Nat) (h : BitVec 64) : State :=
  let ps := s.pages
  let dir := ps.dir.map fun d => if d.hash = h then { d with lastUse := ps.turn } else d
  let pages := ps.pages.map fun p =>
    if p.inDir ∧ p.hash = h then { p with seqs := p.seqs ++ [seq], lastUse := ps.turn } else p
  let s1 := (s.setPages { ps with dir := dir, pages := pages }).bumpReg 0x6022 4 1
  (s1.pages.pages.filter fun p => p.inDir && decide (p.hash = h) && (p.slot.isNone || decide (p.tier = .leaving))).foldl
    (fun (s : State) p => (s.wantPage p.handle).1) s1

/-- The walk of the directory for a new sequence: full prompt blocks while they hit (R249). -/
def State.walk (s : State) (seq : Nat) (prev : BitVec 64) : Nat → Nat → List (BitVec 32) → State × Nat
  | 0, ord, _ => (s, ord)
  | k + 1, ord, toks =>
    if toks.length < 64 then (s, ord)
    else
      let h := s.chainHash prev (toks.take 64)
      match s.pages.dir.find? fun n => n.hash = h with
      | none => (s, ord)
      | some n =>
        if n.tokens ≠ toks.take 64 then (s.bumpReg 0x6022 5 1, ord)
        else (s.takeNode seq h).walk seq h k (ord + 1) (toks.drop 64)

/-- Prompt ids at an address, none where a word of theirs cannot be read. -/
def State.promptIds (s : State) (a n : Nat) : State × Option (List (BitVec 32)) :=
  let first := a / 32
  let words := if n = 0 then 0 else (a + 4 * n - 1) / 32 - first + 1
  let r := s.coxWords (32 * first) words
  (r.1, r.2.map fun ws =>
    let b := (bytesOfWords ws).drop (a % 32)
    (List.range n).map fun k => BitVec.ofNat 32 (leNat ((b.drop (4 * k)).take 4)))

def laneClean (w : EccWord) : Bool := decide (fld w 34 30 = 0) && decide (fld w 216 40 = 0)

def State.addLane (s : State) (l : LaneRec) : State := s.setPages { s.pages with call := s.pages.call ++ [l] }

/-- A lane that does not begin. -/
def idleLane (seq : Nat) : LaneRec :=
  { seq := seq, release := false, left := 0, stop := 0xFFFFFFFF, prompt := [], intok := 0, active := false }

/-- A lane starts on its sequence: NEW starts it afresh. A sequence that is not kept starts afresh too, and the model's INTOK
is the next prompt token, where none is left the last one of the prompt, or 0 (DESIGN CHOICE, log 64). -/
def State.beginLane (s : State) (pool : Pool) (w : EccWord) (prompt : List (BitVec 32)) : State :=
  let q := fld w 0 32
  let fresh := bit w 32 || (s.seq q).isNone
  let s1 := if fresh then s.releaseSeq q else s
  if fresh ∧ s1.pages.seqs.length ≥ pool.nseq then (s1.addLane (idleLane q)).setRegN 0x6022 9 0x0A02
  else
    let s2 := if fresh then s1.setSeq { id := q, pos := 0, tokens := [] } else s1
    let r := if fresh && s2.sharing then s2.walk q 0 (prompt.length / 64) 0 prompt else (s2, 0)
    let s3 := match r.1.seq q with
      | some x => if r.2 = 0 then r.1 else r.1.setSeq { x with pos := 64 * r.2, tokens := prompt.take (64 * r.2) }
      | none => r.1
    let rest := prompt.drop (64 * r.2)
    let pos := match s3.seq q with | some x => x.pos | none => 0
    let s4 := s3.addLane { seq := q, release := bit w 33, left := fld w 152 32, stop := BitVec.ofNat 32 (fld w 184 32),
                           prompt := rest, intok := rest.headD (prompt.getLastD 0), active := decide (pos ≤ maxPos) }
    if pos > maxPos then s4.setRegN 0x6022 9 0x0A03 else s4

/-- One lane record of a call (R239). A record with a reserved bit set is discarded (R5), and one that cannot be read, or whose
prompt cannot, ends its lane with the storage error (log 63). -/
def State.startLane (s : State) (pool : Pool) (a : Nat) : State :=
  let r := s.coxWords a 1
  match r.2 with
  | none => (r.1.addLane (idleLane 0)).setRegN 0x6022 9 0x0610
  | some ws =>
    let w := ws.headD 0
    if !laneClean w then r.1.addLane (idleLane (fld w 0 32))
    else
      let p := r.1.promptIds (fld w 96 56) (fld w 64 32)
      match p.2 with
      | none => (p.1.addLane (idleLane (fld w 0 32))).setRegN 0x6022 9 0x0610
      | some prompt => p.1.beginLane pool w prompt

/-- The open pages that the lanes of a call go on with (R242). -/
def State.openPages (s : State) : List Page :=
  s.pages.pages.filter fun p => decide (p.fill < 64) && s.pages.call.any fun l =>
    l.active && p.seqs.contains l.seq && (s.seq l.seq).any fun x => decide (x.pos / 64 = p.ord)

/-- An open page goes into landing slot 0 of its group (R242), with TIER LANDING. -/
def State.toLanding (s : State) (p : Page) : State :=
  match s.pages.pool.bind fun q => q.landingOf p.layer p.group, p.slot.bind fun k => s.entry (k / 16384), p.slot with
  | some land, some e, some k => (s.fillSlot land 0 p 5 (e.slotAddr (k % 16384))).1
  | _, _, _ => s

/-- The start of a call goes on: once the pages that its lanes need are in their slots, the open ones go to landing and the
first arrays and turn records are written (R238, R242). -/
def State.startGoOn (s : State) : State :=
  if !s.pages.starting then s
  else
    let needed := fun (s : State) => s.openPages ++ s.roundPages 0
    let s1 := ((needed s).filter fun p => !p.resident).foldl State.needPage s
    if !(needed s1).all Page.resident then s1
    else
      let s2 := ((s1.openPages.foldl State.toLanding s1).writeRound 0).writeTurnRecords
      (s2.setPages { s2.pages with starting := false }).useRound 0

/-- A call begins (R239, R246). A batch above BMAX, which R239 excludes, has its first BMAX lanes (DESIGN CHOICE, log 64). -/
def State.beginCall (s : State) (watch b : Nat) : State :=
  match s.pages.pool with
  | none => s
  | some pool =>
    let s0 := (s.setPages { s.pages with call := [], round := 0 }).setRegN 0x6022 9 0
    let s1 := (List.range (min b pool.bmax)).foldl (fun (s : State) k => s.startLane pool (watch + 32 * (k + 1))) s0
    let s2 := s1.prefetch fun p => s1.pages.call.any fun l => p.seqs.contains l.seq
    (s2.setPages { s2.pages with starting := true }).startGoOn

/-- A dispatch fill: its call begins, or waits for the end of the present one. -/
def State.startCall (s : State) (watch b : Nat) : State :=
  if s.pages.pool.isNone then s
  else if s.pages.call = [] then s.beginCall watch b
  else s.setPages { s.pages with waiting := s.pages.waiting ++ [(watch, b)] }

/-- An open page of an ended call goes into its ordinal's entry (R242). -/
def State.storeOpen (s : State) (a : Adopt) : State :=
  match (s.pages.call[a.lane]?).bind fun l => s.seq l.seq with
  | none => s.setPages { s.pages with stores := s.pages.stores.erase a }
  | some x =>
    let r := s.placePage a x.id (x.pos % 64) ((x.tokens.drop (64 * a.ord)).take 64) 0
    let s1 := r.1.setPages { r.1.pages with stores := r.1.pages.stores.erase a }
    match r.2 with
    | .done => s1
    | .waits => r.1
    | .full => s1.setRegN 0x6022 9 poolFull
    | .unread => s1.setRegN 0x6022 9 0x0610

/-- The end of a call goes on: when every open page is put away, released sequences go (R251), and the next call begins. -/
def State.endGoOn (s : State) : State :=
  if !s.pages.ending then s
  else
    let s1 := s.pages.stores.foldl (fun (s : State) a => s.storeOpen a) s
    if s1.pages.stores ≠ [] then s1
    else
      let s2 := (s1.pages.call.filter (·.release)).foldl (fun (s : State) l => s.releaseSeq l.seq) s1
      let rest := s2.pages.waiting
      let s3 := s2.setPages { s2.pages.noCall with wanted := s2.pages.wanted, waiting := rest.tail }
      match rest.head? with
      | some c => s3.beginCall c.1 c.2
      | none => s3

/-- The open pages of the lanes whose sequences are kept. -/
def State.openStores (s : State) (pool : Pool) : List Adopt :=
  s.pages.call.zipIdx.flatMap fun p =>
    match s.seq p.1.seq with
    | none => []
    | some x =>
      if x.pos % 64 = 0 ∨ p.1.release then []
      else pool.groups.map fun g => { lane := p.2, layer := g.1, group := g.2, ord := x.pos / 64, land := 0 }

/-- CALL_END (R242, R251). -/
def State.callEnd (s : State) : State :=
  match s.pages.pool with
  | none => s
  | some pool =>
    if s.pages.turning ∨ s.pages.starting ∨ s.pages.ending ∨ s.pages.call = [] then s
    else (s.setPages { s.pages with ending := true, stores := s.openStores pool }).endGoOn

/-- A slot or a page has come free, or a page has come: whatever waited goes on. -/
def State.resume (s : State) : State := (((s.retryWanted).turnGoOn).startGoOn).endGoOn

/-! ### The dispatch selection (R215, R217) -/

/-- The first HOST mailbox of the dispatch rendezvous, and how many fills of it a release consumes. -/
def State.dispatchBox (s : State) : Option (MbEntry × Nat) :=
  match s.split.bind fun sp => s.rdv sp.rdv, s.image with
  | some r, some im =>
    r.refs.findSome? fun p => (im.mbs.find? fun m => decide (m.id = p.1) && decide (m.kind = 1)).map fun m => (m, p.2)
  | _, _ => none

/-- SPLIT_SELECTION: the cox sets the selection for the next fill that a dispatch release is to consume, and with a pool the
call of that fill starts (R215, R217, R239). -/
def State.dispatchFill (s : State) : State :=
  match s.split, s.dispatchBox with
  | some sp, some (m, n) =>
    if s.st ≠ .running ∨ (s.umpire.selNext.length + 1) * n > (s.mailbox m.id).toNat then s
    else
      let r := s.coxWord m.watch
      let b := max 1 (fld r.2 128 16)
      let sel := sp.entries.map fun e => (e.window, variantFor e b)
      (r.1.setUmpire { r.1.umpire with selNext := r.1.umpire.selNext ++ [(b, sel)] }).startCall m.watch b
  | _, _ => s

def execSplitSelection (t : Time) (s : State) : Host.Outcome State Fault Refusal := .next (s.advance t).dispatchFill

def execCallEnd (t : Time) (s : State) : Host.Outcome State Fault Refusal := .next (s.advance t).callEnd

/-- PREFETCH_ARRIVAL: the words have come; the page becomes SEALED or OPEN (Table 6.14). -/
def State.arrival (s : State) (h : Nat) : State :=
  match s.page h with
  | none => s
  | some p =>
    if p.tier ≠ .arriving ∨ !p.landed then s
    else
      let s1 := s.showTier p (tierCode p.backTier)
      let s2 := (s1.modPage h fun p => { p with tier := p.backTier, landed := false }).bumpReg 0x6022 7 1
      (s2.freeUnused).resume

def execPrefetchArrival (t : Time) (handle : BitVec 48) (s : State) : Host.Outcome State Fault Refusal :=
  .next ((s.advance t).arrival handle.toNat)

/-! ### Register writes (R246, R252) and loads (R252, R254) -/

/-- The directory is cleared: its references go. -/
def State.clearDir (s : State) : State :=
  (s.setPages { s.pages with dir := [], pages := s.pages.pages.map fun p => { p with inDir := false } }).freeUnused

def State.writeKey (s : State) (key : List Byte) : State := ((s.clearDir).setDom 0x6021 1 key).setRegN 0x6021 4 1

def State.prefetchSeq (s : State) (q : Nat) : State := s.prefetch fun p => p.seqs.contains q

/-- Every slot is FREE, and no page, sequence, directory or request to the streamers for a page is left (R252, Table 6.14). -/
def State.freeAllPages (s : State) : State :=
  let s1 := s.pages.pages.foldl (fun (s : State) p => s.showTier p 0) s
  ({ s1 with streams := s1.streams.filter fun q => match q.kind with | .spill _ => false | .fetch _ => false | _ => true } : State).setPages
    { PageState.empty with maskRise := s1.pages.maskRise, nextHandle := s1.pages.nextHandle }

/-- An accepted load: no key, no directory, no sequence, every page free; 6022h is zero. -/
def State.loadPool (s : State) (pool : Option Pool) : State :=
  let s1 := s.freeAllPages
  (((s1.setPages { s1.pages with pool := pool }).setDom 0x6021 1 []).setRegN 0x6021 4 0).zeroRegs 0x6022 (span 1 10)

/-- 6022h.01 and 6022h.02 (Table 6.16). -/
def State.residentPages (s : State) : Nat :=
  (s.pages.pages.filter fun p => p.slot.isSome && decide (p.tier ≠ .leaving)).length

def State.spilledPages (s : State) : Nat := (s.pages.pages.filter fun p => p.slot.isNone).length

end Sys2Proof.Machine
end

