-- ==== Sys2Proof/Machine/Image.lean ====
section
/-! DEFINITION. The program image and the tables a load reads, from their bytes (04 Tables 4.6 to 4.9, R150,
R155, R165; 05 Tables 5.10 to 5.12; 06 Tables 6.9, 6.10; 07 Tables 7.3 to 7.7; 08 Tables 8.3 to 8.5), and
the open routes of its route programs (R126). -/

namespace Sys2Proof.Machine

/-- The ECC word at a byte offset. -/
def entryAt (b : List Byte) (off : Nat) : EccWord := wordOfBytes (bytesAt b off 32)

/-- n consecutive entries. -/
def entriesAt (b : List Byte) (off n : Nat) : List EccWord := (List.range n).map fun i => entryAt b (off + 32 * i)

/-- The header (Table 4.6); `clean` when every reserved field is zero. -/
structure Header where
  magic : Nat
  contract : Nat
  fwMajor : Nat
  len : Nat
  floorGen : Nat
  floorDigest : Nat
  nCore : Nat
  nRouter : Nat
  nRdv : Nat
  nMb : Nat
  reserve : Bool
  stepRdv : Nat
  deadline : Nat
  offCore : Nat
  offRouter : Nat
  offRdv : Nat
  offMb : Nat
  offLedger : Nat
  offShift : Nat
  digest : Nat
  clean : Bool
deriving DecidableEq, Repr

def headerOf (b : List Byte) : Header :=
  { magic := natAt b 0 4, contract := natAt b 4 2, fwMajor := natAt b 6 2, len := natAt b 8 8,
    floorGen := natAt b 16 8, floorDigest := natAt b 24 48, nCore := natAt b 72 2, nRouter := natAt b 74 2,
    nRdv := natAt b 76 2, nMb := natAt b 78 2, reserve := decide (natAt b 80 1 % 2 = 1),
    stepRdv := natAt b 82 2 % 4096, deadline := natAt b 84 4, offCore := natAt b 96 8,
    offRouter := natAt b 104 8, offRdv := natAt b 112 8, offMb := natAt b 120 8, offLedger := natAt b 128 8,
    offShift := natAt b 136 8, digest := natAt b 160 48,
    clean := decide (natAt b 80 2 / 2 = 0) && decide (natAt b 82 2 / 4096 = 0) && decide (natAt b 88 8 = 0) &&
      decide (natAt b 144 16 = 0) && decide (natAt b 208 48 = 0) }

/-- The step deadline in ms: 0 means 10,000. -/
def Header.deadlineMs (h : Header) : Nat := if h.deadline = 0 then 10000 else h.deadline

/-! ### Programs -/

def progUid (e : EccWord) : Nat := fld e 0 16
def progCount (e : EccWord) : Nat := fld e 16 16
def progOff (e : EccWord) : Nat := fld e 64 64
def progClean (e : EccWord) : Bool := decide (fld e 32 32 = 0) && decide (fld e 128 128 = 0)

/-- n op words from a byte offset (R150). -/
def progWords (b : List Byte) (off n : Nat) : List OpWord :=
  (List.range n).map fun i => BitVec.ofNat 128 (natAt b (off + 16 * i) 16)

def coreEntries (b : List Byte) (h : Header) : List EccWord := entriesAt b h.offCore h.nCore
def routerEntries (b : List Byte) (h : Header) : List EccWord := entriesAt b h.offRouter h.nRouter

/-- Programs as UNIT_ID and words. -/
def programsOf (b : List Byte) (es : List EccWord) : List (Nat × List OpWord) :=
  es.map fun e => (progUid e, progWords b (progOff e) (progCount e))

/-! ### Rendezvous and mailboxes -/

def rdvRefs (e : EccWord) : List (Nat × Nat) :=
  (List.range (fld e 16 4)).map fun i => (fld e (64 + 24 * i) 10, fld e (74 + 24 * i) 14)

/-- Units whose program holds a STAKE on a rendezvous (R133). -/
def stakersOf (progs : List (Nat × List OpWord)) (rdv : Nat) : List Nat :=
  (progs.filter fun p => p.2.any fun w => decide (opUnit w = 0) && decide (opCode w = 4) && decide (stakeRdv w = rdv)).map
    Prod.fst

def rdvOf (progs : List (Nat × List OpWord)) (sheds : List (Nat × Nat)) (e : EccWord) : RdvEntry :=
  let id := fld e 0 12
  { id := id, refs := rdvRefs e, release := bit e 20, timeoutMs := timeoutMs (fld e 32 16),
    units := stakersOf progs id, shed := ((sheds.find? fun p => p.1 = id).map Prod.snd).getD 0 }

def rdvClean (e : EccWord) : Bool :=
  decide (fld e 12 4 = 0) && decide (fld e 21 11 = 0) && decide (fld e 48 16 = 0)

def mbOf (e : EccWord) : MbEntry := { id := fld e 0 10, kind := fld e 10 4, watch := fld e 32 56, tag := fld e 128 16 }

def mbClean (e : EccWord) : Bool :=
  let k := fld e 10 4
  decide (1 ≤ k ∧ k ≤ 3) && decide (fld e 14 18 = 0) && decide (fld e 88 40 = 0) && decide (fld e 144 112 = 0) &&
    (decide (k = 1) || decide (fld e 32 56 = 0)) && (decide (k = 3) || decide (fld e 128 16 = 0))

/-! ### Ledger and shift section -/

def ledgerWindows (b : List Byte) (h : Header) : Nat := fld (entryAt b h.offLedger) 0 32

/-- Bytes of the ledger (R156). -/
def ledgerLen (w : Nat) : Nat := 32 + 60480 * w

def ledgerOf (b : List Byte) (h : Header) : Ledger :=
  let w := ledgerWindows b h
  { windows := w, repeatAt := fld (entryAt b h.offLedger) 32 32, bytes := bytesAt b h.offLedger (ledgerLen w) }

def pairCount (b : List Byte) (h : Header) : Nat := if h.reserve then fld (entryAt b h.offShift) 0 32 else 0

def pairEntries (b : List Byte) (h : Header) : List EccWord := entriesAt b (h.offShift + 32) (pairCount b h)

def pairOf (e : EccWord) : ShiftPair := { bank := fld e 0 4, a := fld e 4 24, b := fld e 28 24, len := fld e 52 20 + 1 }

/-! ### Open routes (R126) -/

def isRoute (w : OpWord) : Bool := decide (opUnit w = 1) && decide (opCode w = 1)

def outCodes (w : OpWord) : List Nat := (List.range 8).filter fun k => (routeOut w).testBit k

/-- Where an open connection of a router leads: inputs of other routers as number * 8 + port, and sinks. -/
def openHops (r : ColId) (w : OpWord) : List Nat × List Nat :=
  (outCodes w).foldl (fun a k =>
    match portLayer (portOfCode k), neighbour r (portOfCode k) with
    | some l, _ => if routeVsink w then (a.1, a.2 ++ [sinkKey (.vault (coreAt r l))]) else a
    | none, some (n, inp) => (a.1 ++ [n.num * 8 + portCode inp], a.2)
    | none, none => match r.wellOf with
      | some g => (a.1, a.2 ++ [sinkKey (.well g)])
      | none => a) ([], [])

/-- Follow open connections from inputs to their sinks: the inputs reached and the sinks. -/
def openGo (routes : Nat → List OpWord) : Nat → List Nat → List Nat → List Nat → List Nat × List Nat
  | 0, _, seen, sinks => (seen, sinks)
  | _, [], seen, sinks => (seen, sinks)
  | fuel + 1, p :: todo, seen, sinks =>
    if seen.contains p then openGo routes fuel todo seen sinks
    else
      let r := colOfNum (p / 8)
      let ws := (routes (p / 8)).filter fun w => isRoute w && routeOpen w && decide (routeIn w = p % 8)
      let hops := ws.map (openHops r)
      openGo routes fuel (todo ++ hops.flatMap Prod.fst) (p :: seen) (sinks ++ hops.flatMap Prod.snd)

/-- Open routes begin at the AUX input of a port router: router, store index, inputs reached, sinks. -/
def openStarts (progs : List (Nat × List OpWord)) : List (ColId × Nat × List Nat × List Nat) :=
  let routes := fun n => ((progs.find? fun p => p.1 = (colOfNum n).uid).map Prod.snd).getD []
  progs.flatMap fun p =>
    match unitOfUid p.1 with
    | some (.router r) =>
      if (portOfRouter r).isNone then []
      else
        (p.2.zipIdx.filter fun w => isRoute w.1 && routeOpen w.1 && decide (routeIn w.1 = 7)).map fun w =>
          let hop := openHops r w.1
          let t := openGo routes 40000 hop.1 [] hop.2
          (r, w.2, t.1, t.2.eraseDups)
    | _ => []

def openRoutesOf (progs : List (Nat × List OpWord)) : List OpenRoute :=
  (openStarts progs).map fun o =>
    { key := o.1.num * 16384 + o.2.1, port := (portOfRouter o.1).getD 0, sinks := o.2.2.2 }

/-! ### The split table (05 Tables 5.10 to 5.12) -/

def splitEntryOf (e : EccWord) : SplitEntry :=
  { layerId := fld e 0 16, window := fld e 16 16, nvar := fld e 32 4,
    sel := (List.range 23).map fun i => fld e (36 + 3 * i) 3,
    share := (List.range 6).map fun i => fld e (108 + 8 * i) 8 }

def splitClean (e : EccWord) : Bool := decide (fld e 105 3 = 0) && decide (fld e 156 100 = 0)

def variantRecOf (e : EccWord) : VariantRec :=
  { uid := fld e 0 16, window := fld e 16 16, first := fld e 32 16,
    lens := (List.range 8).map fun v => fld e (48 + 16 * v) 16 }

def splitOf (tab img : List Byte) : Split :=
  let h := entryAt tab 0
  { rdv := fld h 16 12, entries := (entriesAt tab 32 (fld h 0 16)).map splitEntryOf,
    recs := (entriesAt img (fld h 32 64) (fld h 96 32)).map variantRecOf }

/-! ### The pool (06 Tables 6.9, 6.10) -/

def poolEntryOf (e : EccWord) : PoolEntry :=
  { layer := fld e 0 16, group := fld e 16 8, fmt := fld e 24 8, unit := fld e 32 16, bank := fld e 48 4,
    landing := decide (fld e 52 2 = 1), ord := fld e 56 16, e := fld e 72 16, slotBase := fld e 88 20,
    nslot := fld e 108 14, sarray := fld e 128 20, q := fld e 148 8 }

def poolOf (b : List Byte) : Pool :=
  let h := entryAt b 0
  { turnMb := fld h 32 10, roundMb := fld h 42 10, turnAddr := fld h 64 56, nseq := fld h 128 16, bmax := fld h 144 16,
    entries := (entriesAt b 32 (fld h 0 32)).map poolEntryOf }

/-! ### Crews (07 Tables 7.3 to 7.7) -/

def crewMembers (b : List Byte) (n : Nat) : List Nat := (List.range n).map fun i => natAt b (32 + 2 * i) 2 % 4096

/-- Place of the layer entries in CREW_DATA. -/
def crewLayersOff (n : Nat) : Nat := 32 + 32 * ceilDiv n 16

def optExtent (v : Nat) : Option Nat := if v = 0xFFFFF then none else some v

def crewDefOf (shared loc : List Byte) : CrewDef :=
  let h := entryAt shared 0
  let n := fld h 8 12 + 1
  let nl := fld h 64 16
  let lh := entryAt loc 0
  let wait := fld h 32 32
  { members := crewMembers shared n, bs8 := decide (fld h 20 4 = 4), drop := decide (fld h 24 2 = 1),
    nonfin := fld h 26 2,
    waitUs := if wait = 0xFFFFFFFF then none else some (if wait = 0 then 2000 else wait),
    layers := (List.range nl).map fun i =>
      let e := entryAt shared (crewLayersOff n + 32 * i)
      let g := entryAt loc (32 + 32 * i)
      { id := fld e 0 16, owner := fld e 16 12, nk := fld e 32 32, scaleOff := fld e 64 32, contrib := fld g 0 20,
        carry := optExtent (fld g 20 20), dest := optExtent (fld g 40 20) },
    scaleAddr := fld lh 0 56, sealAddr := fld lh 64 56, sumMb := fld lh 120 10,
    extents := (entriesAt loc (32 + 32 * nl) (fld lh 148 20)).map fun e => (fld e 0 56, fld e 56 24) }

/-! ### The state table (08 Tables 8.3 to 8.5) -/

def stateTensorOf (e : EccWord) : StateTensor :=
  { layer := fld e 0 16, tensor := fld e 16 16, rule := fld e 32 2, bf16 := bit e 34, nband := fld e 64 24,
    cb := fld e 88 16, first := fld e 104 20, cA := fld e 128 56, cB := fld e 184 20 }

def bandRecOf (e : EccWord) : BandRec :=
  { wA := fld e 0 56, wB := fld e 56 20, mA := fld e 76 20, mB := fld e 96 20, rA := fld e 116 20, rB := fld e 136 20 }

def stateTabOf (b : List Byte) : StateTab :=
  let h := entryAt b 0
  let n := fld h 0 16
  { tensors := (entriesAt b 32 n).map stateTensorOf, bands := (entriesAt b (32 + 32 * n) (fld h 16 20)).map bandRecOf }

/-! ### A program moved one place east (R163, R218, Table 4.13) -/

/-- Number of a core, its unit id, an address in its vault and a sink, after the positions `mv` have moved. -/
def movedNum (mv : List Nat) (n : Nat) : Nat := if mv.contains n then n + 3 else n

def movedUid (mv : List Nat) (u : Nat) : Nat :=
  match unitOfUid u with
  | some (.core c) => if mv.contains c.num then (eastOf c).uid else u
  | _ => u

def movedAddr (mv : List Nat) (a : Nat) : Nat :=
  match placeOf a with
  | some (.vault c _ _) => if mv.contains c.num then a + 2 ^ 43 else a
  | _ => a

def movedSink (mv : List Nat) (k : Nat) : Nat := if k < 12960 then movedNum mv k else k

def Image.shift (mv : List Nat) (im : Image) : Image :=
  { im with
    programs := im.programs.map fun p => (movedUid mv p.1, p.2)
    rdvs := im.rdvs.map fun r => { r with units := r.units.map (movedUid mv) }
    mbs := im.mbs.map fun m => { m with watch := movedAddr mv m.watch }
    openRoutes := im.openRoutes.map fun o => { o with sinks := o.sinks.map (movedSink mv) }
    split := im.split.map fun sp => { sp with recs := sp.recs.map fun r => { r with uid := movedUid mv r.uid } } }

def Pool.shift (mv : List Nat) (q : Pool) : Pool :=
  { q with turnAddr := movedAddr mv q.turnAddr
           entries := q.entries.map fun e => { e with unit := movedUid mv e.unit } }

def CrewDef.shift (mv : List Nat) (d : CrewDef) : CrewDef :=
  { d with scaleAddr := movedAddr mv d.scaleAddr, sealAddr := movedAddr mv d.sealAddr
           extents := d.extents.map fun e => (movedAddr mv e.1, e.2) }

def StateTab.shift (mv : List Nat) (t : StateTab) : StateTab :=
  { tensors := t.tensors.map fun x => { x with cA := movedAddr mv x.cA }
    bands := t.bands.map fun b => { b with wA := movedAddr mv b.wA } }

/-- A table keyed by core number after the move. -/
def movedTbl {α : Type} (mv : List Nat) (t : Tbl α) : Tbl α :=
  t.foldl (fun u e => tblPut u (movedNum mv e.1) e.2) []

end Sys2Proof.Machine
end

