-- ==== Sys2Proof/Machine/LoadChecks.lean ====
section
/-! DEFINITION. The loader's checks that need no walk of the schedule (04 Table 4.10; 05 R218; 06 R237;
07 R262; 08 R306; 09 R340, R349; 15 R515). Each yields the violations it finds; what a walk of the schedule
finds is in Walk.lean to WalkRules.lean. -/

namespace Sys2Proof.Machine

/-- A violation: code, unit (0xFFFF for none), index, stroke and ac (R151, Table 4.11). -/
structure Bad where
  code : Nat
  unit : Nat
  index : Nat
  stroke : Nat
  ac : Nat
deriving DecidableEq, Repr

def bad (code unit index : Nat) : Bad := ⟨code, unit, index, 0, 0⟩

def noUnit : Nat := 0xFFFF

/-- The order within one check: stroke, ac, those that name a unit first, the unit as in R105, the index. -/
def Bad.rank (v : Bad) : List Nat :=
  [v.stroke, v.ac, if v.unit = noUnit then 1 else 0, v.unit % 16, v.unit / 512 % 32, v.unit / 16 % 32,
   v.unit / 16384, v.index]

def leastBad (l : List Bad) : Option Bad :=
  l.foldl (fun (m : Option Bad) v =>
    match m with | none => some v | some w => if lexLt v.rank w.rank then some v else m) none

def badIf (p : Bool) (v : Bad) : List Bad := if p then [v] else []

/-- The first check that fails, in the order of Table 4.10. -/
def firstFailing (l : List Bad) : Option Bad :=
  (span 1 15).findSome? fun c => leastBad (l.filter fun v => v.code = c)

/-! ### 0x01 HEADER -/

def overlaps (a b : Nat × Nat) : Bool :=
  decide (0 < a.2) && decide (0 < b.2) && decide (a.1 < b.1 + b.2) && decide (b.1 < a.1 + a.2)

/-- Sections other than the programs, as offset and length. -/
def fixedSections (b : List Byte) (h : Header) : List (Nat × Nat) :=
  [(0, 256), (h.offCore, 32 * h.nCore), (h.offRouter, 32 * h.nRouter), (h.offRdv, 32 * h.nRdv), (h.offMb, 32 * h.nMb),
   (h.offLedger, ledgerLen (ledgerWindows b h))] ++
    (if h.reserve then [(h.offShift, 32 + 32 * pairCount b h)] else [])

def progSections (b : List Byte) (h : Header) : List (Nat × Nat) :=
  (coreEntries b h ++ routerEntries b h).map fun e => (progOff e, 16 * progCount e)

def sectionOk (len : Nat) (s : Nat × Nat) : Bool := decide (s.1 % 32 = 0) && decide (s.1 + s.2 ≤ len)

/-- Two places of a list that overlap. -/
def someOverlap : List (Nat × Nat) → Bool
  | [] => false
  | a :: t => t.any (overlaps a) || someOverlap t

def headerBad (b : List Byte) (h : Header) (len : Nat) : Bool :=
  let w := ledgerWindows b h
  let rep := fld (entryAt b h.offLedger) 32 32
  decide (h.magic ≠ 0x4C4D5049) || decide (h.len ≠ len) || decide (len % 32 ≠ 0) || decide (len < 256) ||
    !(decide (1 ≤ h.nCore) && decide (h.nCore ≤ 12960)) || decide (h.nRouter > 4320) ||
    !(decide (1 ≤ h.nRdv) && decide (h.nRdv ≤ 4096)) || decide (h.nMb > 1024) ||
    (!h.reserve && decide (h.offShift ≠ 0)) || decide (w = 0) || (decide (rep ≠ 0xFFFFFFFF) && decide (rep ≥ w)) ||
    (fixedSections b h).any (fun s => !sectionOk len s) || someOverlap (fixedSections b h)

/-- Program entries: the unit, its table, the count, the place of the words. -/
def programBads (b : List Byte) (h : Header) (len : Nat) (core : Bool) : List Bad :=
  let es := if core then coreEntries b h else routerEntries b h
  let base := if core then 0 else h.nCore
  let progs := (progSections b h).zipIdx
  es.zipIdx.flatMap fun p =>
    let e := p.1
    let n := progCount e
    let sec := (progOff e, 16 * n)
    let unitOk := match unitOfUid (progUid e) with
      | some (.core _) => core
      | some (.router _) => !core
      | none => false
    let alone := !((fixedSections b h).any (overlaps sec)) &&
      !(progs.any fun q => decide (q.2 ≠ base + p.2) && overlaps sec q.1)
    badIf (!(unitOk && !((es.take p.2).any fun f => decide (progUid f = progUid e)) && decide (1 ≤ n) &&
      decide (n ≤ if core then 32768 else 16384) && sectionOk len sec && alone)) (bad 1 (progUid e) p.2)

def refBads (b : List Byte) (h : Header) : List Bad :=
  (entriesAt b h.offRdv h.nRdv).zipIdx.flatMap fun p =>
    badIf (decide (fld p.1 16 4 > 8) || (rdvRefs p.1).any (fun r => decide (r.2 = 0))) (bad 6 noUnit p.2)

/-! ### 0x06 ENCODING: programs -/

/-- A port of a column without a neighbour, well controller or port engine (R107). -/
def portAbsent (r : ColId) (k : Nat) : Bool :=
  match portOfCode k with
  | .l2 => false | .l4 => false | .l6 => false
  | .aux => (r.wellOf).isNone && (portOfRouter r).isNone
  | p => (neighbour r p).isNone

/-- A ROUTE that R107 or R126 does not allow at its router. -/
def routeBad (r : ColId) (w : OpWord) : Bool :=
  isRoute w &&
    (portAbsent r (routeIn w) || (outCodes w).any (portAbsent r) ||
      (routeOpen w && ((!routeVsink w && (outCodes w).any fun k => (portLayer (portOfCode k)).isSome) ||
        ((outCodes w).contains 7 && (r.wellOf).isNone))))

def isLoop (w : OpWord) : Bool := decide (opUnit w = 0) && decide (opCode w = 2)
def isStake (w : OpWord) : Bool := decide (opUnit w = 0) && decide (opCode w = 4)
def isHalt (w : OpWord) : Bool := decide (opUnit w = 0) && decide (opCode w = 1)
def isExitIf (w : OpWord) : Bool := decide (opUnit w = 0) && decide (opCode w = 3)

/-- Loops that hold a store index in their bodies. -/
def loopsOver (ws : List OpWord) (i : Nat) : List (OpWord × Nat) :=
  (ws.zipIdx.take i).filter fun p => isLoop p.1 && decide (i ≤ p.2 + loopBody p.1)

/-- One word of a program: its encoding, the loops around it, the STAKE before an EXIT_IF, the last HALT. -/
def wordBad (u : UnitId) (ws : List OpWord) (w : OpWord) (i : Nat) : Bool :=
  !unitWordOk u w ||
    (match u with | .router r => routeBad r w | .core _ => false) ||
    (decide (i + 1 = ws.length) && !isHalt w) ||
    (isLoop w && (decide (i + loopBody w ≥ ws.length) || decide ((loopsOver ws i).length ≥ 4) ||
      (loopsOver ws i).any fun p => decide (p.2 + loopBody p.1 < i + loopBody w))) ||
    (isExitIf w && !(decide (opAdv w = 0) && decide (0 < i) && (ws[i - 1]?).any isStake))

def wordBads (progs : List (Nat × List OpWord)) : List Bad :=
  progs.flatMap fun p =>
    match unitOfUid p.1 with
    | some u => p.2.zipIdx.flatMap fun w => badIf (wordBad u p.2 w.1 w.2) (bad 6 p.1 w.2)
    | none => []

/-- Reserved fields of the header and of the tables. -/
def reservedBads (b : List Byte) (h : Header) : List Bad :=
  let tab := fun (l : List EccWord) (ok : EccWord → Bool) => l.zipIdx.flatMap fun p => badIf (!ok p.1) (bad 6 noUnit p.2)
  let prog := fun (l : List EccWord) => l.zipIdx.flatMap fun p => badIf (!progClean p.1) (bad 6 (progUid p.1) p.2)
  badIf (!h.clean || decide (fld (entryAt b h.offLedger) 64 192 ≠ 0) ||
      (h.reserve && decide (fld (entryAt b h.offShift) 32 224 ≠ 0))) (bad 6 noUnit 0) ++
    prog (coreEntries b h) ++ prog (routerEntries b h) ++ tab (entriesAt b h.offRdv h.nRdv) rdvClean ++
    tab (entriesAt b h.offMb h.nMb) mbClean ++ tab (pairEntries b h) fun e => decide (fld e 72 184 = 0)

/-! ### Vault areas -/

/-- A run of bytes lies in one bank of a vault that is neither dead nor drain-only. -/
def State.areaOk (s : State) (a len : Nat) : Bool :=
  match placeOf a with
  | some (.vault c _ off) => decide (off + len ≤ bankBytes) && !s.vaultDead c && !s.vaultDrain c
  | _ => false

/-- A vault address whose vault is neither dead nor drain-only. -/
def State.vaultOk (s : State) (a : Nat) : Bool := s.areaOk a 32

/-! ### 0x06: crews (R262, R340) -/

/-- Crews that CREW mailboxes name, by id. -/
def crewIds (mbs : List MbEntry) : List Nat :=
  (List.range 256).filter fun c => mbs.any fun m => decide (m.kind = 3) && decide (m.tag % 256 = c)

def strictlyUp : List Nat → Bool
  | a :: b :: t => decide (a < b) && strictlyUp (b :: t)
  | _ => true

/-- Entries of a table from byte o to its end, at most n. -/
def entriesIn (b : List Byte) (o n : Nat) : List EccWord := entriesAt b o (min n ((b.length - o) / 32))

/-- Members and layer entries that stand in CREW_DATA. -/
def crewSize (b : List Byte) : Nat := fld (entryAt b 0) 8 12 + 1
def crewLayers (b : List Byte) : List EccWord := entriesIn b (crewLayersOff (crewSize b)) (fld (entryAt b 0) 64 16)

/-- Fields of CREW_DATA in their ranges (Tables 7.3, 7.4). -/
def crewRange (c : Nat) (b : List Byte) : Bool :=
  let h := entryAt b 0
  let nl := fld h 64 16
  let wait := fld h 32 32
  decide (fld h 0 8 = c) && decide (wait = 0 ∨ wait = 0xFFFFFFFF ∨ (100 ≤ wait ∧ wait ≤ 1000000)) &&
    decide (1 ≤ nl ∧ nl ≤ 4096) &&
    (crewLayers b).all fun e => decide (1 ≤ fld e 32 32) && decide (fld e 32 32 ≤ 67108864)

/-- CREW_DATA holds no reserved encoding and no reserved bit (Tables 7.3, 7.4). -/
def crewClean (b : List Byte) : Bool :=
  let h := entryAt b 0
  let n := crewSize b
  decide (fld h 20 4 = if n ≤ 64 then 4 else 3) && decide (fld h 24 2 ≤ 1) && decide (fld h 26 2 ≤ 2) &&
    decide (fld h 28 4 = 0) && decide (fld h 80 176 = 0) &&
    (List.range (16 * ceilDiv n 16)).all (fun i =>
      let v := natAt b (32 + 2 * i) 2
      if i < n then decide (v < 4096) else decide (v = 0)) &&
    (crewLayers b).all fun e => decide (fld e 28 4 = 0) && decide (fld e 96 160 = 0)

def sharedOk (c : Nat) (b : List Byte) : Bool :=
  decide (c ≠ 0) && crewRange c b && crewClean b &&
    decide (b.length = crewLayersOff (crewSize b) + 32 * fld (entryAt b 0) 64 16) &&
    (crewLayers b).all fun e => decide (fld (entryAt b 0) 20 4 ≠ 3) || decide (fld e 64 32 = 0)

/-- Extents of LOCAL_DATA, which stand last, and the layer entries before them. -/
def localExtents (b : List Byte) : List EccWord :=
  let n := fld (entryAt b 0) 148 20
  if b.length < 32 + 32 * n then [] else entriesAt b (b.length - 32 * n) n

def localLayers (b : List Byte) : List EccWord := entriesAt b 32 (b.length / 32 - 1 - fld (entryAt b 0) 148 20)

/-- Fields of LOCAL_DATA in their ranges (Tables 7.5, 7.7). -/
def localRange (b : List Byte) : Bool :=
  let h := entryAt b 0
  decide (1 ≤ fld h 148 20) && decide (fld h 64 56 % 32 = 0) &&
    (localExtents b).all fun e => decide (fld e 0 56 % 32 = 0) && decide (1 ≤ fld e 56 24)

/-- LOCAL_DATA holds no reserved bit (Tables 7.5 to 7.7). -/
def localClean (b : List Byte) : Bool :=
  let h := entryAt b 0
  decide (fld h 56 8 = 0) && decide (fld h 130 18 = 0) && decide (fld h 168 88 = 0) &&
    (localLayers b).all (fun e => decide (fld e 60 196 = 0)) && (localExtents b).all fun e => decide (fld e 80 176 = 0)

def localOk (d : CrewDef) (b : List Byte) : Bool :=
  localRange b && localClean b && (d.bs8 || decide (d.scaleAddr = 0)) &&
    decide (b.length = 32 + 32 * d.layers.length + 32 * fld (entryAt b 0) 148 20)

/-- A purpose's extents sum to the layer's chunks (R261). -/
def CrewDef.runOk (d : CrewDef) (l : CrewLayer) (first : Nat) : Bool :=
  decide (((extentRun d.extents first l.chunks).map fun e => e.2.1).sum = l.chunks)

/-- Bytes of the scale table that the layers use. -/
def CrewDef.scaleLen (d : CrewDef) : Nat := (d.layers.map fun l => l.scaleOff + l.chunks).foldl max 0

/-- Bytes of the chunk a layer ends with (R260). -/
def CrewLayer.lastBytes (l : CrewLayer) : Nat := 4096 * (l.nk - 4 * (l.chunks - 1))

/-- Bytes that one purpose of a layer uses of extent k, none when it does not reach it (log 36). -/
def CrewDef.usedBytes (d : CrewDef) (l : CrewLayer) (first k : Nat) : Option Nat :=
  let run := extentRun d.extents first l.chunks
  if k < first then none
  else (run[k - first]?).map fun e =>
    if k + 1 = first + run.length then 16384 * (e.2.1 - 1) + l.lastBytes else 16384 * e.2.1

/-- Bytes that each purpose of each layer that reaches extent k uses of it. -/
def CrewDef.extentUses (d : CrewDef) (k : Nat) : List Nat :=
  d.layers.flatMap fun l => ([some l.contrib, l.carry, l.dest].filterMap id).filterMap fun f => d.usedBytes l f k

/-- An extent belongs to one purpose of one layer: two that share it overlap (R261; DEDUCED, log 36). -/
def CrewDef.usedOnce (d : CrewDef) : Bool := (List.range d.extents.length).all fun k => decide ((d.extentUses k).length ≤ 1)

/-- Bytes of extent k: what the layers that reach it use, or all its chunks. -/
def CrewDef.extentBytes (d : CrewDef) (k chunks : Nat) : Nat :=
  let used := d.extentUses k
  if used = [] then 16384 * chunks else used.foldl max 0

/-- Extents as addresses and bytes. -/
def CrewDef.extentAreas (d : CrewDef) : List (Nat × Nat) :=
  d.extents.zipIdx.map fun p => (p.1.1, d.extentBytes p.2 p.1.2)

/-- Extents and scale table as areas. -/
def CrewDef.areas (d : CrewDef) : List (Nat × Nat) :=
  d.extentAreas ++ (if d.bs8 then [(d.scaleAddr, d.scaleLen)] else [])

/-- The vault sink of an address is the sink of an open route. -/
def reachable (routes : List OpenRoute) (a : Nat) : Bool :=
  match (placeOf a).bind sinkOf with
  | some k => routes.any fun o => o.sinks.contains (sinkKey k)
  | none => false

def CrewDef.destOk (d : CrewDef) (routes : List OpenRoute) (l : CrewLayer) : Bool :=
  [l.carry, l.dest].all fun f =>
    match f with
    | none => true
    | some i => d.runOk l i && (extentRun d.extents i l.chunks).all fun e => reachable routes e.1

/-- One crew of the image against R262, but for overlaps with other crews. -/
def State.crewOk (s : State) (c : Nat) (mbs : List MbEntry) (routes : List OpenRoute) (d : CrewDef) : Bool :=
  let shared := s.dom (0x7010 + c) 2
  let loc := s.dom (0x7010 + c) 4
  sharedOk c shared && decide (s.regN (0x7010 + c) 1 = shared.length) && localOk d loc &&
    decide (s.regN (0x7010 + c) 3 = loc.length) && strictlyUp d.members && d.members.all (fun r => decide (r < s.jobSize)) &&
    d.members.contains s.jobRank && decide ((d.layers.map (·.id)).eraseDups.length = d.layers.length) &&
    d.layers.all (fun l => d.members.contains l.owner && d.runOk l l.contrib && d.destOk routes l &&
      decide (l.carry.isNone = d.drop) && decide (l.dest.isSome = decide (l.owner = s.jobRank))) &&
    d.areas.all (fun a => s.areaOk a.1 a.2) && !someOverlap d.areas && d.usedOnce && s.vaultOk d.sealAddr &&
    reachable routes d.sealAddr &&
    mbs.any (fun m => decide (m.id = d.sumMb) && decide (m.kind = 2)) &&
    mbs.all fun m => !(decide (m.kind = 3) && decide (m.tag % 256 = c)) || decide (1 ≤ m.tag / 256 ∧ m.tag / 256 ≤ 3)

def State.crewBads (s : State) (mbs : List MbEntry) (routes : List OpenRoute) (defs : List (Nat × CrewDef)) : List Bad :=
  badIf (decide (defs.length > 16)) (bad 6 noUnit ((defs.map Prod.fst).getD 16 0)) ++
    (defs.zipIdx.flatMap fun p =>
      let others := (defs.take p.2).flatMap fun e => e.2.areas
      badIf (!s.crewOk p.1.1 mbs routes p.1.2 || p.1.2.areas.any fun a => others.any (overlaps a)) (bad 6 noUnit p.1.1)) ++
    badIf (decide (defs ≠ []) && decide (s.dims.1 * s.dims.2.1 * s.dims.2.2 ≠ s.jobSize)) (bad 6 noUnit 0)

/-! ### 0x06: the state table (R306) -/

/-- A tensor's fields that its RULE leaves zero (Table 8.4, R306). -/
def tensorClean (e : EccWord) : Bool :=
  let rule := fld e 32 2
  (decide (rule ≠ 0) || !bit e 34) && (decide (rule ≠ 3) || decide (fld e 36 4 = 0)) &&
    (decide (rule = 3) || (decide (fld e 128 56 = 0) && decide (fld e 184 20 = 0)))

def State.stateBads (s : State) (b : List Byte) (mbs : List MbEntry) (defs : List (Nat × CrewDef)) (tab : StateTab) :
    List Bad :=
  let h := entryAt b 0
  let n := fld h 0 16
  let nb := fld h 16 20
  let coef := fld h 36 10
  let layers := defs.flatMap fun d => d.2.layers
  let ext := defs.flatMap fun d => d.2.extentAreas
  let areas := tab.tensors.map fun t => (tab.areas t).map fun r => (r.addr, r.len)
  badIf (!(decide (b.length = 32 + 32 * (n + nb)) && decide (1 ≤ n ∧ n ≤ 4096) && decide (1 ≤ nb) &&
      decide (fld h 46 18 = 0) && decide (fld h 120 136 = 0) &&
      mbs.any fun m => decide (m.id = coef) && decide (m.kind = 1))) (bad 6 noUnit 0) ++
    (tab.tensors.zipIdx.flatMap fun p =>
      let t := p.1
      let before := tab.tensors.take p.2
      let mine := areas.getD p.2 []
      let others := (areas.take p.2).flatten
      let e := entryAt b (32 + 32 * p.2)
      badIf (!(tensorClean e && decide (fld e 40 24 = 0) && decide (fld e 124 4 = 0) && decide (fld e 204 52 = 0) &&
        decide (1 ≤ fld e 64 24) && decide (1 ≤ fld e 88 16) && decide (t.first + t.nband ≤ nb) &&
        layers.any (fun l => decide (l.id = t.layer) && decide (l.owner = s.jobRank)) &&
        !(before.any fun u => decide (u.layer = t.layer) || decide (u.tensor = t.tensor)) &&
        mine.all (fun a => s.areaOk a.1 a.2) && !someOverlap mine &&
        !(mine.any fun a => others.any (overlaps a) || ext.any (overlaps a)))) (bad 6 noUnit p.2)) ++
    (tab.bands.zipIdx.flatMap fun p =>
      let zeros := (tab.tensors.filter fun t => decide (t.first ≤ p.2) && decide (p.2 < t.first + t.nband)).all fun t =>
        (decide (t.rule ≠ 0) || decide (p.1.mA = 0)) && (decide (t.rule = 3) || decide (p.1.rA = 0))
      badIf (!zeros || decide (fld (entryAt b (32 + 32 * n + 32 * p.2)) 156 100 ≠ 0)) (bad 6 noUnit p.2))

/-! ### 0x06: the pool (R237) -/

def poolEntryClean (e : EccWord) : Bool :=
  decide (fld e 156 100 = 0) && decide (fld e 54 2 = 0) && decide (fld e 122 6 = 0) && decide (fld e 52 2 ≤ 1) &&
    decide (fld e 31 1 = 0)

/-- Core of a pool entry. -/
def PoolEntry.core (e : PoolEntry) : Option CoreId :=
  match unitOfUid e.unit with | some (.core c) => some c | _ => none

/-- The areas of an entry as addresses and bytes. -/
def PoolEntry.areas (e : PoolEntry) (bmax : Nat) : List (Nat × Nat) :=
  (e.addr e.slotBase, 32 * e.nslot * e.slotWords) :: (if e.landing then [] else [(e.addr e.sarray, 32 * bmax * e.q)])

def State.poolEntryBad (s : State) (q : Pool) (raw : EccWord) (e : PoolEntry) (i : Nat) : Bool :=
  let same := q.entries.filter fun f => decide (f.layer = e.layer) && decide (f.group = e.group)
  let ords := same.filter fun f => !f.landing
  let lands := same.filter (·.landing)
  let others := (q.entries.zipIdx.filter fun p => p.2 ≠ i).flatMap fun p => p.1.areas q.bmax
  !(poolEntryClean raw && (e.core).any (fun c => s.coreUsable c && !s.vaultDead c) && pageFmtOk (e.fmt % 16) &&
    (e.areas q.bmax).all (fun a => match placeOf a.1 with
      | some (.vault _ _ off) => decide (off + a.2 ≤ bankBytes)
      | _ => false) &&
    !someOverlap (e.areas q.bmax) && !((e.areas q.bmax).any fun a => others.any (overlaps a)) &&
    decide (lands.length = 1) && lands.all (fun f => decide (f.fmt = e.fmt)) &&
    (if e.landing then decide (1 ≤ e.nslot ∧ e.nslot ≤ 64)
     else decide (1 ≤ e.e) && decide (e.ord < e.e) && decide (ords.length = e.e) && decide (1 ≤ e.q) &&
       ords.all fun f => decide (f.e = e.e) && decide (f.q = e.q) && decide (f.fmt = e.fmt) &&
         decide ((ords.filter fun g => g.ord = f.ord).length = 1)))

def State.poolBads (s : State) (b : List Byte) (q : Pool) (mbs : List MbEntry) (rdvs : List RdvEntry) : List Bad :=
  let h := entryAt b 0
  let host := fun m => mbs.any fun e => decide (e.id = m) && decide (e.kind = 1)
  let releases := rdvs.any fun r => r.release && r.refs.any fun p => decide (p.1 = q.turnMb ∨ p.1 = q.roundMb)
  badIf (!(decide (1 ≤ fld h 0 32) && decide (s.regN 0x6020 2 = 32 + 32 * fld h 0 32) && decide (fld h 160 96 = 0) &&
      decide (fld h 52 12 = 0) && decide (fld h 120 8 = 0) && decide (1 ≤ q.nseq ∧ q.nseq ≤ 4096) &&
      decide (1 ≤ q.bmax ∧ q.bmax ≤ 4096) && host q.turnMb && host q.roundMb)) (bad 6 noUnit 0) ++
    badIf releases (bad 12 noUnit 0) ++
    q.entries.zipIdx.flatMap fun p => badIf (s.poolEntryBad q (entryAt b (32 + 32 * p.2)) p.1 p.2) (bad 6 noUnit p.2)

/-! ### 0x06: the split table (R218) -/

/-- First STAKE of a program on a rendezvous. -/
def firstStake (ws : List OpWord) (rdv : Nat) : Option Nat :=
  (ws.zipIdx.find? fun w => isStake w.1 && decide (stakeRdv w.1 = rdv)).map Prod.snd

def splitEntryBad (sp : Split) (raw : EccWord) (e : SplitEntry) (i : Nat) : Bool :=
  !(splitClean raw && decide (2 ≤ e.nvar ∧ e.nvar ≤ 8) && e.sel.all (fun v => decide (v < e.nvar)) &&
    !((sp.entries.take i).any fun f => decide (f.window = e.window)))

def variantBad (progs : List (Nat × List OpWord)) (sp : Split) (raw : EccWord) (r : VariantRec) (i : Nat) : Bool :=
  let ws := ((progs.find? fun p => p.1 = r.uid).map Prod.snd).getD []
  let before := (sp.recs.take i).filter fun q => q.uid = r.uid
  match sp.entries.find? fun e => e.window = r.window with
  | none => true
  | some e =>
    !(decide (fld raw 176 80 = 0) && (r.lens.zipIdx.all fun l => if l.2 < e.nvar then decide (1 ≤ l.1) else decide (l.1 = 0)) &&
      decide (r.first + r.lens.sum ≤ ws.length) && (firstStake ws sp.rdv).any (fun k => decide (k < r.first)) &&
      !(before.any fun q => decide (q.window = r.window) || overlaps (r.first, r.lens.sum) (q.first, q.lens.sum)))

def splitBads (len : Nat) (tab img : List Byte) (secs : List (Nat × Nat)) (progs : List (Nat × List OpWord))
    (rdvs : List RdvEntry) (mbs : List MbEntry) (sp : Split) : List Bad :=
  let h := entryAt tab 0
  let map := (fld h 32 64, 32 * fld h 96 32)
  let hosted := (rdvs.find? fun r => r.id = sp.rdv).any fun r =>
    r.refs.any fun p => mbs.any fun m => decide (m.id = p.1) && decide (m.kind = 1)
  badIf (!(decide (1 ≤ fld h 0 16 ∧ fld h 0 16 ≤ 1024) && decide (tab.length = 32 + 32 * fld h 0 16) &&
      decide (fld h 28 4 = 0) && decide (fld h 128 128 = 0) && sectionOk len map && !(secs.any (overlaps map)) && hosted))
      (bad 6 noUnit 0) ++
    (sp.entries.zipIdx.flatMap fun p => badIf (splitEntryBad sp (entryAt tab (32 + 32 * p.2)) p.1 p.2) (bad 6 noUnit p.2)) ++
    (sp.recs.zipIdx.flatMap fun p =>
      badIf (variantBad progs sp (entryAt img (map.1 + 32 * p.2)) p.1 p.2) (bad 6 p.1.uid p.2))

/-! ### 0x0A: credits (R349) -/

def creditBads (routes : List OpenRoute) : List Bad :=
  (routes.flatMap (·.sinks)).eraseDups.flatMap fun k =>
    badIf (decide ((routes.filter fun o => o.sinks.contains k).length > 16))
      (bad 10 (if k < 12960 then (coreOfNum k).uid else (regionOfNum (k - 12960)).router.uid) 0)

/-! ### 0x0C RENDEZVOUS and 0x0D TIMEOUT_MIN -/

def rdvBads (progs : List (Nat × List OpWord)) (rdvs : List RdvEntry) (mbs : List MbEntry) (stepRdv : Nat) : List Bad :=
  (rdvs.zipIdx.flatMap fun p => badIf ((rdvs.take p.2).any (fun r => decide (r.id = p.1.id)) ||
      p.1.refs.any fun r => !(mbs.any fun m => decide (m.id = r.1))) (bad 12 noUnit p.2)) ++
    (mbs.zipIdx.flatMap fun p => badIf ((mbs.take p.2).any fun m => decide (m.id = p.1.id)) (bad 12 noUnit p.2)) ++
    badIf (!(rdvs.any fun r => decide (r.id = stepRdv))) (bad 12 noUnit 0) ++
    progs.flatMap fun p => p.2.zipIdx.flatMap fun w =>
      badIf (isStake w.1 && !(rdvs.any fun r => decide (r.id = stakeRdv w.1) &&
        decide (r.timeoutMs = timeoutMs (stakeTimeout w.1)))) (bad 12 p.1 w.2)

/-- The least DEADLINE of Table 15.1. -/
def minDeadline (rdvs : List RdvEntry) (stepRdv : Nat) (defs : List (Nat × CrewDef)) : Nat :=
  let step := match rdvs.find? fun r => r.id = stepRdv with
    | some r => if r.release then r.timeoutMs + 100 else 0
    | none => 0
  (defs.map fun d => match d.2.waitUs with
    | some w => if d.2.size > 1 then ceilDiv (w * ceilLog2 d.2.size) 1000 + 1000 else 0
    | none => 0).foldl max (max 1000 step)

def timeoutBads (rdvs : List RdvEntry) (stepRdv deadline : Nat) (defs : List (Nat × CrewDef)) : List Bad :=
  (rdvs.zipIdx.flatMap fun p =>
    badIf (decide (p.1.timeoutMs < if p.1.release then 1 else 100)) (bad 13 noUnit p.2)) ++
    badIf (decide (deadline < minDeadline rdvs stepRdv defs)) (bad 13 noUnit 0xFFFF)

end Sys2Proof.Machine
end

