-- ==== Sys2Proof/Machine/Walk.lean ====
section
/-! DEFINITION. The loader's walk of the schedule, unit by unit (04 R146, R151, Table 4.10 checks 0x06 and 0x07; 03
R75-R77, R86-R93, R95, R98-R102; 05 R218). Every unit issues its words as the issue logic does, from program stroke 0;
a rendezvous releases when all its participants have arrived; a loop without COUNT ends after its second iteration; an
op counts in the first, second and last iteration of its loops (log 11). What an op does to data plays no part. -/

namespace Sys2Proof.Machine

/-- An op at its place in the walk: unit, store index, word, start, completion (for a STAKE its start under R100), strokes
of stakeboat waiting before it, timing group (R146), whether its iteration is checked, effective offset (R77). -/
structure Occ where
  uid : Nat
  idx : Nat
  word : OpWord
  sg : Nat
  fin : Nat
  waits : Nat
  group : Nat
  checked : Bool
  off : Nat
deriving DecidableEq, Repr

/-- A violation of an op in an ac; schedule strokes leave stakeboat waiting out (R155). An encoding violation has no place
(R151 and the text above Table 4.10). -/
def Occ.bad (o : Occ) (code t : Nat) : List Bad :=
  badIf o.checked (if code = 6 then Sys2Proof.Machine.bad 6 o.uid o.idx else ⟨code, o.uid, o.idx, t / 1024 - o.waits, t % 1024⟩)

/-- Busy time of a word's unit, and the ac from which its op is complete (Tables 3.5, 3.7, 3.10, 3.11; R89, R97, R122,
R176-R178). A WREAD is complete `wread` ac after its start (R97, R122). -/
def opTimes (u : UnitId) (w : OpWord) (sg wread : Nat) : Nat × Nat :=
  match u with
  | .router _ => if opUnit w = 1 then (routeHold w + 1, sg + routeHold w + 1) else (1, sg + 1)
  | .core _ =>
    let n := moveLen w
    match opUnit w with
    | 1 => (runBusy w, slotReady w sg (runT w - 1))
    | 2 => (floadBusy w, sg + floadBusy w + 2)
    | 3 => (drainN w, sg + drainN w + 2)
    | 4 => ((vecTiming (opCode w)).2, sg + (vecTiming (opCode w)).1)
    | 5 => match opCode w with
      | 1 => (ceilDiv n 4, sg + 14 + ceilDiv n 4)
      | 2 => (ceilDiv n 4, sg + 7 + 2 * ceilDiv n 8)
      | 3 => (ceilDiv n 8, sg + ceilDiv n 8 + 3)
      | 4 => (ceilDiv n 8, sg + ceilDiv n 8)
      | _ => (1, sg + wread)
    | 6 => (vmemBusy w, sg + vmemBusy w + (match opCode w with | 2 => 4 | 4 => 6 | _ => 2))
    | _ => (1, sg + 1)

/-! ### What an op means to its core's timing -/

/-- Ops whose operand addresses core SRAM (R77). -/
def usesSram (w : OpWord) : Bool :=
  match opUnit w with
  | 1 => !runBsrc w
  | 2 => true
  | 3 => decide (opCode w = 1)
  | 5 => true
  | 6 => true
  | _ => false

/-- Source registers of a VEC op (Table 3.10). -/
def vecSources (w : OpWord) : List Nat :=
  let c := opCode w
  if c = 0x15 then vupdSources w
  else if c = 0x16 then []
  else if c = 4 ∨ c = 9 ∨ c = 0x14 then [vecA w, vecB w, vecC w]
  else if c ≤ 3 ∨ c = 7 ∨ c = 8 ∨ c = 0x10 then [vecA w, vecB w]
  else [vecA w]

/-- Registers that a VEC op writes. -/
def vecDests (w : OpWord) : List Nat :=
  if opCode w = 0x15 then
    [vecD w] ++ (if vecRule w = 0 then [] else [vecD w + 1]) ++ (if vecRule w = 3 then [vecD w + 2] else [])
  else if opCode w = 0x16 then []
  else [vecD w]

/-- A result on its way to a register, without what it is. -/
def resultTo (ready v : Nat) : RegWrite := { ready := ready, vals := [(laneKey v 0, 0)] }

/-- R93 for the registers an op reads. -/
def CoreState.walkSources (k : CoreState) (o : Occ) (srcs : List Nat) : CoreState × List Bad :=
  let k1 := k.landResults o.sg
  (k1, if (k1.pendingReg srcs).isSome then o.bad 7 o.sg else [])

/-- RUN and FLOAD act on the queues in the order of their ac (`arrayBads`). DRAIN to registers sends results to them. -/
def CoreState.walkDrain (k : CoreState) (o : Occ) : CoreState × List Bad :=
  let w := o.word
  (if opCode w = 1 then k
   else k.addResults ((List.range (drainN w)).map fun i => resultTo (o.sg + i + 3) (drainVd w + i / 2)), [])

/-- A VSEED marks the stores that follow it as those of its tensor's update; the walk keeps the tensor as a generator. -/
def CoreState.walkVec (k : CoreState) (o : Occ) : CoreState × List Bad :=
  let r := k.walkSources o (vecSources o.word)
  let k1 := r.1.addResults ((vecDests o.word).map (resultTo (o.sg + (vecTiming (opCode o.word)).1)))
  (if opCode o.word = 0x16 then { k1 with seeded := true, gens := tblSet 0 [] 0 (BitVec.ofNat 16 (vecImm o.word).toNat) } else k1, r.2)

/-- The tensors for which stochastic rounding is allowed: with a state table those whose entry asks for it (Table 8.4), else
every one (R95, log 61). -/
def srAllowed (tensors : Option (List Nat)) (t : Nat) : Bool :=
  match tensors with
  | some l => l.contains t
  | none => true

/-- VMEM: R93, R95. -/
def CoreState.walkVmem (k : CoreState) (o : Occ) (srs : Option (List Nat)) : CoreState × List Bad :=
  let w := o.word
  let ready := o.sg + vmemBusy w + 2
  match opCode w with
  | 1 => (k.addResults [resultTo ready (vmemV w)], [])
  | 2 => k.walkSources o [vmemV w]
  | 3 => (k.addResults ((span (vmemV w) 4).map (resultTo ready)), [])
  | _ =>
    let r := k.walkSources o (span (vmemV w) 4)
    (r.1, r.2 ++ (if vmemSr w && !(k.seeded && srAllowed srs (tblGet 0 k.gens 0).toNat) then o.bad 6 o.sg else []))

/-- An op of a core: its effect on timing and the rules it breaks. -/
def CoreState.walkOp (k : CoreState) (o : Occ) (srs : Option (List Nat)) : CoreState × List Bad :=
  let w := o.word
  let r : CoreState × List Bad := match opUnit w with
    | 0 =>
      (if opCode w = 6 then k.setAreg o.sg (aregN w) (asetValue w)
       else if opCode w = 7 then k.setAreg o.sg (aregN w) (k.areg o.sg (aregN w) + aaddImm w)
       else k, [])
    | 3 => k.walkDrain o
    | 4 => k.walkVec o
    | 6 => k.walkVmem o srs
    | _ => (k, [])
  (r.1, (if usesSram w && decide (o.off % 32 ≠ 0) then o.bad 6 o.sg else []) ++ r.2)

/-! ### A unit's walk -/

/-- A unit on the walk; its ops are listed newest first. -/
structure Walker where
  unit : UnitId
  words : List OpWord
  recs : List VariantRec
  iss : Issue
  regs : CoreState
  waits : Nat
  group : Nat
  arrived : Nat
  occs : List Occ
  bads : List Bad
deriving DecidableEq, Repr

/-- What a walk is told: the variant of a window (R215, R218), the ac that the WREAD at a store index of a unit takes (R122),
and the tensors of R95. -/
structure WalkInput where
  sel : Nat → Nat
  wread : Nat → Nat → Nat
  srs : Option (List Nat)

def Walker.settle (k : Walker) (x : WalkInput) (i : Issue) : Issue := settleIssue k.recs x.sel 64 i

def Walker.start (x : WalkInput) (recs : List VariantRec) (p : Nat × List OpWord) : Option Walker :=
  (unitOfUid p.1).map fun u =>
    let k : Walker :=
      { unit := u, words := p.2, recs := recs.filter fun r => r.uid = p.1, iss := Issue.start,
        regs := CoreState.start, waits := 0, group := 0, arrived := 0, occs := [], bads := [] }
    { k with iss := k.settle x k.iss }

/-- An op counts in the first, the second and the last iteration of every loop around it. -/
def Issue.checked (i : Issue) : Bool := i.frames.all fun f => decide (f.iter ≤ 1) || decide (f.iter + 1 ≥ f.count)

/-- An op stands within the strokes of the iteration of every loop around it (R99). -/
def Issue.inSpan (i : Issue) (stroke : Nat) : Bool :=
  i.frames.all fun f =>
    decide (f.base + f.iter * f.spanStrokes < stroke) && decide (stroke ≤ f.base + (f.iter + 1) * f.spanStrokes)

/-- Iterations of a LOOP in the walk. -/
def walkCount (w : OpWord) : Nat := if loopCount w = 0 then 2 else loopCount w

/-- Busy time and completion of the walker's next word. -/
def Walker.times (k : Walker) (x : WalkInput) (w : OpWord) (sg : Nat) : Nat × Nat :=
  opTimes k.unit w sg (x.wread (unitUid k.unit) k.iss.idx)

/-- The issue state after a word. -/
def Walker.next (k : Walker) (x : WalkInput) (w : OpWord) (sg : Nat) : Issue :=
  let t := k.times x w sg
  let j := k.iss.after (busyKey k.unit w) sg t.1 t.2
  if opUnit w = 0 then
    match opCode w with
    | 1 => { j with halted := true }
    | 2 => k.settle x (k.iss.enterLoop w sg (walkCount w))
    | 4 => { j with waiting := some (stakeRdv w), stakeStroke := sg / 1024 }
    | 5 => k.settle x { j with stroke := sg / 1024 + skipN w }
    | _ => k.settle x j
  else k.settle x j

/-- Issue rules of a word: order (R75), the unit's busy time (R76, R117), the loops around it (R99). -/
def Walker.issueBads (k : Walker) (o : Occ) : List Bad :=
  let busy := decide (o.sg < tblGet 0 k.iss.unitBusy (busyKey k.unit o.word))
  let route := match k.unit with | .router _ => decide (opUnit o.word = 1) | .core _ => false
  (if o.sg < k.iss.reached then o.bad 7 o.sg else []) ++
    (if busy then o.bad (if route then 10 else 7) o.sg else []) ++
    (if k.iss.inSpan (o.sg / 1024) then [] else o.bad 6 o.sg)

def Walker.issue (x : WalkInput) (k : Walker) (w : OpWord) : Walker :=
  let sg := startSigma k.iss w
  let fin := if isStake w then max sg k.iss.doneAt else (k.times x w sg).2
  let o : Occ :=
    { uid := unitUid k.unit, idx := k.iss.idx, word := w, sg := sg, fin := fin, waits := k.waits, group := k.group,
      checked := k.iss.checked, off := k.regs.effOffset w sg }
  let r := match k.unit with
    | .core _ => k.regs.walkOp o x.srs
    | .router _ => (k.regs, [])
  { k with iss := k.next x w sg, regs := r.1, arrived := fin, occs := o :: k.occs, bads := r.2 ++ k.issueBads o ++ k.bads }

/-- A unit issues until it waits, halts or runs out of words. -/
def Walker.run (x : WalkInput) : Nat → Walker → Walker
  | 0, k => k
  | n + 1, k =>
    if k.iss.halted || k.iss.waiting.isSome then k
    else
      match k.words[k.iss.idx]? with
      | some w => Walker.run x n (k.issue x w)
      | none => { k with iss := { k.iss with halted := true } }

/-! ### The rendezvous -/

/-- A release of the walk: its number names the timing group it begins. -/
structure Release where
  group : Nat
  rdv : Nat
  stroke : Nat
deriving DecidableEq, Repr

structure Walk where
  units : List Walker
  releases : List Release
deriving DecidableEq, Repr

/-- Stroke that begins at the release of participants that arrive by an ac (R135, R136). -/
def releaseStroke (arr : Nat) : Nat := (arr + 32) / 1024 + 1

def Walker.resume (x : WalkInput) (stroke group : Nat) (k : Walker) : Walker :=
  { k with iss := k.settle x (resumeIssue k.iss stroke 0), waits := k.waits + (stroke - k.iss.stakeStroke - 1),
           group := group }

/-- Release a rendezvous whose participants all wait at it. -/
def Walk.release (x : WalkInput) (y : Walk) (rdv : Nat) (uids : List Nat) : Option Walk :=
  let here := fun (k : Walker) => decide (k.iss.waiting = some rdv)
  let mine := y.units.filter fun k => uids.contains (unitUid k.unit)
  if mine.isEmpty || !mine.all here then none
  else
    let stroke := (mine.map fun k => releaseStroke k.arrived).foldl max 0
    let g := y.releases.length + 1
    some { units := y.units.map fun k => if here k then k.resume x stroke g else k,
           releases := y.releases ++ [⟨g, rdv, stroke⟩] }

/-- All units run, then a rendezvous releases, until none can. -/
def Walk.go (x : WalkInput) (rdvs : List (Nat × List Nat)) : Nat → Walk → Walk
  | 0, y => y
  | n + 1, y =>
    let z : Walk := { y with units := y.units.map (Walker.run x (2 ^ 64)) }
    match rdvs.findSome? fun r => z.release x r.1 r.2 with
    | some z' => Walk.go x rdvs n z'
    | none => z

/-- The walk of a program under one selection. -/
def walkProgram (x : WalkInput) (recs : List VariantRec) (progs : List (Nat × List OpWord)) (rdvs : List RdvEntry) : Walk :=
  Walk.go x (rdvs.map fun r => (r.id, r.units)) (2 ^ 64)
    { units := progs.filterMap (Walker.start x recs), releases := [] }

/-- Ops of the walk, each unit's in order. -/
def Walk.occs (x : Walk) : List Occ := x.units.flatMap fun k => k.occs.reverse

/-! ### Queues and slots in the order of their ac (R86-R88, R90) -/

/-- What an op does to the queues and slots of its core in an ac: a RUN's slots are in work from its start (`slots`), a DRAIN
reads one (`drain`), a row takes a position (`push`), a RUN's heads are judged (`enter`) and popped (`pop`). -/
inductive ArrayStep where
  | slots
  | drain (i : Nat)
  | push (q fmt validFrom : Nat)
  | enter
  | pop
deriving DecidableEq, Repr

/-- Its place in an ac: a RUN's start before what the ac brings, pops at its end (R86). -/
def ArrayStep.phase : ArrayStep → Nat
  | .slots => 0
  | .pop => 2
  | _ => 1

structure ArrayEvent where
  at' : Nat
  occ : Occ
  step : ArrayStep
deriving DecidableEq, Repr

def Occ.arrayEvents (o : Occ) : List ArrayEvent :=
  let w := o.word
  match opUnit w with
  | 1 => [⟨o.sg, o, .slots⟩, ⟨o.sg + 3, o, .enter⟩] ++ (if runPop w then [⟨popAc w o.sg, o, .pop⟩] else [])
  | 2 => (List.range (floadN w)).map fun k =>
      let a := rowAcs w o.sg k
      ⟨a.1, o, .push (floadU0 w + k) (opFmt w) (a.2 + 3)⟩
  | 3 => (List.range (drainN w)).map fun i => ⟨o.sg + i, o, .drain i⟩
  | _ => []

/-- Rows in the queues as format and first valid ac, and the ac from which each slot may be drained. -/
structure ArrayView where
  feed : Tbl (List (Nat × Nat))
  ready : Tbl Nat
deriving DecidableEq, Repr

/-- Heads of a RUN's active queues. -/
def ArrayView.heads (v : ArrayView) (w : OpWord) : List (Option (Nat × Nat)) :=
  (List.range (runU w)).map fun u => (tblGet [] v.feed u).head?

/-- One event: the view after it, and the rule it breaks. -/
def ArrayView.step (v : ArrayView) (e : ArrayEvent) : ArrayView × List Bad :=
  let o := e.occ
  let w := o.word
  match e.step with
  | .slots => ({ v with ready := (List.range (runT w)).foldl (fun t i => tblSet 0 t (runAcc w + i) (slotReady w o.sg i)) v.ready }, [])
  | .drain i => (v, if tblGet 0 v.ready (drainAcc w + i) > e.at' then o.bad 7 e.at' else [])
  | .push q fmt valid =>
    if (tblGet [] v.feed q).length ≥ 8 then (v, o.bad 7 e.at')
    else ({ v with feed := tblMod [] v.feed q (· ++ [(fmt, valid)]) }, [])
  | .enter =>
    let hs := v.heads w
    (v, if hs.any fun h => h.any fun r => decide (r.1 ≠ runFmtF w) then o.bad 7 o.sg
      else if hs.any fun h => match h with | some r => decide (r.2 > e.at') | none => true then o.bad 7 e.at' else [])
  | .pop => ({ v with feed := (List.range (runU w)).foldl (fun t u => tblMod [] t u List.tail) v.feed }, [])

def arrayGo : List ArrayEvent → ArrayView → List Bad → List Bad
  | [], _, bs => bs
  | e :: es, v, bs => let r := v.step e; arrayGo es r.1 (r.2 ++ bs)

/-- R86 to R88 and R90 over the ops of a core. -/
def arrayBads (occs : List Occ) : List Bad :=
  let es := (occs.flatMap Occ.arrayEvents).mergeSort fun a b => 3 * a.at' + a.step.phase ≤ 3 * b.at' + b.step.phase
  arrayGo es { feed := [], ready := [] } []

def Walk.issueBads (x : Walk) : List Bad :=
  x.units.flatMap fun k => k.bads ++ (match k.unit with | .core _ => arrayBads k.occs.reverse | .router _ => [])

/-! ### Two uses of one thing (R103 and the checks of the mesh) -/

/-- A use: its key names the resource and the ac. -/
structure Use where
  key : Nat
  occ : Occ
  at' : Nat
deriving DecidableEq, Repr

/-- Uses of equal keys break a rule, each of them. -/
def clashes (code : Nat) (l : List Use) : List Bad :=
  let s := l.mergeSort fun a b => a.key ≤ b.key
  (s.zip (s.drop 1)).flatMap fun p =>
    if decide (p.1.key = p.2.key) && p.1.occ.checked && p.2.occ.checked then p.1.occ.bad code p.1.at' ++ p.2.occ.bad code p.2.at'
    else []

/-- Accesses of an op to core SRAM; those of a WREAD come with its replies. -/
def Occ.sramAccs (o : Occ) : List SramAcc :=
  let w := o.word
  let n := moveLen w
  if !usesSram w || decide (o.off % 32 ≠ 0) then []
  else
    match opUnit w with
    | 1 => runClaims w o.sg o.off
    | 2 => sramRun o.off (floadWords (opFmt w) (floadN w)) true (floadAc w o.sg)
    | 3 => sramRun o.off (drainPer w * drainN w) false fun j => o.sg + j / drainPer w + 2
    | 5 => match opCode w with
      | 1 => sramRun o.off n false fun j => o.sg + 14 + j / 4
      | 2 => sramRun o.off n true fun j => o.sg + j / 4
      | 3 => sramRun o.off n true fun j => o.sg + j / 8
      | 4 => sramRun o.off n false fun j => o.sg + j / 8
      | _ => []
    | _ => vmemAccs w o.sg (match opCode w with | 2 => 4 | 4 => 6 | _ => 0) (decide (opCode w = 1 ∨ opCode w = 3)) o.off

def Occ.isCore (o : Occ) : Bool := decide (o.uid / 16384 ≠ 0)

/-- Uses of core SRAM banks. -/
def Occ.sramUses (o : Occ) (accs : List SramAcc) : List Use :=
  accs.map fun a => { key := o.uid * 2 ^ 96 + a.key, occ := o, at' := a.at' }

def sramUsesOf (occs : List Occ) : List Use :=
  occs.flatMap fun o => if o.isCore then o.sramUses o.sramAccs else []

end Sys2Proof.Machine
end

