-- ==== Sys2Proof/Machine/WalkMesh.lean ====
section
/-! DEFINITION. The loader's walk over the mesh, the wells and the vault channels (04 R107-R124, R141, R147, R161; 05
R172-R179; Table 4.10 checks 0x09 to 0x0C). Flits are followed from the ops that send them to where they end. -/

namespace Sys2Proof.Machine

/-- A flit at a router input: the op that sent it and its number there, the WREADs that a reply answers, the ac it entered
the mesh. -/
structure Travel where
  col : Nat
  port : Nat
  at' : Nat
  born : Nat
  kind : FlitKind
  src : Occ
  nth : Nat
  members : List Occ
deriving DecidableEq, Repr

inductive FlitEnd where
  | core (c : CoreId)
  | command (v : CoreId)
  | well (w : RegionId)
  | engine
deriving DecidableEq, Repr

/-- A flit where it ends: the ac of delivery and the connection that switched it. -/
structure Ended where
  flit : Travel
  at' : Nat
  conn : Occ
  dest : FlitEnd
deriving DecidableEq, Repr

/-- What following the flits shows: where they were present, which links they used, where they ended. -/
structure Traced where
  seen : List Travel
  links : List Use
  ended : List Ended
  bads : List Bad
deriving DecidableEq, Repr

/-- A violation that a router, a well router or a vault meets names that unit. -/
def Occ.atUnit (o : Occ) (uid : Nat) : Occ := { o with uid := uid, idx := 0 }

/-! ### Connections -/

def Occ.isRouteOp (o : Occ) : Bool := decide (o.uid / 16384 = 0) && isRoute o.word

/-- Connections by router number. -/
def connsOf (occs : List Occ) : Tbl (List Occ) :=
  (occs.filter Occ.isRouteOp).foldl (fun t o =>
    match unitOfUid o.uid with
    | some (.router r) => tblMod [] t r.num (· ++ [o])
    | _ => t) []

def routeLast (o : Occ) : Nat := o.sg + routeHold o.word

def connFor (conns : Tbl (List Occ)) (col port t : Nat) : Option Occ :=
  (tblGet [] conns col).find? fun o => decide (routeIn o.word = port) && decide (o.sg ≤ t) && decide (t ≤ routeLast o)

/-- Connections of one output, in order of start: the later of two that meet (R112). -/
def overlapsOf : Nat → Option Occ → List Occ → List Bad
  | _, _, [] => []
  | last, before, o :: os =>
    (match before with
     | some b => if decide (o.sg ≤ last) && b.checked then o.bad 10 o.sg else []
     | none => []) ++
      overlapsOf (max last (routeLast o)) (some o) os

/-- R112: an output is driven by at most one input in any ac. -/
def outputBads (conns : Tbl (List Occ)) : List Bad :=
  conns.flatMap fun e => (List.range 8).flatMap fun k =>
    overlapsOf 0 none ((e.2.filter fun o => (routeOut o.word).testBit k).mergeSort fun a b => a.sg ≤ b.sg)

/-! ### Open routes (R111, R126) -/

/-- A connection on an open route that begins with `root`, and the ac in which what the port engine presents passes it. -/
structure OpenSpan where
  root : Occ
  conn : Occ
  lo : Nat
  hi : Nat
deriving DecidableEq, Repr

/-- Where an output of a span leads in the mesh: the router and input, and the ac in which the flits are there. -/
def OpenSpan.leads (q : OpenSpan) (k : Nat) : Option (ColId × RPort × Nat × Nat) :=
  match unitOfUid q.conn.uid with
  | some (.router r) =>
    if k < 4 then (neighbour r (portOfCode k)).map fun p => (p.1, p.2, q.lo + hopCost r p.1, q.hi + hopCost r p.1) else none
  | _ => none

/-- Connections that take over from one output of a span. -/
def OpenSpan.nextOn (conns : Tbl (List Occ)) (q : OpenSpan) (k : Nat) : List OpenSpan :=
  match q.leads k with
  | some (n, inp, lo, hi) =>
    ((tblGet [] conns n.num).filter fun d => decide (routeIn d.word = portCode inp) && decide (d.sg ≤ hi) &&
      decide (lo ≤ routeLast d)).map fun d => { root := q.root, conn := d, lo := max lo d.sg, hi := min hi (routeLast d) }
  | none => []

def OpenSpan.next (conns : Tbl (List Occ)) (q : OpenSpan) : List OpenSpan :=
  if routeOpen q.conn.word then (outCodes q.conn.word).flatMap (q.nextOn conns) else []

/-- Follow open routes: every span they pass, and which takes over from which. -/
def openTrace (conns : Tbl (List Occ)) : Nat → List OpenSpan → List OpenSpan → List (OpenSpan × OpenSpan) →
    List OpenSpan × List (OpenSpan × OpenSpan)
  | 0, _, seen, es => (seen, es)
  | _ + 1, [], seen, es => (seen, es)
  | n + 1, q :: qs, seen, es =>
    if seen.contains q then openTrace conns n qs seen es
    else
      let ns := q.next conns
      openTrace conns n (ns ++ qs) (q :: seen) (ns.map (fun d => (q, d)) ++ es)

/-- Where open routes begin: open connections of the AUX inputs of port routers. -/
def openBegins (occs : List Occ) : List OpenSpan :=
  (occs.filter fun o => o.isRouteOp && routeOpen o.word && decide (routeIn o.word = 7) &&
    (match unitOfUid o.uid with | some (.router r) => (portOfRouter r).isSome | _ => false)).map fun o =>
    { root := o, conn := o, lo := o.sg, hi := routeLast o }

/-- An output at which an open route ends: an L output with VSINK, or the AUX output of a well router. -/
def OpenSpan.endsOn (q : OpenSpan) (k : Nat) : Bool :=
  if k = 7 then (match unitOfUid q.conn.uid with | some (.router r) => r.wellOf.isSome | _ => false)
  else routeVsink q.conn.word && (portLayer (portOfCode k)).isSome

/-- A branch of the route ends in nothing: an output that is no end and that no connection takes over in any of its ac. -/
def OpenSpan.dead (conns : Tbl (List Occ)) (q : OpenSpan) : Bool :=
  (outCodes q.conn.word).any fun k => !q.endsOn k && (q.nextOn conns k).isEmpty

/-- Spans from which a dead branch is reached. -/
def reachDead (es : List (OpenSpan × OpenSpan)) : Nat → List OpenSpan → List OpenSpan
  | 0, l => l
  | n + 1, l =>
    let more := (es.filter fun e => l.contains e.2 && !l.contains e.1).map Prod.fst
    if more.isEmpty then l else reachDead es n (more.eraseDups ++ l)

/-- The first ac from t to hi in which no connection holds an input. -/
def firstGap (held : List Occ) (hi : Nat) : Nat → Nat → Option Nat
  | 0, _ => none
  | n + 1, t =>
    if t > hi then none
    else
      match held.find? fun o => decide (o.sg ≤ t) && decide (t ≤ routeLast o) with
      | some o => firstGap held hi n (routeLast o + 1)
      | none => some t

/-- R111 for what a port engine presents: every ac of a span is taken over at the next router. -/
def OpenSpan.gapBads (conns : Tbl (List Occ)) (q : OpenSpan) : List Bad :=
  if !routeOpen q.conn.word then []
  else
    (outCodes q.conn.word).flatMap fun k =>
      match q.leads k with
      | some (n, inp, lo, hi) =>
        let held := (tblGet [] conns n.num).filter fun d => routeIn d.word = portCode inp
        match firstGap held hi (held.length + 2) lo with
        | some t => (q.conn.atUnit n.uid).bad 10 t
        | none => []
      | none => []

/-- R126: an open connection on no open route or with a branch that ends in nothing, and a connection that is not open on
one. R111: flits that no connection takes over. -/
def openBads (occs : List Occ) (conns : Tbl (List Occ)) (t : List OpenSpan × List (OpenSpan × OpenSpan)) : List Bad :=
  let routes := occs.filter Occ.isRouteOp
  let on := (t.1.map (·.conn)).eraseDups
  let dead := (reachDead t.2 t.2.length (t.1.filter (OpenSpan.dead conns))).map (·.conn)
  (routes.flatMap fun o =>
    if routeOpen o.word && (!on.contains o || dead.contains o) || (!routeOpen o.word && on.contains o) then o.bad 6 o.sg else []) ++
    t.1.flatMap (OpenSpan.gapBads conns)

/-! ### Following a flit -/

/-- Extra ac of the L port (R161). -/
def lDelay (reserve : Bool) (x : Nat) : Nat := if reserve then eastCost x else 0

def mergeTraced (a b : Traced) : Traced :=
  { seen := a.seen ++ b.seen, links := a.links ++ b.links, ended := a.ended ++ b.ended, bads := a.bads ++ b.bads }

def Traced.none : Traced := { seen := [], links := [], ended := [], bads := [] }

/-- A flit on one output of its connection: the flit at the neighbour, or its end. -/
def Travel.out (reserve : Bool) (f : Travel) (o : Occ) (r : ColId) (k : Nat) : List Travel × Traced :=
  let t := f.at'
  let use : Use := { key := (r.num * 8 + k) * 2 ^ 64 + t, occ := f.src, at' := t }
  match portLayer (portOfCode k) with
  | some l =>
    let c : CoreId := ⟨r.s, r.x, r.y, l⟩
    if routeVsink o.word then
      ([], { Traced.none with ended := [⟨f, t, o, .command c⟩],
                              bads := if routeOpen o.word then (f.src.atUnit r.uid).bad 10 t else [] })
    else ([], { Traced.none with ended := [⟨f, t + 1 + lDelay reserve r.x.val, o, .core c⟩], links := [use] })
  | none =>
    if k = 7 then
      match r.wellOf with
      | some w =>
        match f.kind with
        | .desc _ _ _ => ([], { Traced.none with ended := [⟨f, t + 1, o, .well w⟩] })
        | _ => ([], { Traced.none with bads := (f.src.atUnit r.uid).bad 11 t })
      | none => ([], { Traced.none with ended := [⟨f, t + 1, o, .engine⟩] })
    else
      match neighbour r (portOfCode k) with
      | some (n, inp) =>
        ([{ f with col := n.num, port := portCode inp, at' := t + hopCost r n }], { Traced.none with links := [use] })
      | none => ([], Traced.none)

/-- One ac of a flit at a router (R111), with R147 for the connection that takes it. -/
def Travel.hop (reserve : Bool) (conns : Tbl (List Occ)) (f : Travel) : List Travel × Traced :=
  let r := colOfNum f.col
  match connFor conns f.col f.port f.at' with
  | none => ([], { Traced.none with seen := [f], bads := (f.src.atUnit r.uid).bad 10 f.at' })
  | some o =>
    let outs := (outCodes o.word).map (f.out reserve o r)
    let own := if decide (o.group = f.src.group) || !f.src.checked then [] else o.bad 12 f.at'
    (outs.flatMap Prod.fst,
     (outs.map Prod.snd).foldl mergeTraced { Traced.none with seen := [f], bads := own })

/-- Follow flits until all have ended. -/
def traceGo (reserve : Bool) (conns : Tbl (List Occ)) : Nat → List Travel → Traced → Traced
  | 0, _, x => x
  | _ + 1, [], x => x
  | n + 1, f :: fs, x =>
    let r := f.hop reserve conns
    traceGo reserve conns n (r.1 ++ fs)
      { seen := r.2.seen ++ x.seen, links := r.2.links ++ x.links, ended := r.2.ended ++ x.ended, bads := r.2.bads ++ x.bads }

def trace (reserve : Bool) (conns : Tbl (List Occ)) (fs : List Travel) : Traced :=
  traceGo reserve conns (2 ^ 64) fs Traced.none

/-- Flits that an op sends into its L input (R113, R120). -/
def Occ.sends (reserve : Bool) (o : Occ) : List Travel :=
  match unitOfUid o.uid with
  | some (.core c) =>
    let d := lDelay reserve c.x.val
    let at' := fun (t n : Nat) (k : FlitKind) =>
      ({ col := c.col.num, port := portCode (layerPort c.layer), at' := t + d, born := t + d, kind := k, src := o,
         nth := n, members := [] } : Travel)
    if decide (opUnit o.word = 5) && decide (opCode o.word = 3) then
      (List.range (ceilDiv (moveLen o.word) 8)).map fun f => at' (o.sg + f + 3) f .data
    else if decide (opUnit o.word = 5) && decide (opCode o.word = 5) then
      [at' (o.sg + 1) 0 (.desc (moveXword o.word) (moveLen o.word) c.num)]
    else []
  | _ => []

/-! ### Wells (R119-R124) -/

/-- Descriptors at a well in order of arrival. -/
def arrivalsAt (w : RegionId) (ended : List Ended) : List Ended :=
  (ended.filter fun e => decide (e.dest = .well w)).mergeSort fun a b => a.at' ≤ b.at'

/-- Merge groups; a member is named by its place in the order of arrival. -/
def groupsOf (arr : List Ended) : List MergeGroup :=
  arr.zipIdx.foldl (fun gs p =>
    match p.1.flit.kind with
    | .desc x l _ => joinGroup p.1.at' x l p.2 gs
    | _ => gs) []

/-- Reply flits of a group (R122, R123). -/
def repliesOf (w : RegionId) (arr : List Ended) (g : MergeGroup) : List Travel :=
  (g.members.map Prod.fst).eraseDups.flatMap fun a =>
    let ms := (g.members.filter fun m => m.1 = a).filterMap fun m => (arr[m.2]?).map fun e => e.flit.src
    match ms with
    | [] => []
    | m :: _ => (List.range (ceilDiv g.len 8)).map fun f =>
        { col := w.router.num, port := 7, at' := a + 9 + f, born := a + 9 + f, kind := .reply g.xword g.len f, src := m,
          nth := f, members := ms }

/-- Reply flits of a well with the ac of their read (R122). -/
def readReplies (w : RegionId) (arr : List Ended) (gs : List MergeGroup) : List (Nat × Travel) :=
  gs.flatMap fun g => (repliesOf w arr g).map fun f =>
    (match f.kind with | .reply _ _ i => g.first + 8 + i | _ => f.at', f)

/-- R124: more than 16 reply flits held after an ac. -/
def bufferBads (u : Nat) (rs : List (Nat × Travel)) : List Bad :=
  let held := rs.map fun p => (p.1, p.2.at')
  rs.flatMap fun p => if heldReplies held (p.1 + 1) > 16 then (p.2.src.atUnit u).bad 11 (p.1 + 1) else []

/-- R119, R123, R124 at one well, and its sharing between timing groups (R147). -/
def wellBads (w : RegionId) (arr : List Ended) (gs : List MergeGroup) : List Bad :=
  let u := w.router.uid
  let rs := readReplies w arr gs
  let owner := fun (g : MergeGroup) => (g.members.head?.bind fun m => arr[m.2]?).map fun e => e.flit.src.atUnit u
  let banks := gs.flatMap fun g =>
    match owner g with
    | some o => (groupBanks g).map fun b => ({ key := b, occ := o, at' := b / 16 } : Use)
    | none => []
  let aux := rs.map fun p => ({ key := p.2.at', occ := p.2.src.atUnit u, at' := p.2.at' } : Use)
  let shared := banks.flatMap fun a =>
    if banks.any fun b => decide (b.at' / 1024 = a.at' / 1024) && decide (b.occ.group ≠ a.occ.group) then a.occ.bad 12 a.at' else []
  clashes 11 banks ++ clashes 11 aux ++ bufferBads u rs ++ shared

/-- Wells that descriptors reach. -/
def wellsOf (ended : List Ended) : List RegionId :=
  (ended.filterMap fun e => match e.dest with | .well w => some w | _ => none).eraseDups

/-! ### Deliveries to cores (R113-R115, R122, R123) -/

/-- Ac in which an op expects a delivery. -/
def Occ.expects (o : Occ) : List Nat :=
  let w := o.word
  if !o.isCore then []
  else if decide (opUnit w = 5) && decide (opCode w = 4) then (List.range (ceilDiv (moveLen w) 8)).map (o.sg + ·)
  else if decide (opUnit w = 1) && runBsrc w then runDeliveryAcs w o.sg
  else []

/-- What meets at a core in an ac: an op that expects a flit, or a flit. -/
structure Meeting where
  key : Nat
  op : Option Occ
  flit : Option Ended
deriving DecidableEq, Repr

def isReply (e : Ended) : Bool := match e.flit.kind with | .reply _ _ _ => true | _ => false

/-- A reply that one of the core's own WREADs awaits. -/
def servedReply (uid : Nat) (e : Ended) : Option Occ :=
  if isReply e then e.flit.members.find? fun o => o.uid = uid else none

/-- One core in one ac. -/
def meetingBads (uid t : Nat) (l : List Meeting) : List Bad :=
  let ops := l.filterMap (·.op)
  let flits := l.filterMap (·.flit)
  let plain := flits.filter fun e => decide (e.flit.kind = .data)
  let stray := flits.filter fun e =>
    if isReply e then (servedReply uid e).isNone else decide (e.flit.kind ≠ .data) || ops.isEmpty
  (stray.flatMap fun e => (e.flit.src.atUnit uid).bad 10 t) ++
    (ops.flatMap fun o =>
      (if decide (plain.length ≠ 1) || decide (ops.length ≠ 1) then o.bad 10 t else []) ++
      (if plain.any fun e => decide (e.flit.src.group ≠ o.group) then o.bad 12 t else []))

def meetings (occs : List Occ) (ended : List Ended) : List Meeting :=
  (occs.flatMap fun o => o.expects.map fun t => ({ key := o.uid * 2 ^ 64 + t, op := some o, flit := none } : Meeting)) ++
    ended.filterMap fun e =>
      match e.dest with
      | .core c => some { key := c.uid * 2 ^ 64 + e.at', op := none, flit := some e }
      | _ => none

def deliveryBads (occs : List Occ) (ended : List Ended) : List Bad :=
  let s := (meetings occs ended).mergeSort fun a b => a.key ≤ b.key
  (s.splitBy fun a b => a.key = b.key).flatMap fun l =>
    match l with
    | [] => []
    | m :: _ => meetingBads (m.key / 2 ^ 64) (m.key % 2 ^ 64) l

/-- Accesses to core SRAM by the replies of a WREAD, one list for each flit that reached it. -/
def replyUses (ended : List Ended) : List (Occ × List Use) :=
  ended.filterMap fun e =>
    match e.dest, e.flit.kind with
    | .core c, .reply _ l f =>
      (servedReply c.uid e).map fun o =>
        (o, o.sramUses (sramRun (o.off + 256 * f) (min 8 (l - 8 * f)) false fun _ => e.at'))
    | _, _ => none

/-- A WREAD that some of its reply flits do not reach (R122). -/
def missingReplies (occs : List Occ) (got : List (Occ × List Use)) : List Bad :=
  (occs.filter fun o => o.isCore && decide (opUnit o.word = 5) && decide (opCode o.word = 5)).flatMap fun o =>
    if (got.filter fun g => g.1 = o).length = ceilDiv (moveLen o.word) 8 then [] else o.bad 10 o.sg

/-! ### Vaults (R172-R179) -/

/-- A transfer in an ac of a channel. -/
structure ChanUse where
  key : Nat
  up : Bool
  occ : Occ
deriving DecidableEq, Repr

def Occ.vaultUses (o : Occ) : List Use × List ChanUse :=
  let w := o.word
  let n := moveLen w
  if !o.isCore || decide (opUnit w ≠ 5) || decide (opCode w > 2) then ([], [])
  else
    let read := decide (opCode w = 1)
    let acs := bankAcs (o.sg + if read then 3 else 5) n
    let chan := span (o.sg + if read then 13 else 3) (ceilDiv n 4)
    (acs.map fun a => { key := o.uid * 2 ^ 96 + a * 16 + moveBank w, occ := o, at' := a },
     chan.map fun a => { key := o.uid * 2 ^ 64 + a, up := read, occ := o })

/-- Channel use by command flits (R179). -/
def commandUses (ended : List Ended) : List ChanUse :=
  ended.flatMap fun e =>
    match e.dest with
    | .command v => [1, 2].map fun d => { key := v.uid * 2 ^ 64 + e.at' + d, up := false, occ := e.flit.src.atUnit v.uid }
    | _ => []

/-- R175: one transfer an ac, and an idle ac between the directions. -/
def chanBads (l : List ChanUse) : List Bad :=
  let s := l.mergeSort fun a b => a.key ≤ b.key
  (s.zip (s.drop 1)).flatMap fun p =>
    if decide (p.1.key = p.2.key) || (decide (p.1.key + 1 = p.2.key) && decide (p.1.up ≠ p.2.up)) then
      p.2.occ.bad 9 (p.2.key % 2 ^ 64)
    else []

/-! ### Near-bank commands (R147, R200, R201, R206) -/

/-- A near-bank command that a flit brings to a vault: the op that sent the flit, the ac of the flit, the command word. -/
structure NbCommand where
  vault : CoreId
  src : Occ
  at' : Nat
  word : EccWord
deriving DecidableEq, Repr

def NbCommand.start (c : NbCommand) : Nat := ceilDiv (c.at' + 4) 64 * 64
def NbCommand.stop (c : NbCommand) : Nat := c.start + 64 * nbDuration c.word

/-- Banks whose units a command needs (R200). -/
def NbCommand.banks (c : NbCommand) : List Nat :=
  if nbOp c.word = 3 then (maskBanks (nbMask c.word) ++ [nbBank c.word]).eraseDups else [nbBank c.word]

/-- The word that a core's SRAM holds at an offset when an op reads it, where the last op that wrote it is a VREAD: the vault's
word as it stands at the load. Any other word is data that the loader does not know (log 11). -/
def sramSource (rd : Nat → EccWord) (mine : List Occ) (off t : Nat) : Option EccWord :=
  let writes := mine.filter fun o => o.sramAccs.any fun a => !a.read && decide (a.off = off) && decide (a.at' < t)
  match writes.getLast? with
  | some o =>
    match unitOfUid o.uid with
    | some (.core c) =>
      if decide (opUnit o.word = 5) && decide (opCode o.word = 1) then
        some (rd (bankBase c (moveBank o.word) + 32 * moveXword o.word + (off - o.off)))
      else none
    | _ => none
  | none => none

/-- The commands of a command flit, as far as the loader knows its words. -/
def Ended.commands (rd : Nat → EccWord) (occs : List Occ) (e : Ended) : List NbCommand :=
  match e.dest with
  | .command v =>
    let o := e.flit.src
    let mine := occs.filter fun x => decide (x.uid = o.uid)
    (List.range (min 8 (moveLen o.word - 8 * e.flit.nth))).filterMap fun j =>
      ((sramSource rd mine (o.off + 256 * e.flit.nth + 32 * j) (o.sg + e.flit.nth)).filter fun w => nbOp w ≠ 0).map fun w =>
        { vault := v, src := o, at' := e.at', word := w }
  | _ => []

/-- Two commands need one unit in one ac. -/
def NbCommand.meets (a b : NbCommand) : Bool :=
  decide (a.vault = b.vault) && decide (a.start < b.stop) && decide (b.start < a.stop) && a.banks.any b.banks.contains

/-- R206 and R201 over the commands: a word that is malformed, a unit that is not idle, an access in an ac that a command owns. -/
def commandBads (banks : List Use) (cs : List NbCommand) : List Bad :=
  let ok := cs.filter fun c => nbWordOk c.word
  (cs.flatMap fun c => if nbWordOk c.word then [] else (c.src.atUnit c.vault.uid).bad 9 c.at') ++
    (ok.zipIdx.flatMap fun p =>
      if ok.zipIdx.any fun q => p.1.meets q.1 && (decide (q.1.start < p.1.start) || (decide (q.1.start = p.1.start) && decide (q.2 < p.2)))
      then (p.1.src.atUnit p.1.vault.uid).bad 9 p.1.start else []) ++
    banks.flatMap fun b =>
      if nbSlot b.at' && ok.any fun c => decide (c.vault.uid = b.occ.uid) && c.banks.contains (b.key % 16) &&
          decide (c.start ≤ b.at') && decide (b.at' < c.stop) then b.occ.bad 9 b.at' else []

/-- R147: a vault bank used in one stroke by its core and by a command of another timing group, or by two such commands. -/
def commandGroups (banks : List Use) (cs : List NbCommand) : List Bad :=
  let inStrokes := fun (c : NbCommand) (j : Nat) => decide (c.start / 1024 ≤ j) && decide (j ≤ (c.stop - 1) / 1024)
  cs.flatMap fun c =>
    if (banks.any fun b => decide (b.occ.uid = c.vault.uid) && c.banks.contains (b.key % 16) && inStrokes c (b.at' / 1024) &&
          decide (b.occ.group ≠ c.src.group)) ||
        cs.any fun d => decide (d.vault = c.vault) && decide (d.src.group ≠ c.src.group) && c.banks.any d.banks.contains &&
          (inStrokes c (d.start / 1024) || inStrokes d (c.start / 1024))
    then (c.src.atUnit c.vault.uid).bad 12 c.at' else []

def vaultBads (occs : List Occ) (ended : List Ended) (cs : List NbCommand) : List Bad :=
  let uses := occs.map Occ.vaultUses
  let banks := uses.flatMap Prod.fst
  (banks.flatMap fun b => if maintenanceSlot b.at' then b.occ.bad 9 b.at' else []) ++ clashes 9 banks ++
    chanBads (uses.flatMap Prod.snd ++ commandUses ended) ++ commandBads banks cs ++ commandGroups banks cs

/-! ### Flits across a STAKE (R141) -/

/-- A STAKE of the sender or of the receiver starts while the flit is on its way, or a router's STAKE stands while it holds a
connection, or while another router holds a connection of an open route that passes it. A WREAD's own core waits for it. -/
def stakeBads (occs : List Occ) (ended : List Ended) (spans : List OpenSpan) : List Bad :=
  let stakes := occs.filter fun o => isStake o.word
  (stakes.flatMap fun o =>
    let roots := (spans.filter fun q => q.conn.uid = o.uid).map (·.root)
    if spans.any fun q => roots.contains q.root && decide (q.lo ≤ o.fin) && decide (o.fin < q.hi) then o.bad 12 o.fin else []) ++
  (stakes.flatMap fun o =>
    if occs.any fun c => decide (c.uid = o.uid) && c.isRouteOp && decide (c.sg ≤ o.sg) && decide (o.sg ≤ routeLast c) then
      o.bad 12 o.sg else []) ++
  ended.flatMap fun e =>
    let ends := match e.dest with
      | .core c => [c.uid, e.flit.src.uid]
      | .command v => [v.uid, e.flit.src.uid]
      | _ => [e.flit.src.uid]
    match e.flit.kind with
    | .data => stakes.flatMap fun o =>
        if ends.contains o.uid && decide (e.flit.born ≤ o.fin) && decide (o.fin < e.at') then o.bad 12 o.fin else []
    | _ => []

/-! ### All of it -/

/-- Everything the walk finds on one selection, but for the rules of the shift reserve. -/
structure Found where
  occs : List Occ
  releases : List Release
  traced : Traced
  spans : List OpenSpan
  commands : List NbCommand
  bads : List Bad
deriving DecidableEq, Repr

/-- R109: two flits at one input in one ac; replies at a well router are R123's. -/
def presenceUses (seen : List Travel) : List Use :=
  (seen.filter fun f => !(decide (f.port = 7))).map fun f =>
    { key := (f.col * 8 + f.port) * 2 ^ 64 + f.at', occ := f.src.atUnit (colOfNum f.col).uid, at' := f.at' }

def findAll (reserve : Bool) (rd : Nat → EccWord) (x : Walk) : Found :=
  let occs := x.occs
  let conns := connsOf occs
  let t1 := trace reserve conns (occs.flatMap (Occ.sends reserve))
  let wells := (wellsOf t1.ended).map fun w =>
    let arr := arrivalsAt w t1.ended
    let gs := groupsOf arr
    (w, arr, gs, gs.flatMap (repliesOf w arr))
  let t2 := trace reserve conns (wells.flatMap fun e => e.2.2.2)
  let t := mergeTraced t1 t2
  let got := replyUses t.ended
  let opened := openTrace conns (2 ^ 64) (openBegins occs) [] []
  let cs := t.ended.flatMap (Ended.commands rd occs)
  { occs := occs, releases := x.releases, traced := t, spans := opened.1, commands := cs,
    bads := x.issueBads ++ clashes 8 (sramUsesOf occs ++ got.flatMap Prod.snd) ++ vaultBads occs t.ended cs ++
      outputBads conns ++ openBads occs conns opened ++ t.bads ++ clashes 10 (presenceUses t.seen) ++ deliveryBads occs t.ended ++
      missingReplies occs got ++ (wells.flatMap fun e => wellBads e.1 e.2.1 e.2.2.1) ++ stakeBads occs t.ended opened.1 }

/-- The ac that each WREAD takes until its last reply word is written, as the traced replies show (R97, R122). -/
def Found.wreadTimes (f : Found) : List ((Nat × Nat) × Nat) :=
  f.traced.ended.flatMap fun e =>
    if isReply e then e.flit.members.map fun o => ((o.uid, o.idx), e.at' + 1 - o.sg) else []

/-- The longest of them for the WREAD at a store index; until one is known, its least time. -/
def wreadTime (l : List ((Nat × Nat) × Nat)) (uid idx : Nat) : Nat :=
  ((l.filter fun p => p.1 = (uid, idx)).map Prod.snd).foldl max 13

/-- A walk with the times of its WREADs: these decide where a STAKE stands (R100), and they follow from the walk. -/
def findWith (reserve : Bool) (rd : Nat → EccWord) (walk : (Nat → Nat → Nat) → Walk) : Nat → List ((Nat × Nat) × Nat) → Found
  | 0, l => findAll reserve rd (walk (wreadTime l))
  | n + 1, l =>
    let f := findAll reserve rd (walk (wreadTime l))
    let l' := f.wreadTimes
    if l' = l then f else findWith reserve rd walk n l'

end Sys2Proof.Machine
end

