-- ==== Sys2Proof/Machine/WalkRules.lean ====
section
/-! DEFINITION. What the loader derives from its walk beside the conflicts: the units and links that programs use (04
Table 4.10 check 0x05), the end of the schedule (R157), the rules of the shift reserve (R160, R162, R164), the
selections of the split table (05 R215, R218) and the sheddable rendezvous (12 R451). -/

namespace Sys2Proof.Machine

/-! ### 0x05: what programs reach -/

/-- Vault and well that an op of a core uses. -/
def State.opUsesDead (s : State) (c : CoreId) (w : OpWord) : Bool :=
  decide (opUnit w = 5) &&
    match opCode w with
    | 1 => s.vaultDead c
    | 2 => s.vaultDead c || s.vaultDrain c
    | 5 => !s.wellUsable (s.homeOf c).col.region
    | _ => false

/-- Link direction, core, vault or well that a connection leads to. -/
def State.outDead (s : State) (r : ColId) (w : OpWord) (k : Nat) : Bool :=
  match portLayer (portOfCode k) with
  | some l =>
    let c := s.servedBy ⟨r.s, r.x, r.y, l⟩
    if routeVsink w then s.vaultDead c || s.vaultDrain c else !s.coreUsable c
  | none =>
    if k = 7 then (match r.wellOf with | some q => !s.wellUsable q | none => false) else s.linkDead r (portOfCode k)

def State.useBads (s : State) (progs : List (Nat × List OpWord)) : List Bad :=
  progs.flatMap fun p => p.2.zipIdx.flatMap fun w =>
    match unitOfUid p.1 with
    | some (.core c) => badIf (s.opUsesDead c w.1) (bad 5 p.1 w.2)
    | some (.router r) => badIf (isRoute w.1 && (outCodes w.1).any (s.outDead r w.1)) (bad 5 p.1 w.2)
    | none => []

/-! ### The end of the schedule (R157) -/

/-- The schedule stroke in which the last op is complete, or the last near-bank command ends (R102, R157). -/
def Found.lastStroke (f : Found) : Nat :=
  max ((f.occs.map fun o => (max o.sg (o.fin - 1)) / 1024 - o.waits).foldl max 0)
    ((f.commands.map fun c => (c.stop - 1) / 1024 - c.src.waits).foldl max 0)

/-- A ledger without a repeating window covers the whole schedule, which then has an end (log 11). -/
def endBads (lg : Ledger) (f : Found) : List Bad :=
  badIf (decide (lg.repeatAt = 0xFFFFFFFF) &&
      (decide (f.lastStroke ≥ 64 * lg.windows) || f.occs.any fun o => isLoop o.word && decide (loopCount o.word = 0)))
    ⟨14, noUnit, lg.windows, 64 * lg.windows, 0⟩

/-! ### Shift reserve -/

/-- R160: no connection to or from the L port of a reserve core. -/
def reservePortBads (im : Image) (progs : List (Nat × List OpWord)) : List Bad :=
  progs.flatMap fun p => p.2.zipIdx.flatMap fun w =>
    match unitOfUid p.1 with
    | some (.router r) =>
      badIf (isRoute w.1 && (routeIn w.1 :: outCodes w.1).any fun k =>
        (portLayer (portOfCode k)).any fun l => im.isReserve ⟨r.s, r.x, r.y, l⟩) (bad 15 p.1 w.2)
    | _ => []

/-- A use of a link direction over some ac, by a flit that `src` has sent or an open route that begins there; `unit` is what a
violation names. -/
structure LinkUse where
  link : Nat
  lo : Nat
  hi : Nat
  src : Occ
  unit : Nat
deriving DecidableEq, Repr

/-- A core whose endpoint a loss in its row segment can move, on layer l (R160, R163). -/
def Image.movable (im : Image) (l : Layer) (c : CoreId) : Bool :=
  decide (c.layer = l) && im.usableAtLoad c && !im.isReserve c

/-- Link directions as router number * 8 + port code. -/
def eastLink (c : CoreId) : Nat := c.col.num * 8 + 1
def westLink (c : CoreId) : Nat := (c.col.num + 1) * 8 + 3

/-- R162: what the added hops of one layer's moved endpoints carry: deliveries, command flits and open flits on the way east,
flits that the core sends on the way west. -/
def addedHops (im : Image) (l : Layer) (f : Found) : List LinkUse :=
  let ended := f.traced.ended.filterMap fun e =>
    match e.dest with
    | .core c =>
      let t := e.at' - 1 - lDelay true c.x.val
      if im.movable l c then some { link := eastLink c, lo := t, hi := t, src := e.flit.src, unit := c.uid } else none
    | .command c =>
      if im.movable l c then some { link := eastLink c, lo := e.at', hi := e.at', src := e.flit.src, unit := c.uid } else none
    | _ => none
  let sent := f.traced.seen.filterMap fun g =>
    match unitOfUid g.src.uid with
    | some (.core c) =>
      let t := g.at' - lDelay true c.x.val
      if im.movable l c && decide (g.at' = g.born) && decide (g.port = portCode (layerPort l)) && decide (g.col = c.col.num) then
        some { link := westLink c, lo := t, hi := t, src := g.src, unit := c.uid }
      else none
    | _ => none
  let opened := f.spans.filterMap fun q =>
    match unitOfUid q.conn.uid with
    | some (.router r) =>
      let c : CoreId := ⟨r.s, r.x, r.y, l⟩
      if routeOpen q.conn.word && routeVsink q.conn.word && (routeOut q.conn.word).testBit (portCode (layerPort l)) && im.movable l c then
        some { link := eastLink c, lo := q.lo, hi := q.hi, src := q.root, unit := c.uid }
      else none
    | _ => none
  ended ++ sent ++ opened

/-- What the links carry without any loss. -/
def Found.carried (f : Found) : List LinkUse :=
  (f.traced.links.map fun v => { link := v.key / 2 ^ 64, lo := v.at', hi := v.at', src := v.occ, unit := v.occ.uid }) ++
    f.spans.flatMap fun q =>
      match unitOfUid q.conn.uid with
      | some (.router r) =>
        if routeOpen q.conn.word then
          ((outCodes q.conn.word).filter (· < 4)).map fun k =>
            { link := r.num * 8 + k, lo := q.lo, hi := q.hi, src := q.root, unit := r.uid }
        else []
      | _ => []

/-- Two uses of one link in one ac by different flits. -/
def LinkUse.meets (a b : LinkUse) : Bool :=
  decide (a.link = b.link) && decide (a.lo ≤ b.hi) && decide (b.lo ≤ a.hi) &&
    !(decide (a.src.uid = b.src.uid) && decide (a.src.idx = b.src.idx) && decide (a.src.sg = b.src.sg))

/-- An added hop on a link that carries another flit in that ac. -/
def hopBads (im : Image) (f : Found) : List Bad :=
  let base := f.carried
  [Layer.c2, .c4, .c6].flatMap fun l =>
    let added := addedHops im l f
    added.flatMap fun u =>
      if base.any u.meets || added.any u.meets then { u.src with uid := u.unit, idx := 0 }.bad 15 u.lo else []

/-- Step releases up to an ac. -/
def Found.epoch (f : Found) (stepRdv sg : Nat) : Nat :=
  (f.releases.filter fun r => decide (r.rdv = stepRdv) && decide (r.stroke * 1024 ≤ sg)).length

/-- What a core has written, with the number of the step plus one (R164). -/
structure Written where
  sram : Tbl Nat
  vregs : Tbl Nat
  slots : Tbl Nat
  rows : Tbl (List Nat)
deriving DecidableEq, Repr

def Written.none : Written := { sram := [], vregs := [], slots := [], rows := [] }

/-- The first n lanes of registers. -/
def lanesOf (n : Nat) (rs : List Nat) : List Nat := rs.flatMap fun r => (List.range n).map (laneKey r)

/-- Register lanes that an op reads and those that it writes. -/
def regsRead (w : OpWord) : List Nat :=
  match opUnit w with
  | 4 => lanesOf (vecLanes w) (vecSources w)
  | 6 => lanesOf 256 (if opCode w = 2 then [vmemV w] else if opCode w = 4 then span (vmemV w) 4 else [])
  | _ => []

def regsWritten (w : OpWord) : List Nat :=
  match opUnit w with
  | 3 => if opCode w = 2 then (List.range (drainN w)).flatMap fun i => (List.range 128).map (drainLane w i) else []
  | 4 => lanesOf (if opCode w = 0x12 ∨ opCode w = 0x13 then 256 else vecLanes w) (vecDests w)
  | 6 => lanesOf 256 (if opCode w = 1 then [vmemV w] else if opCode w = 3 then span (vmemV w) 4 else [])
  | _ => []

/-- Accumulator slots that an op reads and those that it writes. -/
def slotsRead (w : OpWord) : List Nat :=
  match opUnit w with
  | 1 => if runInit w then [] else span (runAcc w) (runT w)
  | 3 => span (drainAcc w) (drainN w)
  | _ => []

def slotsWritten (w : OpWord) : List Nat := if opUnit w = 1 then span (runAcc w) (runT w) else []

/-- SRAM words that an op reads, and those it writes. -/
def Occ.wordsTouched (o : Occ) (read : Bool) : List Nat :=
  let wread := decide (opUnit o.word = 5) && decide (opCode o.word = 5)
  if wread then (if read then [] else span (o.off / 32) (moveLen o.word))
  else (o.sramAccs.filter fun a => a.read = read).map fun a => a.off / 32

/-- A value of an earlier step is read (R164). A word of core SRAM that this step has not written counts too. -/
def Written.live (v : Written) (o : Occ) (e : Nat) : Bool :=
  let old := fun (t : Tbl Nat) (k : Nat) => decide (tblGet 0 t k ≠ 0) && decide (tblGet 0 t k ≠ e + 1)
  (regsRead o.word).any (old v.vregs) || (slotsRead o.word).any (old v.slots) ||
    (decide (e ≠ 0) && (o.wordsTouched true).any fun k => decide (tblGet 0 v.sram k ≠ e + 1)) ||
    (decide (opUnit o.word = 1) && (List.range (runU o.word)).any fun u =>
      (tblGet [] v.rows u).head?.any fun h => decide (h ≠ e + 1))

def Written.after (v : Written) (o : Occ) (e : Nat) : Written :=
  let put := fun (t : Tbl Nat) (ks : List Nat) => ks.foldl (fun t k => tblSet 0 t k (e + 1)) t
  let w := o.word
  { sram := put v.sram (o.wordsTouched false), vregs := put v.vregs (regsWritten w), slots := put v.slots (slotsWritten w),
    rows :=
      if opUnit w = 2 then (span (floadU0 w) (floadN w)).foldl (fun t u => tblMod [] t u (· ++ [e + 1])) v.rows
      else if decide (opUnit w = 1) && runPop w then (List.range (runU w)).foldl (fun t u => tblMod [] t u (·.drop 1)) v.rows
      else v.rows }

def liveBads (epoch : Nat → Nat) : List Occ → Written → List Bad
  | [], _ => []
  | o :: os, v =>
    let e := epoch o.sg
    (if v.live o e then o.bad 15 o.sg else []) ++ liveBads epoch os (v.after o e)

/-- An access to a vault, by a transfer of its core or by a near-bank command: its op, step, bank, first word, length,
direction. -/
structure VaultTouch where
  occ : Occ
  epoch : Nat
  bank : Nat
  first : Nat
  len : Nat
  write : Bool
deriving DecidableEq, Repr

def Occ.touch (epoch : Nat → Nat) (o : Occ) : Option VaultTouch :=
  if decide (opUnit o.word = 5) && decide (opCode o.word ≤ 2) then
    some { occ := o, epoch := epoch o.sg, bank := moveBank o.word, first := moveXword o.word, len := moveLen o.word,
           write := decide (opCode o.word = 2) }
  else none

/-- What a near-bank command reads and writes at the offsets that its word names (Table 5.7). -/
def NbCommand.touches (epoch : Nat → Nat) (c : NbCommand) : List VaultTouch :=
  let w := c.word
  let o := { c.src.atUnit c.vault.uid with sg := c.start }
  let t := fun (b first len : Nat) (write : Bool) =>
    ({ occ := o, epoch := epoch c.start, bank := b, first := first, len := len, write := write } : VaultTouch)
  match nbOp w with
  | 1 => [t (nbBank w) (nbX w) (nbXWords w) false, t (nbBank w) (nbW w) (matrixWords (nbWfmt w) (nbRows w) (nbK w)) false,
          t (nbBank w) (nbY w) (mvOutWords w) true]
  | 2 => [t (nbBank w) (nbW w) 1 false, t (nbBank w) (nbX w) (nbXWords w) false,
          t (nbBank w) (nbY w) (nbG w * (1 + nbD w / 8)) true]
  | _ => ((maskBanks (nbMask w)).map fun b => t b (nbW w) (8 * nbRows w) false) ++ [t (nbBank w) (nbY w) (8 * nbRows w) true]

/-- The copy of a pair that an access lies in: 0 for A, 1 for B. -/
def ShiftPair.copyOf (p : ShiftPair) (t : VaultTouch) : Option Nat :=
  let inside := fun a => decide (t.bank = p.bank) && decide (a ≤ t.first) && decide (t.first + t.len ≤ a + p.len)
  if inside p.a then some 0 else if inside p.b then some 1 else none

/-- State of an earlier step is read outside every pair. -/
def carriedBad (pairs : List ShiftPair) (before : List VaultTouch) (t : VaultTouch) : Bool :=
  let same := before.filter fun b => b.write && decide (b.bank = t.bank) && overlaps (b.first, b.len) (t.first, t.len)
  let anew := same.any fun b => decide (b.epoch = t.epoch) && decide (b.first ≤ t.first) && decide (t.first + t.len ≤ b.first + b.len)
  !t.write && !anew && (same.any fun b => decide (b.epoch < t.epoch)) && !(pairs.any fun p => (p.copyOf t).isSome)

/-- A pair is read from one copy and written to the other, by the parity of the step. -/
def parityBad (p : ShiftPair) (all : List VaultTouch) (t : VaultTouch) : Bool :=
  let side := fun (x : VaultTouch) => (p.copyOf x).map fun c => (x.epoch + c + if x.write then 1 else 0) % 2
  decide (t.epoch ≠ 0) && (side t).isSome && all.any fun x => decide (x.epoch ≠ 0) && (side x).isSome && decide (side x ≠ side t)

def touchBads (pairs : List ShiftPair) (all : List VaultTouch) : List Bad :=
  all.zipIdx.flatMap fun p =>
    if carriedBad pairs (all.take p.2) p.1 || pairs.any (fun q => parityBad q all p.1) then p.1.occ.bad 15 p.1.occ.sg else []

/-- Everything under code 0x0F that the walk shows. -/
def shiftBads (im : Image) (progs : List (Nat × List OpWord)) (f : Found) : List Bad :=
  if !im.reserve then []
  else
    reservePortBads im progs ++ hopBads im f ++
      (progs.flatMap fun p =>
        let mine := f.occs.filter fun o => o.uid = p.1
        if p.1 / 16384 = 0 then []
        else
          liveBads (f.epoch im.stepRdv) mine Written.none ++
            touchBads im.pairs (((mine.filterMap (Occ.touch (f.epoch im.stepRdv))) ++
              (f.commands.filter fun c => c.vault.uid = p.1).flatMap (NbCommand.touches (f.epoch im.stepRdv))).mergeSort
                fun a b => a.occ.sg ≤ b.occ.sg))

/-! ### Sheddable rendezvous (R451) -/

/-- The ops of the stretch that a release begins: up to the first STAKE of its timing group. -/
def Found.stretch (f : Found) (g : Nat) : List Occ × Option Nat :=
  let mine := f.occs.filter fun o => o.group = g
  let stake := (mine.filter fun o => isStake o.word).foldl (fun (m : Option Nat) o => some (match m with | none => o.sg | some t => min t o.sg)) none
  (match stake with | some t => mine.filter fun o => decide (o.sg ≤ t) | none => mine, stake)

def Found.sends (f : Found) (l : List Occ) (p : FlitEnd → Bool) : Bool :=
  f.traced.ended.any fun e => p e.dest && l.contains e.flit.src

/-- The stretch after a release lets it be delayed: its length in strokes, 64 where it has no bound. -/
def Found.shedLength (f : Found) (r : Release) : Option Nat :=
  let q := f.stretch r.group
  let ops := q.1
  let works := ops.any (fun o => o.isCore && decide (opUnit o.word = 4)) || f.sends ops fun e => match e with | .command _ => true | _ => false
  if (ops.any fun o => o.isCore && decide (opUnit o.word = 1)) || !works || f.sends ops (fun e => decide (e = .engine)) then none
  else
    match q.2 with
    | some t => some (min 256 (t / 1024 - r.stroke + 1))
    | none =>
      if ops.any fun o => isLoop o.word && decide (loopCount o.word = 0) then some 64
      else some (min 256 ((ops.map fun o => o.sg / 1024).foldl max r.stroke - r.stroke + 1))

/-- D of a rendezvous that is neither the step nor a dispatch rendezvous, over all its releases. -/
def Found.shedOf (f : Found) (rdv : Nat) : Option Nat :=
  let rs := f.releases.filter fun r => r.rdv = rdv
  let ls := rs.map f.shedLength
  if rs.isEmpty || ls.any (·.isNone) then none else some ((ls.filterMap id).foldl max 0)

/-! ### Selections (R215, R218) -/

/-- The distinct selections that a split table can yield, as variants by window; one without a table. -/
def selections (sp : Option Split) : List (List (Nat × Nat)) :=
  match sp with
  | none => [[]]
  | some sp => ((span 8 25).map fun b => sp.entries.map fun e => (e.window, variantFor e b)).eraseDups

def selOf (l : List (Nat × Nat)) (window : Nat) : Nat := ((l.find? fun p => p.1 = window).map Prod.snd).getD 0

/-- The walks of an image, one for each selection; `rd` reads the vaults as they stand, `srs` names the tensors of R95. -/
def walks (reserve : Bool) (sp : Option Split) (progs : List (Nat × List OpWord)) (rdvs : List RdvEntry)
    (rd : Nat → EccWord) (srs : Option (List Nat)) : List Found :=
  (selections sp).map fun l =>
    findWith reserve rd (fun times => walkProgram { sel := selOf l, wread := times, srs := srs } ((sp.map (·.recs)).getD []) progs rdvs)
      (progs.map fun p => p.2.length).sum []

def walkBads (im : Image) (progs : List (Nat × List OpWord)) (fs : List Found) : List Bad :=
  fs.flatMap fun f => f.bads ++ endBads im.ledger f ++ shiftBads im progs f

/-- Shed delays of the rendezvous: sheddable under every selection. -/
def shedsOf (stepRdv : Nat) (sp : Option Split) (rdvs : List RdvEntry) (fs : List Found) : List (Nat × Nat) :=
  rdvs.filterMap fun r =>
    if decide (r.id = stepRdv) || sp.any (fun q => decide (q.rdv = r.id)) then none
    else
      let ds := fs.map fun f => f.shedOf r.id
      if ds.any (·.isNone) then none else some (r.id, (ds.filterMap id).foldl max 0)

end Sys2Proof.Machine
end

