-- ==== Sys2Proof/Machine/Loader.lean ====
section
/-! DEFINITION. The end of a load (04 R148-R154, R160; 05 R214; 06 R236, R252, R254; 07 R259; 08 R305;
12 R451, R460). The walk of the schedule is that of Walk.lean to WalkRules.lean (log 11). -/

namespace Sys2Proof.Machine

/-! ### The floor plan an image was built for (R153) -/

def shiftCore (r : BitVec 64) : CoreId :=
  ⟨Fin.ofNat 12 (fld r 0 4), Fin.ofNat 18 (fld r 11 5), Fin.ofNat 20 (fld r 4 5), layerOfCode (fld r 9 2)⟩

/-- The plan of an earlier generation, when only shift repairs have come since. -/
def Plan.before (p : Plan) (gen : Nat) : Plan :=
  { gen := BitVec.ofNat 64 gen,
    units := (p.shifts.filter fun r => decide (fld r 32 32 > gen % 2 ^ 32)).foldl
      (fun u r => tblDel (tblDel u (offCore (shiftCore r))) (offVault (shiftCore r))) p.units,
    shifts := p.shifts.filter fun r => decide (fld r 32 32 ≤ gen % 2 ^ 32) }

/-- Original positions that move under a shift of core c to the reserve at x (R163). -/
def movedBy (c : CoreId) (x : Nat) : List Nat := (span c.x.val (x - c.x.val)).map fun k => (atX c k).num

def recordMoves (r : BitVec 64) : List Nat := movedBy (shiftCore r) (fld r 16 5)

def planDigest (p : Plan) : Nat := (sha384 p.bytes).toNat

/-- Check 0x04: the plan the image was built for and the positions that have moved since. -/
def State.floorCheck (s : State) (gen digest : Nat) (reserve : Bool) : Option (Plan × List Nat) :=
  let p := s.plan
  if gen = p.gen.toNat ∧ digest = planDigest p then some (p, [])
  else
    let later := p.shifts.filter fun r => decide (fld r 32 32 > gen % 2 ^ 32)
    if reserve ∧ gen < p.gen.toNat ∧ later.all (fun r => decide (fld r 21 2 = 1)) ∧ digest = planDigest (p.before gen) then
      some (p.before gen, later.flatMap recordMoves)
    else none

/-- Cores that a plan does not list usable. -/
def Plan.deadCores (p : Plan) : List Nat := (List.range 12960).filter fun n => !p.usable (offCore (coreOfNum n))

/-! ### Checks 0x05, 0x0E and 0x0F -/

/-- Check 0x05 on the units that hold programs. -/
def State.unitUsable (s : State) (uid : Nat) : Bool :=
  match unitOfUid uid with
  | some (.core c) => s.coreUsable c
  | some (.router r) => s.columnUsable r
  | none => false

def State.deadBads (s : State) (progs : List (Nat × Nat)) : List Bad :=
  progs.zipIdx.flatMap fun p => badIf (!s.unitUsable p.1.1) (bad 5 p.1.1 p.2)

/-- Check 0x0E at the level of R460. -/
def cellBad (i : Nat) : Bad := ⟨14, cellUnit i, i / 30240, 64 * (i / 30240), 0⟩

def State.thermalBads (s : State) (lg : Ledger) : List Bad :=
  match s.ledgerFails lg s.umpire.moved (s.idleLevel (some lg)) with
  | some i => [cellBad i]
  | none => []

/-- Check 0x0F where it needs no walk: no program on a reserve core, pairs inside their banks, and the ledger
after every single loss (R160, R162, R165). The image is the one that was built: the programs that shift
repairs since then have moved stand on other cores by design (R153). -/
def State.reserveBads (s : State) (im : Image) : List Bad :=
  if !im.reserve then []
  else
    (im.programs.zipIdx.flatMap fun p =>
      match unitOfUid p.1.1 with
      | some (.core c) => badIf (im.isReserve c ||
          (s.plan.reserveLeft im c &&
            (s.ledgerFails im.ledger (s.umpire.moved ++ movedBy c (im.segEnd c)) (s.idleLevel (some im.ledger))).isSome))
          (bad 15 p.1.1 p.2)
      | _ => []) ++
      im.pairs.zipIdx.flatMap fun p =>
        badIf (decide (p.1.a + p.1.len > bankWordCount) || decide (p.1.b + p.1.len > bankWordCount)) (bad 15 noUnit p.2)

/-! ### What a load reads -/

/-- The image and the tables that its load reads. -/
structure Loaded where
  image : Image
  progs : List (Nat × List OpWord)
  defs : List (Nat × CrewDef)
  pool : Option Pool
  tab : StateTab
  moved : List Nat
deriving DecidableEq, Repr

/-- The pool table in vault memory, none when POOL_ADDR is 0. -/
def State.poolBytes (s : State) : State × Option (List Byte) :=
  let a := s.regN 0x6020 1
  if a = 0 then (s, none)
  else
    match s.copyAddrs a (ceilDiv (s.regN 0x6020 2) 32) with
    | none => (s, some [])
    | some as =>
      let r := s.coxRead as
      (r.1, some (match r.2 with | .ok b => b | .error _ => []))

/-- Programs of an image by unit, as the image has them. -/
def imageProgs (b : List Byte) (h : Header) : List (Nat × List OpWord) :=
  programsOf b (coreEntries b h ++ routerEntries b h)

/-- The tables of an image, before any shift repair applies to it. -/
def imageOf (s : State) (b : List Byte) (h : Header) (built : Plan) (sheds : List (Nat × Nat)) : Image :=
  let progs := imageProgs b h
  let rdvs := (entriesAt b h.offRdv h.nRdv).map (rdvOf progs sheds)
  let mbs := (entriesAt b h.offMb h.nMb).map mbOf
  { digest := BitVec.ofNat 384 h.digest, floorGen := BitVec.ofNat 64 h.floorGen,
      floorDigest := BitVec.ofNat 384 h.floorDigest, reserve := h.reserve, stepRdv := h.stepRdv,
      deadlineMs := h.deadlineMs, programs := progs.map fun p => (p.1, p.2.length), rdvs := rdvs, mbs := mbs,
      ledger := ledgerOf b h, pairs := (pairEntries b h).map pairOf, openRoutes := openRoutesOf progs,
    split := if s.regN 0x6010 1 = 0 then none else some (splitOf (s.dom 0x6010 2) b), deadCores := built.deadCores }

def loadedOf (s : State) (b : List Byte) (h : Header) (pool : Option (List Byte)) (built : Plan) (mv : List Nat)
    (sheds : List (Nat × Nat)) : Loaded :=
  let im := imageOf s b h built sheds
  { image := im.shift mv, progs := (imageProgs b h).map fun p => (movedUid mv p.1, p.2),
    defs := (crewIds im.mbs).map fun c => (c, (crewDefOf (s.dom (0x7010 + c) 2) (s.dom (0x7010 + c) 4)).shift mv),
    pool := pool.map fun q => (poolOf q).shift mv,
    tab := if s.regN 0x7300 1 = 0 then { tensors := [], bands := [] } else (stateTabOf (s.dom 0x7300 2)).shift mv,
    moved := mv }

/-- Tensors whose entry of the state table sets SR, none where there is no state table (R95, Table 8.4; log 61). -/
def State.srTensors (s : State) : Option (List Nat) :=
  let b := s.dom 0x7300 2
  if s.regN 0x7300 1 = 0 then none
  else some (((entriesAt b 32 (fld (entryAt b 0) 0 16)).filter fun e => bit e 35).map fun e => fld e 16 16)

/-- A table of another length than its object says, which no rule treats, is refused as malformed; length 0 means no table,
whatever is stored (DESIGN CHOICE, log 66). -/
def State.lengthBads (s : State) (idx : Nat) : List Bad :=
  badIf (decide (s.regN idx 1 ≠ 0) && decide (s.regN idx 1 ≠ (s.dom idx 2).length)) (bad 6 noUnit 0)

/-- Every violation that the loader finds without a walk. -/
def State.allBads (s : State) (b : List Byte) (h : Header) (len : Nat) (pool : Option (List Byte)) (floor : Bool)
    (built : Image) (l : Loaded) : List Bad :=
  let im := l.image
  let zeroed := b.take 160 ++ leBytes 48 0 ++ b.drop 208
  let at' : State := s.setUmpire { s.umpire with moved := l.moved }
  badIf (headerBad b h len) (bad 1 noUnit 0) ++ programBads b h len true ++ programBads b h len false ++ refBads b h ++
    badIf (decide (sha384 zeroed ≠ BitVec.ofNat 384 h.digest)) (bad 2 noUnit 0) ++
    badIf (decide (h.contract / 256 ≠ 1) || decide (h.fwMajor ≠ s.fwMajor)) (bad 3 noUnit 0) ++
    badIf (!floor) (bad 4 noUnit 0) ++ s.deadBads im.programs ++ at'.useBads l.progs ++ wordBads l.progs ++
    reservedBads b h ++ s.crewBads im.mbs im.openRoutes l.defs ++
    (if l.tab.tensors = [] ∧ s.regN 0x7300 1 = 0 then [] else s.stateBads (s.dom 0x7300 2) im.mbs l.defs l.tab) ++
    (match pool, l.pool with | some q, some p => s.poolBads q p im.mbs im.rdvs | _, _ => []) ++
    (match im.split with
     | some sp => splitBads len (s.dom 0x6010 2) b (fixedSections b h ++ progSections b h) l.progs im.rdvs im.mbs sp
     | none => []) ++
    s.lengthBads 0x6010 ++ s.lengthBads 0x7300 ++
    creditBads im.openRoutes ++ rdvBads l.progs im.rdvs im.mbs im.stepRdv ++
    timeoutBads im.rdvs im.stepRdv im.deadlineMs l.defs ++ at'.thermalBads im.ledger ++ at'.reserveBads built

/-- The verdict on an image that can be read: checks 0x01 to 0x05 need no walk; the walk adds what it finds to the rest. -/
def State.judge (s : State) (b : List Byte) (h : Header) (len : Nat) (pool : Option (List Byte)) : Except Bad Loaded :=
  let floor := s.floorCheck h.floorGen h.floorDigest h.reserve
  let f := floor.getD (s.plan, [])
  let im := imageOf s b h f.1 []
  let l := loadedOf s b h pool f.1 f.2 []
  let still := s.allBads b h len pool floor.isSome im l
  match firstFailing (still.filter fun v => decide (v.code ≤ 5)) with
  | some v => .error v
  | none =>
    let fs := walks im.reserve im.split (imageProgs b h) im.rdvs (fun a => s.word (movedAddr f.2 a)) s.srTensors
    match firstFailing (still ++ walkBads im (imageProgs b h) fs) with
    | some v => .error v
    | none => .ok (loadedOf s b h pool f.1 f.2 (shedsOf im.stepRdv im.split im.rdvs fs))

/-- IMAGE_ADDR as R148 allows it. -/
def State.imageAddrOk (s : State) (a : Nat) : Bool := decide (a % 32 = 0) && s.vaultOk a

/-- CREW_DIGEST of a crew as the loader reads its CREW_DATA (Table 7.2). -/
def State.crewDigest (s : State) (c : Nat) : List Byte := leBytes 48 (sha384 (s.dom (0x7010 + c) 2)).toNat

/-- N_ENTRY of the state table as the load has read it (Table 8.2). -/
def State.readStateTable (s : State) : State :=
  s.setRegN 0x7300 3 (if s.regN 0x7300 1 = 0 then 0 else fld (entryAt (s.dom 0x7300 2) 0) 0 16)

/-- The crews that a refused image names and the state table have been read, where no check before theirs refused it (R259,
R305; DEDUCED, log 46). -/
def State.readTables (s : State) (b : List Byte) (h : Header) (v : Bad) : State :=
  if v.code ≤ 5 then s
  else ((crewIds ((entriesAt b h.offMb h.nMb).map mbOf)).filter (· ≠ 0)).foldl
    (fun (s : State) c => s.setDom (0x7010 + c) 5 (s.crewDigest c)) s.readStateTable

/-- Run the checks over the staged image. -/
def State.checkImage (s : State) : State × Except Bad Loaded :=
  let addr := s.regN 0x6000 1
  let len := s.regN 0x6000 2
  match s.copyAddrs addr (len / 32) with
  | none => (s, .error (bad 1 noUnit 0))
  | some as =>
    if !s.imageAddrOk addr ∨ len < 256 ∨ len % 32 ≠ 0 then (s, .error (bad 1 noUnit 0))
    else
      let r0 := s.coxRead (as.take 8)
      match r0.2 with
      | .error a => (r0.1, .error (bad 2 noUnit (32 * as.idxOf a)))
      | .ok hb =>
        let h := headerOf hb
        if h.magic ≠ 0x4C4D5049 ∨ h.len ≠ len then (r0.1, .error (bad 1 noUnit 0))
        else
          let r := r0.1.coxRead (as.drop 8)
          match r.2 with
          | .error a => (r.1, .error (bad 2 noUnit (32 * as.idxOf a)))
          | .ok rest =>
            let b := hb ++ rest
            let q := r.1.poolBytes
            let v := q.1.judge b h len q.2
            (match v with | .error e => q.1.readTables b h e | .ok _ => q.1, v)

/-! ### The outcome (R149, R152) -/

/-- 6005h reports a violation. -/
def State.reportBad (s : State) (v : Bad) : State := s.loadResult v.code v.unit v.index v.stroke v.ac

/-- Programs go into the stores (R73); their words are fresh. -/
def State.fillStores (s : State) (progs : List (Nat × List OpWord)) : State :=
  let put := fun (s : State) (p : Nat × List OpWord) =>
    match unitOfUid p.1 with
    | some (.core c) => { s with opStores := tblPut s.opStores c.num p.2 }
    | some (.router r) => { s with routeStores := tblPut s.routeStores r.num p.2 }
    | none => s
  progs.foldl put { s with opStores := [], routeStores := [], ecc := s.ecc.filter fun e => decide (e.1 < 2 ^ 52) }

/-- A crew as a load leaves it (R259): preambles of the same crew that the link engine has counted or holds
stay, as Table 8.11 needs (R271; log 32). -/
def State.loadCrew (s : State) (old : Tbl CrewRun) (d : Nat × CrewDef) : State :=
  let digest := s.crewDigest d.1
  let fresh : CrewRun :=
    { defn := d.2, started := false, step := 0, counted := [], complete := false, held := [], nodes := [],
      sealSent := false, sealed := none, carries := [] }
  let r := match tblFind old d.1 with
    | some o =>
      if s.dom (0x7010 + d.1) 5 = digest then { fresh with step := o.step, counted := o.counted, held := o.held } else fresh
    | none => fresh
  ((s.setCrew d.1 r).setDom (0x7010 + d.1) 5 digest).crewReg d.1 6 1

def State.loadCrews (s : State) (defs : List (Nat × CrewDef)) : State :=
  let s2 := defs.foldl (fun (a : State) d => a.loadCrew s.crews d) s.dropCrews
  let s3 := s2.setRegN 0x7010 4 defs.length
  s3.setRegN 0x3040 5 (s3.levelCrew.getD 0)

/-- A load clears the damage lists, whatever it finds (R324). -/
def State.clearDamage (s : State) : State := (s.zeroRegs 0x7302 [1, 3]).setDom 0x7302 2 []

/-- The state table of an accepted image (R305). -/
def State.loadState (s : State) (t : StateTab) : State := ({ s with stateTab := t } : State).readStateTable

/-- An image is accepted. -/
def State.acceptLoad (s : State) (l : Loaded) : State :=
  let s1 := (((s.fillStores l.progs).loadCrews l.defs).loadPool l.pool).loadState l.tab
  let s2 := { s1 with image := some l.image, loading := .none,
                      umpire := { Umpire.idle with mailboxes := s1.umpire.mailboxes, moved := l.moved } }
  (((s2.loadResult 0 noUnit 0 0 0).transition .loaded (some 0x03)).followIdle).showThermalLevel

/-- An image is refused: the module is in READY. -/
def State.refuseLoad (s : State) (v : Bad) : State :=
  let s1 := ({ s.dropCrews with loading := .none } : State).reportBad v
  (if s1.st = .loaded then s1.transition .ready (some 0x04) else s1).followIdle

/-- No program is loaded (R149, R399). -/
def State.discardImage (s : State) : State :=
  let s := s.freeAllPages
  let s1 := { s with image := none, opStores := [], routeStores := [], stateTab := { tensors := [], bands := [] },
                     ecc := s.ecc.filter fun e => decide (e.1 < 2 ^ 52) }
  (s1.followIdle).showThermalLevel

/-- LOAD_END. -/
def State.loadEnd (s : State) : State :=
  if s.loading ≠ .load then s
  else
    let r := s.checkImage
    match r.2 with
    | .ok l => r.1.clearDamage.acceptLoad l
    | .error v => r.1.clearDamage.refuseLoad v

def execLoadEnd (t : Time) (s : State) : Host.Outcome State Fault Refusal := .next (s.advance t).loadEnd

/-- A load starts (R149). The crews stay with the link engine until the load ends (log 32). -/
def State.loadStart (s : State) : State := ({ s.discardImage with loading := .load } : State).setRegN 0x6005 1 0xFF

end Sys2Proof.Machine
end

