-- ==== Sys2Proof/Machine/Start.lean ====
section
/-! DEFINITION. The start of a program (04 R131, R142, R145, R151, R154; 02 R68; 03 R69, R105; 05 R219; 07 R258,
R268, R271, R297; 08 R319, R326, R327; 09 R337, R343, R370; 10 R397), and the shift repair (04 R163, R166-R168,
Table 4.13; 07 R298). -/

namespace Sys2Proof.Machine

/-! ### PROGRAM_START (R397) -/

/-- A port at a program start: one of a dimension of size 1 is not used (R342, log 67), one listed down, or not used till
now, trains, and a MISWIRED mark ends (R337, R343). A dead port stays dead. -/
def State.startPort (s : State) (i : Nat) : State :=
  let k := s.linkState i
  if k = 4 then s
  else if i < 24 ∧ !s.portUsed i then s.setLink i 6
  else if k = 0 ∨ k = 6 then s.setLink i 1
  else if k = 5 then s.setLink i 2
  else s

def State.startPorts (s : State) : State := ((List.range 30).foldl (fun (s : State) i => s.startPort i) s).setRegN 0x7200 4 0

/-- Every used Amrax-L port sends its LINK_ID: at once when it is up, else as soon as it is (R343). -/
def State.sendLinkIds (s : State) : State :=
  ((List.range 24).filter s.portUsed).foldl (fun (s : State) i =>
    let s1 := s.setPort i { s.port i with idDue := true }
    if s1.linkState i = 2 then s1.linkIdDue i else s1) s

/-- The write is accepted: the checks of R154 begin, and the boundary of program stroke 0 is fixed (R131). -/
def State.startAccepted (s : State) : State :=
  let s1 := ((s.startPorts).sendLinkIds).setRegN 0x6005 1 0xFF
  { s1 with loading := .start, umpire := { s1.umpire with zeroAc := (acNow s1.clk / 1024 + 16) * 1024 } }

/-! ### START_CHECK_END (R154) -/

/-- A counter .07 to .0C of a crew. -/
def crewCounter (k : Nat) : Bool :=
  decide (0x7010 < k / 256) && decide (k / 256 < 0x7110) && decide (7 ≤ k % 256) && decide (k % 256 ≤ 12)

/-- The counters .07 to .0C of every crew are zero (R258): none is listed. -/
def State.zeroCrewCounters (s : State) : State := { s with regs := s.regs.filter fun e => !crewCounter e.1 }

/-- Objects that a start sets to zero (R397). -/
def State.zeroAtStart (s : State) : State :=
  let s1 := ((((((s.zeroRegs 0x5200 (span 1 5)).zeroRegs 0x5210 (span 1 7)).zeroRegs 0x6006 (span 1 4)).zeroRegs 0x6011
    (span 1 3)).zeroRegs 0x5230 (span 1 3)).zeroRegs 0x6003 (span 1 3)).zeroRegs 0x6023 [2]
  s1.zeroCrewCounters

/-- The program starts: RUNNING, with stroke 0 to come. -/
def State.startProgram (s : State) : State :=
  let s1 := ((s.zeroAtStart).bumpReg 0x6001 2 1).transition .running (some 0x05)
  { s1 with
    loading := .none
    halting := []
    gathered := Gathered.zero
    latestSeal := none
    pages := s1.pages.noCall
    startStep := BitVec.ofNat 32 (s1.regN 0x7010 3 + 2 ^ 32 - 1)
    power := { s1.power with kHist := [], dropSeen := false, raiseSince := none }
    crews := s1.crews.map fun e => (e.1, { e.2 with carries := [] })
    umpire := { Umpire.idle with startPending := true, zeroAc := s1.umpire.zeroAc, moved := s1.umpire.moved } }

/-- Checks 0x04, 0x05 and 0x0E against the present floor plan, budgets and level. -/
def State.startBads (s : State) (im : Image) : List Bad :=
  badIf ((s.floorCheck im.floorGen.toNat im.floorDigest.toNat im.reserve).isNone) (bad 4 noUnit 0) ++
    s.deadBads im.programs ++ s.useBads (s.programUnits.map fun u => (unitUid u, s.store u)) ++ s.thermalBads im.ledger

def State.startCheckEnd (s : State) : State :=
  match s.loading, s.image with
  | .start, some im =>
    match firstFailing (s.startBads im) with
    | some v => ({ s with loading := .none } : State).reportBad v
    | none => (s.loadResult 0 noUnit 0 0 0).startProgram
  | _, _ => s

def execStartCheckEnd (t : Time) (s : State) : Host.Outcome State Fault Refusal := .next (s.advance t).startCheckEnd

/-! ### PROGRAM_STROKE_ZERO (R131) -/

/-- The work of vaults whose commands run on. -/
def State.vaultWork (s : State) : Tbl CoreState :=
  (s.cores.map fun e => (e.1, e.2.vaultOnly)).filter fun e => e.2 ≠ CoreState.start

/-- Cores and routers as R69 and R118 leave them; no vault controller has a transfer left; the fault
generators are seeded (R370). -/
def State.freshUnits (s : State) : State :=
  let s1 := { s with cores := s.vaultWork, routers := [], flits := [], wells := [], openUsed := s.heldCredits,
                     vaults := s.vaults.map fun e => (e.1, { e.2 with bankUse := [], chanUse := [] })
                     nb := s.nb.map fun e => (e.1, { e.2 with queued := [] }) }
  (List.range 31).foldl (fun (s : State) i => s.setPort i { s.port i with rng := fiSeed (s.regN 0x7400 2) i }) s1

/-- Program stroke 0: the deadline runs, crews send their preambles, and an update-only image sees the retained
seal. -/
def State.strokeZero (s : State) : State :=
  if s.st ≠ .running ∨ !s.umpire.startPending then s
  else
    let s1 := ((s.advanceAc s.umpire.zeroAc).catchUpAll s.umpire.zeroAc).freshUnits.nbOrigin 0 s.umpire.zeroAc
    let u := s1.umpire
    let s2 := s1.setUmpire { u with startPending := false, begun := true, held := 0, stroke := 0,
                                    nextB := u.zeroAc + 1024, deadlineBase := s1.clk.now }
    let ids := s2.crews.map Prod.fst
    ids.foldl (fun (s : State) c => s.retainedSeal c) (ids.foldl (fun (s : State) c => s.startCrew c) s2)

def execProgramStrokeZero (s : State) : Host.Outcome State Fault Refusal := .next s.strokeZero

/-! ### The shift repair (Table 4.13) -/

/-- Number of the vault that holds an address. -/
def vaultOf (a : Nat) : Option Nat :=
  match placeOf a with
  | some (.vault c _ _) => some c.num
  | _ => none

/-- A table keyed by addresses over `unit` after the contents of the vaults at positions `mv` have gone one
place east: a vault that takes contents loses its own. -/
def movedCells {α : Type} (mv : List Nat) (unit : Nat) (t : Tbl α) : Tbl α :=
  let holder := fun k => (vaultOf (k * unit)).getD 20000
  let stay := t.filter fun e => !((mv.map (· + 3)).contains (holder e.1))
  (t.filter fun e => mv.contains (holder e.1)).foldl (fun u e => tblPut u (e.1 + 2 ^ 43 / unit) e.2) stay

/-- A check state of a core's store (R73) whose words the move writes anew, or takes away. -/
def movedStore (mv : List Nat) (k : Nat) : Bool :=
  decide (2 ^ 52 ≤ k) && decide (k < 2 ^ 53) &&
    (mv ++ mv.map (· + 3)).contains ((k - 2 ^ 52) / 32768)

/-- An open flit that waits in a port engine, aimed at its destination's new vault. -/
def movedFlit (mv : List Nat) (f : MeshFlit) : MeshFlit :=
  match f.words with
  | h :: t =>
    { f with words := openHeader (movedAddr mv (openDest h)) (openN h) (openLast h) (openMb h) :: t }
  | [] => f

/-- Vault contents, programs, tables and queues move one place east (R163). -/
def State.moveWork (s : State) (mv : List Nat) : State :=
  { s with
    mem := movedCells mv 1 s.mem
    ecc := movedCells mv 32 (s.ecc.filter fun e => !movedStore mv e.1)
    stamps := movedCells mv 32 s.stamps
    opStores := movedTbl mv s.opStores
    image := s.image.map (Image.shift mv)
    crews := s.crews.map fun e => (e.1, { e.2 with defn := e.2.defn.shift mv })
    stateTab := s.stateTab.shift mv
    pages := { s.pages with pool := s.pages.pool.map (Pool.shift mv)
                            waiting := s.pages.waiting.map fun w => (movedAddr mv w.1, w.2) }
    openQ := s.openQ.map fun e => (e.1, e.2.map (movedFlit mv))
    umpire := { s.umpire with
      moved := s.umpire.moved ++ mv
      restart := s.umpire.restart.map fun r => { r with cores := r.cores.map fun c => (movedNum mv c.1, c.2) } } }

/-- The lost cores are dead and their segments' reserves spent: one new floor plan (Table 4.13 steps 3, 6). -/
def State.recordRepair (s : State) (im : Image) (lost : List (CoreId × Nat)) : State :=
  let gen := s.plan.gen.toNat + 1
  let p := lost.foldl (fun (p : Plan) l =>
    let q := p.loseCore l.1 l.2
    { q with shifts := q.shifts ++ [shiftRecord l.1 (im.segEnd l.1) 1 gen] }) s.work
  (s.setWork p).publish

/-- An issue state of the restart point in schedule stroke `stroke` of the point, moved d strokes on. -/
def Issue.later (i : Issue) (d : Nat) : Issue :=
  { i with stroke := i.stroke + d, reached := i.reached + 1024 * d, doneAt := i.doneAt + 1024 * d,
           stakeStroke := i.stakeStroke + d, stopped := false, outcome := 0,
           frames := i.frames.map fun f => { f with base := f.base + d }
           unitBusy := i.unitBusy.map fun e => (e.1, e.2 + 1024 * d) }

/-- Units as the restart point has them, at the next schedule stroke: registers, accumulators and queues as in
R69, address registers as recorded (R143). Before the first release that point is the program's start. -/
def State.restartUnits (s : State) : State :=
  let next := s.umpire.stroke + 1
  let s0 := { s with cores := [], routers := [] }
  match s.umpire.restart with
  | none =>
    let s1 := s.opStores.foldl (fun (s : State) e =>
      s.setCore (coreOfNum e.1) { CoreState.start with iss := Issue.start.later next }) s0
    s.routeStores.foldl (fun (s : State) e =>
      s.setRouter (colOfNum e.1) { RouterState.start with iss := Issue.start.later next }) s1
  | some r =>
    let d := next - r.stroke
    let s1 := r.cores.foldl (fun (s : State) c =>
      s.setCore (coreOfNum c.1) { CoreState.start with iss := c.2.1.later d, aregs := c.2.2 }) s0
    r.routers.foldl (fun (s : State) c =>
      s.setRouter (colOfNum c.1) { RouterState.start with iss := c.2.later d }) s1

/-- Arrivals of the units that wait at the restart point. -/
def State.restartArrivals (s : State) : List (Nat × Nat × Nat) :=
  s.programUnits.filterMap fun u => ((s.issue u).waiting).map fun r => (r, unitUid u, (s.umpire.stroke + 1) * 1024)

/-- The step runs again from the next boundary (Table 4.13 step 7, R168). -/
def State.resumeStep (s : State) : State :=
  let s1 := (s.restartUnits).bumpReg 0x6003 3 1
  let u := s1.umpire
  s1.setUmpire { u with repair := none, evaluated := true, timers := [], due := [],
                         arrivals := s1.restartArrivals, deadlineBase := wallOfAc s1.clk u.nextB }

/-- SHIFT_REPAIR_RESUME: `alive` when a core tested is alive, `laneReads` when the lost vaults can be read. -/
def State.repairEnd (s : State) (alive laneReads : Bool) : State :=
  match s.umpire.repair, s.image with
  | some r, some im =>
    if s.st ≠ .running then s
    else if alive then s.leaveRunning .held 0x0C
    else if !laneReads then
      (r.lost.foldl (fun (s : State) p => s.setWork (s.work.loseCore p.1 p.2)) s).leaveRunning .held 0x0C
    else
      let mv := r.lost.flatMap fun p => movedBy p.1 (im.segEnd p.1)
      let s1 := ((s.catchUpAll (2 ^ 64)).moveWork mv).recordRepair im r.lost
      if (s1.ledgerFails im.ledger s1.umpire.moved s1.clk.level).isSome then s1.leaveRunning .held 0x0C
      else s1.resumeStep
  | _, _ => s

def execShiftRepairResume (t : Time) (alive laneReads : Bool) (s : State) : Host.Outcome State Fault Refusal :=
  .next ((s.advance t).repairEnd alive laneReads)

end Sys2Proof.Machine
end

