-- ==== Sys2Proof/Machine/DictRead.lean ====
section
/-! DEFINITION. Reads of the object dictionary (10 R373-R392, R395, R396, R548). -/

namespace Sys2Proof.Machine

/-! ### Values that are computed at the read -/

/-- Modified EUI-64 link-local address of a MAC address (R378): bytes in order. -/
def linkLocal (mac : List Byte) : List Byte :=
  [0xFE, 0x80] ++ List.replicate 6 0 ++
    (mac.zipIdx.flatMap fun p => if p.2 = 0 then [p.1 ^^^ 2] else if p.2 = 2 then [p.1, 0xFF, 0xFE] else [p.1])

/-- Bytes of the MAC address in transmission order. -/
def macBytes : List Byte := (leBytes 6 Config.macAddr.toNat).reverse

/-- "LM12-W36A", zero-padded. -/
def orderingCode : List Byte :=
  [0x4C, 0x4D, 0x31, 0x32, 0x2D, 0x57, 0x33, 0x36, 0x41] ++ List.replicate 7 0

/-- Region power entries (Table 12.10). -/
def State.regionData (s : State) : List Byte :=
  (List.range 360).flatMap fun w =>
    let lost := fun d => tblGet 0 s.supply.phases (4 * w + d)
    let st := tblGet 0 s.supply.region w
    let v := (8 - lost 0) + 16 * (8 - lost 1) + 256 * (8 - lost 2) + 4096 * (8 - lost 3)
    let code := if st ≠ 0 then st else if lost 0 + lost 1 + lost 2 + lost 3 > 0 then 1 else 0
    leBytes 4 (v + 65536 * code)

/-- Bricks in service (3050h.02): the n lowest bits of byte s; bit 3 of byte 0 is the housekeeping brick. -/
def State.brickBytes (s : State) : List Byte :=
  (List.range 12).map fun k =>
    BitVec.ofNat 8 (2 ^ (3 - tblGet 0 s.supply.bricks k) - 1 + (if k = 0 then 8 else 0))

/-- Trims of the regions (I8, mV). -/
def State.trimBytes (s : State) : List Byte :=
  (List.range 360).map fun w => BitVec.ofInt 8 (((tblGet (128 : Nat) s.supply.trim w : Nat) : Int) - 128)

/-- The sensor whose reading is a layer's temperature in use; none when the estimate is. -/
def HeatState.chosen (h : HeatState) (w l : Nat) : Option Nat :=
  let k := sensorId w (layerSensor l)
  let byEst := match h.bySensors w l with
    | none => true
    | some t => (h.layer w l).suspect && decide ((h.layer w l).est > t)
  if byEst then none
  else if !computeLayer l then some k
  else
    match h.good k, h.good (k + 1) with
    | some a, some b => some (if a ≥ b then k else k + 1)
    | some _, none => some k
    | none, some _ => some (k + 1)
    | none, none => some (k + 2)

/-- A sensor entry (Table 11.9). -/
def HeatState.sensorEntry (h : HeatState) (id : Nat) : List Byte :=
  let r := h.sensor id
  let w := id / 13
  let l := sensorLayer (id % 13)
  let y := h.layer w l
  let st := if r.failed then 3 else if y.suspect then 2 else if r.disagree then 1 else 0
  let use := if h.chosen w l = some id then 4 else 0
  leBytes 2 (if r.failed then 0x8000 else unsignedOf 16 (r.last.getD 0)) ++ leBytes 2 (st + use) ++
    leBytes 2 (unsignedOf 16 y.est) ++ leBytes 2 (unsignedOf 16 y.pred)

def State.sensorData (s : State) : List Byte :=
  leBytes 8 s.heat.samples ++ List.replicate 24 0 ++ (List.range 4680).flatMap s.heat.sensorEntry

/-- 4030h.01: header of Table 11.3 and the budgets in force. -/
def State.budgetData (s : State) : List Byte :=
  leBytes 8 s.heat.gen ++ leBytes 1 s.heat.cause ++ leBytes 1 0 ++
    ((List.range 7).flatMap fun l => leBytes 2 (Config.layerShare l)) ++ List.replicate 8 0 ++
    (levels5.flatMap fun lv => (List.range 4320).flatMap fun n => (List.range 7).flatMap fun l => leBytes 2 (s.budget lv n l))

/-- Milliseconds until the token lapses. -/
def State.tokenLeft (s : State) : Nat :=
  match s.sec.token with
  | some t => (t.1 - s.clk.now) / msUnits
  | none => 0

/-- 7200h.03: the coordinates of this module. -/
def State.ownCoord (s : State) : Nat :=
  let c := s.coord s.jobRank
  c.getD 0 0 + 16 * c.getD 1 0 + 256 * c.getD 2 0

/-- Subindices that read from elsewhere than the register table. -/
def State.liveValue (s : State) (idx sub : Nat) : Option (List Byte) :=
  match idx, sub with
  | 0x1000, 2 => some orderingCode
  | 0x1000, 3 => some (leBytes 8 Config.serial.toNat)
  | 0x1000, 4 => some (leBytes 2 Config.hwIssue.toNat)
  | 0x1000, 5 => some (leBytes 4 (s.sec.slotImage s.sec.booted).version.toNat)
  | 0x1001, 1 => some (leBytes 1 (modCode s.st))
  | 0x1001, 5 => some (leBytes 8 s.uptimeMs)
  | 0x1020, 4 => some macBytes
  | 0x1020, 5 => some (linkLocal macBytes)
  | 0x2010, 0 => some s.plan.bytes
  | 0x3050, 1 => some s.regionData
  | 0x3050, 2 => some s.brickBytes
  | 0x3060, 1 => some s.trimBytes
  | 0x4010, 1 => some s.sensorData
  | 0x4020, 4 => some (leBytes 1 (if s.pins.flowOk then 1 else 0))
  | 0x4030, 1 => some s.budgetData
  | 0x6022, 1 => some (leBytes 8 s.residentPages)
  | 0x6022, 2 => some (leBytes 8 s.spilledPages)
  | 0x6022, 3 => some (leBytes 8 s.pages.dir.length)
  | 0x7200, 3 => some (leBytes 2 s.ownCoord)
  | 0x7400, 1 => some (leBytes 1 (if s.fiActive then 1 else 0))
  | 0x8000, 1 => some (leBytes 1 s.sec.lc)
  | 0x8000, 6 => some (leBytes 1 s.sec.debugEntries)
  | 0x8000, 7 => some (leBytes 4 s.sec.secVersion.toNat)
  | 0x8000, 8 => some (leBytes 48 Config.rootDigest.toNat)
  | 0x8010, 5 => some (if s.sec.lc = 0 then [] else Config.certificates)
  | 0x8020, 4 => some (leBytes 4 s.tokenLeft)
  | _, _ => none

/-- Pad or cut a byte string to n bytes. -/
def fitBytes (n : Nat) (b : List Byte) : List Byte := (b ++ List.replicate (n - b.length) 0).take n

/-- The value of a subindex; a WO subindex reads zero (R390). -/
def State.value (s : State) (idx sub : Nat) (r : ObjRow) : List Byte :=
  match r.acc with
  | .wo => List.replicate r.size 0
  | _ =>
    match s.liveValue idx sub with
    | some v => v
    | none =>
      match r.kind with
      | .num => leBytes r.size (s.regN idx sub)
      | .str => fitBytes r.size (s.dom idx sub)
      | .dom => s.dom idx sub

/-! ### Requests -/

/-- What follows the response of a request (R393, R497). -/
inductive After where
  | nothing
  | reset
  | lifeCycle (v : Nat)
deriving DecidableEq, Repr

/-- The outcome of a request: the state, its abort code, its data, LAST, and what follows. -/
structure Served where
  st : State
  code : Nat
  data : List Byte
  last : Bool
  after : After

def State.refuse (s : State) (code : Nat) : Served := ⟨s, code, [], false, .nothing⟩
def State.accept (s : State) (data : List Byte) : Served := ⟨s, 0, data, false, .nothing⟩

/-- The dictionary answers (R376). -/
def State.dictHears (s : State) : Bool := s.hostHears && !s.coxDark

/-- Objects that SAFE_STOP still reads (R396). -/
def safeStopReads (idx : Nat) : Bool :=
  decide (0x1000 ≤ idx ∧ idx ≤ 0x1111) || decide (0x3000 ≤ idx ∧ idx ≤ 0x30FF) || decide (0x4000 ≤ idx ∧ idx ≤ 0x40FF)

/-- R396 for reads. -/
def State.readState (s : State) (idx : Nat) : Nat :=
  if s.st = .safeStop ∧ !safeStopReads idx then abState else abOk

/-- Number of a source: the mirror is 0, clients count from 1. -/
def srcNum : Source → Nat
  | .field c _ => c + 1
  | .mirror _ => 0

def srcCode : Source → Nat
  | .field _ _ => 0
  | .mirror _ => 1

def isField : Source → Bool
  | .field _ _ => true
  | .mirror _ => false

/-- Checks 1, 2 and 4 of a read. -/
def State.readCheck (s : State) (idx sub : Nat) : Except Nat ObjRow :=
  if objRows idx = [] then .error abNoObject
  else
    match objRow idx sub with
    | none => .error abNoSub
    | some r => if s.readState idx ≠ 0 then .error abState else .ok r

/-- READ. A field frame holds 1,024 bytes (R385). -/
def State.serveRead (s : State) (src : Source) (idx sub : Nat) : Served :=
  match s.readCheck idx sub with
  | .error c => s.refuse c
  | .ok r =>
    let v := s.value idx sub r
    if isField src ∧ v.length > 1024 then s.refuse abTooLarge else s.accept v

/-- The bytes of READ_ALL (Table 10.3, R548). -/
def State.allValues (s : State) (idx : Nat) : List Byte :=
  let rows := (objRows idx).zipIdx
  let pick := if rows.length = 1 then rows else rows.drop 1
  pick.flatMap fun p => if p.1.kind = .dom then [] else s.value idx p.2 p.1

def State.serveReadAll (s : State) (src : Source) (idx : Nat) : Served :=
  if objRows idx = [] then s.refuse abNoObject
  else if s.readState idx ≠ 0 then s.refuse abState
  else
    let v := s.allValues idx
    if isField src ∧ v.length > 1024 then s.refuse abTooLarge else s.accept v

/-! ### Segments of a read (R382, R385) -/

def State.setReads (s : State) (l : List SegRead) : State := { s with dict := { s.dict with reads := l } }

def SegRead.is (r : SegRead) (n idx sub : Nat) : Bool := decide (r.source = n ∧ r.idx = idx ∧ r.sub = sub)

/-- LEN bytes or fewer from OFFSET, at most 1,024. -/
def segOf (v : List Byte) (off len : Nat) : List Byte := (v.drop off).take (min len 1024)

def State.serveSegRead (s : State) (src : Source) (idx sub off len : Nat) : Served :=
  let n := srcNum src
  match s.readCheck idx sub with
  | .error c => s.refuse c
  | .ok r =>
    if r.kind ≠ .dom then s.refuse abLength
    else
      let v := s.value idx sub r
      let rest := s.dict.reads.filter fun q => !q.is n idx sub
      let give := fun (s : State) => (⟨s, 0, segOf v off len, decide (off + (segOf v off len).length ≥ v.length), .nothing⟩ : Served)
      if off = 0 then give (s.setReads (⟨n, idx, sub, v⟩ :: rest))
      else
        match s.dict.reads.find? fun q => q.is n idx sub with
        | none => give s
        | some q => if q.value ≠ v then (s.setReads rest).refuse abChanged else give s

/-! ### Answers -/

/-- Every abort is recorded in 1101h, and 0x0401 in 1102h too (R395). -/
def State.recordAbort (s : State) (src : Source) (idx sub code : Nat) : State :=
  if code = 0 then s
  else
    let s1 := ((((s.setRegN 0x1101 1 code).setRegN 0x1101 2 idx).setRegN 0x1101 3 sub).setRegN 0x1101 4 (srcCode src)).bumpReg
      0x1101 5 1
    if code = abState then s1.conflict idx sub (srcCode src) 0 else s1

/-- The response recorded for a client (R381): the 64 latest sources. -/
def State.recordReply (s : State) (c : Nat) (txn : BitVec 16) (r : Served) : State :=
  let l := s.dict.replies.filter fun q => q.client ≠ c
  { s with dict := { s.dict with replies :=
      (({ client := c, txn := txn, status := r.code, data := r.data, last := r.last } : Reply) :: l).take 64 } }

/-- Words of a mirror completion (R387). -/
def padWords (b : List Byte) : List Byte := fitBytes (32 * ceilDiv b.length 32) b

/-- Send the answer of an executed request; what follows it comes after. -/
def State.answer (src : Source) (r : Served) : State :=
  let s1 := match src with
    | .field c txn => (r.st.recordReply c txn r).send (.response src (BitVec.ofNat 16 r.code) r.data r.last)
    | .mirror tag => r.st.hostAnswer tag.toNat r.code (padWords r.data)
  match r.after with
  | .nothing => s1
  | .reset => s1.beginBringup (some 0x17)
  | .lifeCycle v => s1.lcTransition v

/-- Execute a request that has come (R373, R381): a repeat of a client's latest transaction is answered from
the record. -/
def State.serve (s : State) (src : Source) (idx sub : Nat) (exec : State → Served) : State :=
  if !s.dictHears then s
  else
    let run := fun (s : State) =>
      let r := exec s
      State.answer src { r with st := r.st.recordAbort src idx sub r.code }
    match src with
    | .mirror _ => run s
    | .field c txn =>
      let s1 := s.bumpReg 0x1020 7 1
      match s1.dict.replies.find? fun q => q.client = c ∧ q.txn = txn with
      | some q => s1.send (.response src (BitVec.ofNat 16 q.status) q.data q.last)
      | none => run s1

def execDictRead (t : Time) (src : Source) (idx : BitVec 16) (sub : BitVec 8) (s : State) :
    Host.Outcome State Fault Refusal :=
  .next ((s.advance t).serve src idx.toNat sub.toNat fun s => s.serveRead src idx.toNat sub.toNat)

def execDictReadAll (t : Time) (src : Source) (idx : BitVec 16) (s : State) : Host.Outcome State Fault Refusal :=
  .next ((s.advance t).serve src idx.toNat (if isField src then 0 else 0xFF) fun s => s.serveReadAll src idx.toNat)

def execSegRead (t : Time) (src : Source) (idx : BitVec 16) (sub : BitVec 8) (off : BitVec 32) (len : BitVec 16) (s : State) :
    Host.Outcome State Fault Refusal :=
  .next ((s.advance t).serve src idx.toNat sub.toNat fun s => s.serveSegRead src idx.toNat sub.toNat off.toNat len.toNat)

end Sys2Proof.Machine
end

