-- ==== Sys2Proof/Machine/DictWrite.lean ====
section
/-! DEFINITION. Writes of the object dictionary (10 R382-R384, R388, R390-R403) and what each write does. -/

namespace Sys2Proof.Machine

/-! ### Check 4: the module state (R390, R396) -/

def inStates (st : ModState) (l : List ModState) : Nat := if l.contains st then abOk else abState

def ifNot (b : Bool) (code : Nat) : Nat := if b then abOk else code

/-- R396 for writes. -/
def State.writeServed (s : State) (idx : Nat) : Nat :=
  match s.st with
  | .bringup => ifNot (decide (idx = 0x2001)) abState
  | .fault => ifNot (decide (idx = 0x1003 ∨ idx = 0x1110)) abState
  | .safeStop | .off => abState
  | .ready | .loaded | .running | .held => abOk

/-- The states of an access code (Table 0.3). -/
def accState (st : ModState) : Acc → Nat
  | .rl => inStates st [.ready, .loaded]
  | .rlh => inStates st [.ready, .loaded, .held]
  | .br => inStates st [.bringup]
  | _ => abOk

/-- The first code that is not OK. -/
def orElseCode (a b : Nat) : Nat := if a ≠ 0 then a else b

/-- What the rules of single objects ask of the state. -/
def State.ownState (s : State) (idx sub : Nat) : Nat :=
  if 0x7230 ≤ idx ∧ idx ≤ 0x723F then ifNot (decide (s.regN idx 5 ≠ 1)) abState
  else if 0x7410 ≤ idx ∧ idx ≤ 0x742E then ifNot s.fiAllowed abState
  else
    let idle := s.sec.install.isNone
    match idx, sub with
    | 0x1003, 1 => inStates s.st [.ready, .loaded, .held, .fault]
    | 0x2001, 1 => ifNot (!s.boot.running && decide (s.regN 0x2001 3 ≠ 0xFF)) abState
    | 0x2001, 2 => ifNot s.boot.held abState
    | 0x6000, 3 => orElseCode (ifNot (decide (s.loading = .none)) abState) (ifNot (decide (s.sec.lc ≠ 4)) abAuth)
    | 0x6001, 1 => orElseCode (inStates s.st [.loaded]) (ifNot (decide (s.loading = .none)) abState)
    | 0x6021, 1 => inStates s.st [.ready, .loaded]
    | 0x6021, 3 => ifNot s.image.isSome abState
    | 0x7301, 3 =>
      orElseCode (inStates s.st [.loaded, .running]) (ifNot (!(([1, 2, 3] : List Nat).contains s.snapStatus)) abState)
    | 0x7400, _ => ifNot s.fiAllowed abState
    | 0x8000, 2 => orElseCode (inStates s.st [.ready, .loaded, .held]) (ifNot idle abState)
    | 0x8000, 11 =>
      orElseCode (inStates s.st [.ready, .loaded, .held]) (orElseCode (ifNot idle abState) (ifNot (decide (s.sec.lc ≠ 4)) abAuth))
    | 0x8000, _ => ifNot idle abState
    | 0x8010, 2 =>
      orElseCode (inStates s.st [.ready, .loaded, .running, .held]) (ifNot (decide (s.regN 0x8010 3 ≠ 1)) abState)
    | _, _ => abOk

/-- Checks 1 to 4 of a write (R390). -/
def State.writeCheck (s : State) (idx sub : Nat) : Except Nat ObjRow :=
  if objRows idx = [] then .error abNoObject
  else
    match objRow idx sub with
    | none => .error abNoSub
    | some r =>
      if r.acc = .ro then .error abReadOnly
      else
        let c := orElseCode (s.writeServed idx) (orElseCode (accState s.st r.acc) (s.ownState idx sub))
        if c ≠ 0 then .error c else .ok r

/-! ### Checks 6 and 7, and the effect -/

/-- Store a value. -/
def State.keep (s : State) (idx sub v : Nat) : Served := (s.setRegN idx sub v).accept []

/-- Store a value in its range, else the code. -/
def State.keepIf (s : State) (idx sub v : Nat) (ok : Bool) (code : Nat) : Served :=
  if ok then s.keep idx sub v else s.refuse code

/-- A command whose only value is 1. -/
def State.ifOne (s : State) (v : Nat) (f : State → State) : Served :=
  if v = 1 then (f s).accept [] else s.refuse abInvalid

/-- Events that hardware sets in one cycle (R6, R394). -/
def State.events (s : State) (m : Nat) : State :=
  (List.range 16).foldl (fun (s : State) k => if m.testBit k then s.event k else s) s

/-- EVENT_FLAGS: bits written with 1 are cleared, but those that hardware sets in the same cycle (R6). -/
def State.clearFlags (s : State) (m setNow : Nat) : State :=
  s.setReg 0x1110 0 ((s.reg 0x1110 0 &&& ~~~ (BitVec.ofNat 64 m)) ||| (s.reg 0x1110 0 &&& BitVec.ofNat 64 setNow))

def State.writeFlags (s : State) (v setNow : Nat) : Served :=
  if v / 2 ^ 16 ≠ 0 then s.refuse abInvalid else (s.clearFlags v setNow).accept []

/-- COMMAND of 6002h.01 (R399). -/
def State.control (s : State) (v : Nat) : Served :=
  match v with
  | 1 => if s.st = .running then (s.haltSoon 0x0B).accept [] else s.refuse abState
  | 2 => if s.st = .held then (s.transition .loaded (some 0x10)).accept [] else s.refuse abState
  | 3 =>
    if s.st = .loaded ∨ s.st = .held then
      let s1 := if s.loading = .start then s.abandonLoad else s
      ((s1.transition .ready (some 0x11)).dropCrews.discardImage).accept []
    else s.refuse abState
  | _ => s.refuse abInvalid

/-- RESET (R393): the bring-up follows the response. -/
def State.resetWrite (s : State) (v : Nat) : Served :=
  if v = 0x5A5A then { s.accept [] with after := .reset } else s.refuse abInvalid

/-- LC_REQUEST (R496, R497). -/
def State.lcWrite (s : State) (v : Nat) : Served :=
  let r := s.lcRequest v
  if r.2 = 0 then { r.1.accept [] with after := .lifeCycle v } else r.1.refuse r.2

/-- RUN_STAGE (R465). -/
def State.stageWrite (s : State) (v : Nat) : Served :=
  if v = s.regN 0x2001 3 then (s.runStage v).accept [] else s.refuse abRange

/-- COPY_CHOICE (R465, R473). -/
def State.choiceWrite (s : State) (v : Nat) : Served :=
  if v > 2 then s.refuse abRange
  else
    match s.cfg.copies[v]? with
    | some c => if c.validity = 0 then (s.chooseCopy v).accept [] else s.refuse abInvalid
    | none => s.refuse abInvalid

/-- CONTROL of a copy channel (Table 9.9, R365). -/
def State.copyWrite (s : State) (ch v : Nat) : Served :=
  if v / 8 ≠ 0 then s.refuse abInvalid
  else if v % 2 = 0 then s.accept []
  else if s.regN (copyObj ch) 3 = 0 ∨ !s.copyFits (s.regN (copyObj ch) 2) (s.regN (copyObj ch) 3 / 32) then s.refuse abRange
  else (s.copyStart ch (decide (v / 2 % 2 = 1)) (decide (v / 4 = 1))).accept []

/-- SNAP_ARM (R320). -/
def State.armWrite (s : State) (v : Nat) : Served :=
  if v ≠ 1 then s.refuse abInvalid
  else if s.regN 0x7301 2 ≠ 0xFFFFFFFF ∧ s.stepSealed (s.regN 0x7301 2) then s.refuse abRange
  else s.snapArm.accept []

def State.installStart (s : State) : State :=
  s.setSec { s.sec with install := some (s.regN 0x8000 9, s.regN 0x8000 10) }

/-- Write of a numeric subindex of 1000h to 5FFFh. -/
def State.writeLow (s : State) (idx sub v : Nat) : Served :=
  match idx, sub with
  | 0x1003, 1 => s.resetWrite v
  | 0x1020, 2 => s.keepIf idx sub v (decide (1 ≤ v ∧ v ≤ 32)) abRange
  | 0x1020, 3 => s.keepIf idx sub v (decide (32 ≤ v)) abRange
  | 0x1110, 0 => s.writeFlags v 0
  | 0x2000, 0 => s.keepIf idx sub v (decide (v ≤ 1)) abInvalid
  | 0x2001, 1 => s.stageWrite v
  | 0x2001, 2 => s.choiceWrite v
  | 0x3030, 1 => s.keepIf idx sub v (decide (6000 ≤ v ∧ v ≤ 22000) && decide (s.regN 0x3030 3 ≤ v)) abRange
  | 0x3030, 2 => s.keepIf idx sub v (decide (1 ≤ v ∧ v ≤ 30)) abRange
  | 0x3030, 3 => s.keepIf idx sub v (decide (v ≤ s.regN 0x3030 1)) abRange
  | 0x3041, 0 => if v ≤ 1 then (s.setRegN idx sub v).followIdle.accept [] else s.refuse abInvalid
  | 0x5221, 1 => s.keepIf idx sub v (decide (1 ≤ v ∧ v ≤ 168)) abRange
  | _, _ => s.keep idx sub v

/-- Write of a numeric subindex of 6000h to 6FFFh. -/
def State.writeProgram (s : State) (idx sub v : Nat) : Served :=
  match idx, sub with
  | 0x6000, 1 => s.keepIf idx sub v (decide (v < 2 ^ 56)) abInvalid
  | 0x6000, 3 => s.ifOne v State.loadStart
  | 0x6001, 1 => s.ifOne v State.startAccepted
  | 0x6002, 1 => s.control v
  | 0x6010, 1 => s.keepIf idx sub v (decide (v % 32 = 0 ∧ v ≤ 32800)) abRange
  | 0x6020, 1 => s.keepIf idx sub v (decide (v < 2 ^ 56)) abInvalid
  | 0x6021, 2 => (if v = 0 then s.clearDir else s).keepIf idx sub v (decide (v ≤ 1)) abInvalid
  | 0x6021, 3 => (s.prefetchSeq v).accept []
  | 0x6023, 1 => s.keepIf idx sub v (decide (v < 2 ^ 56)) abInvalid
  | _, _ => s.keep idx sub v

/-- Write of a numeric subindex of 7000h to 7FFFh outside the ranges of objects. -/
def State.writeCrew (s : State) (idx sub v : Nat) : Served :=
  match idx, sub with
  | 0x7010, 1 => s.keepIf idx sub v (decide (v ≤ 4095)) abRange
  | 0x7010, 2 => s.keepIf idx sub v (decide (1 ≤ v ∧ v ≤ 4096)) abRange
  | 0x7200, 1 => s.keepIf idx sub v (decide (v < 4096)) abInvalid
  | 0x7200, 2 => s.keepIf idx sub v (decide (v ≤ 1)) abInvalid
  | 0x7300, 1 => s.keepIf idx sub v (decide (v % 32 = 0 ∧ v ≤ 1048576)) abRange
  | 0x7301, 1 => s.keepIf idx sub v (decide (v ≤ 1)) abInvalid
  | 0x7301, 3 => s.armWrite v
  | 0x7301, 4 => s.ifOne v State.snapRelease
  | 0x7400, 3 => s.ifOne v State.fiZero
  | _, _ => s.keep idx sub v

/-- Write of a numeric subindex of 8000h to 8FFFh. -/
def State.writeSecurity (s : State) (idx sub v : Nat) : Served :=
  match idx, sub with
  | 0x8000, 2 => s.lcWrite v
  | 0x8000, 4 => s.keepIf idx sub v (decide (193 ≤ v ∧ v ≤ 2240)) abRange
  | 0x8000, 9 => s.keepIf idx sub v (decide (v % 32 = 0)) abRange
  | 0x8000, 10 => s.keepIf idx sub v (decide (v % 32 = 0)) abRange
  | 0x8000, 11 => s.ifOne v State.installStart
  | 0x8010, 2 => s.ifOne v State.attRequest
  | 0x8020, 1 => s.keepIf idx sub v (decide (193 ≤ v ∧ v ≤ 2240)) abRange
  | 0x8020, 5 => s.ifOne v State.lapseToken
  | _, _ => s.keep idx sub v

/-- Write of a numeric subindex. -/
def State.writeNum (s : State) (idx sub v : Nat) : Served :=
  if 0x7011 ≤ idx ∧ idx ≤ 0x710F then s.keepIf idx sub v (decide (v ≤ 1048576)) abRange
  else if 0x7230 ≤ idx ∧ idx ≤ 0x723F then
    if sub = 4 then s.copyWrite (idx - 0x7230) v
    else if sub = 2 then s.keepIf idx sub v (decide (v < 2 ^ 56)) abInvalid
    else if sub = 3 then s.keepIf idx sub v (decide (v % 32 = 0 ∧ 32 ≤ v ∧ v ≤ 2 ^ 40)) abRange
    else s.keep idx sub v
  else if 0x7410 ≤ idx ∧ idx ≤ 0x742E then s.keepIf idx sub v (decide (sub ≠ 4 ∨ v ≤ 1)) abInvalid
  else
    match idx / 0x1000 with
    | 6 => s.writeProgram idx sub v
    | 7 => s.writeCrew idx sub v
    | 8 => s.writeSecurity idx sub v
    | _ => s.writeLow idx sub v

/-- Write of a byte string of fixed length. -/
def State.writeStr (s : State) (idx sub : Nat) (b : List Byte) : Served :=
  if idx = 0x6021 then (s.writeKey b).accept []
  else if 0x7428 ≤ idx ∧ leNat b ≠ 0 ∧ idx ≤ 0x742E then s.refuse abInvalid
  else (s.setDom idx sub b).accept []

/-- Commit of a DOMAIN: its length is the preceding subindex's (R382); records are checked (R499). The fields of the tables
that a load reads are the loader's to check, under 0x06 (00 R5; 05 R218, 07 R262, 08 R306; DEDUCED, log 41). -/
def State.commitDom (s : State) (idx sub : Nat) (b : List Byte) : Served :=
  if b.length ≠ s.regN idx (sub - 1) then s.refuse abLength
  else if idx = 0x8000 then
    let r := s.authCommit b
    if r.2 = 0 then r.1.accept [] else r.1.refuse r.2
  else if idx = 0x8020 then
    let r := s.tokenCommit b
    if r.2 = 0 then r.1.accept [] else r.1.refuse r.2
  else (s.setDom idx sub b).accept []

/-- A value of the type's length takes effect (checks 5 to 7). -/
def State.writeValue (s : State) (idx sub : Nat) (r : ObjRow) (b : List Byte) : Served :=
  match r.kind with
  | .dom => s.commitDom idx sub b
  | .num => if b.length ≠ r.size then s.refuse abLength else s.writeNum idx sub (leNat b)
  | .str => if b.length ≠ r.size then s.refuse abLength else s.writeStr idx sub b

/-- A record in 8000h.05 is consumed by any write to 8000h.02 (R499). -/
def State.consumeAuth (s : State) (idx sub : Nat) : State :=
  if idx = 0x8000 ∧ sub = 2 then s.setSec { s.sec with authKind := none } else s

/-- WRITE of a whole value. -/
def State.serveWrite (s : State) (idx sub : Nat) (b : List Byte) : Served :=
  let w := match s.writeCheck idx sub with
    | .error c => s.refuse c
    | .ok r => s.writeValue idx sub r b
  { w with st := w.st.consumeAuth idx sub }

/-! ### Segments of a write (R382-R384, R388) -/

def State.setWrites (s : State) (l : List SegWrite) : State := { s with dict := { s.dict with writes := l } }

def SegWrite.is (w : SegWrite) (n idx sub : Nat) : Bool := decide (w.source = n ∧ w.idx = idx ∧ w.sub = sub)

def gapLimit : Nat := 50 * msUnits

/-- Time has run out for the next segment. -/
def State.segLate (s : State) (w : SegWrite) : Bool := w.expired || decide (s.clk.now > w.last + gapLimit)

/-- An opening segment beyond four transfers, or on a subindex that another source has open (R384). -/
def State.segBusy (s : State) (n idx sub : Nat) : Bool :=
  let live := s.dict.writes.filter fun w => !s.segLate w && !w.is n idx sub
  decide (live.length ≥ 4) || live.any fun w => decide (w.idx = idx ∧ w.sub = sub)

/-- The transfer after one more segment: it stays open, or commits when `full` gives the whole value. -/
def State.segStep (s : State) (n idx sub : Nat) (bytes : List Byte) (full : Option (List Byte)) : Served :=
  let rest := s.dict.writes.filter fun w => !w.is n idx sub
  match full with
  | none => (s.setWrites (⟨n, idx, sub, bytes, s.clk.now, false⟩ :: rest)).accept []
  | some b =>
    let s1 := s.setWrites rest
    match s1.writeCheck idx sub with
    | .error c => s1.refuse c
    | .ok r => s1.writeValue idx sub r b

/-- What a segment after the first is checked for: of a DOMAIN the names and R396, as every check is made again at commit; of a
subindex of fixed type checks 1 to 4, and then that no transfer takes it (R382). -/
def State.laterCheck (s : State) (idx sub : Nat) : Nat :=
  let dom := (objRow idx sub).any fun r => decide (r.kind = .dom)
  match s.writeCheck idx sub with
  | .error c => if dom ∧ (c = abState ∨ c = abAuth) then s.writeServed idx else c
  | .ok _ => if dom then abOk else abLength

/-- SEG_WRITE. `whole` says of the bytes so far whether they commit, and as what. -/
def State.serveSegWrite (s : State) (n idx sub off : Nat) (data : List Byte) (whole : List Byte → Option (List Byte)) :
    Served :=
  if off = 0 then
    match s.writeCheck idx sub with
    | .error c => s.refuse c
    | .ok r =>
      if r.kind ≠ .dom then s.refuse abLength
      else if s.segBusy n idx sub then s.refuse abBusy
      else s.segStep n idx sub data (whole data)
  else
    let rest := s.dict.writes.filter fun w => !w.is n idx sub
    let c := s.laterCheck idx sub
    if c ≠ 0 then s.refuse c
    else
      match s.dict.writes.find? fun w => w.is n idx sub with
      | none => s.refuse abSequence
      | some w =>
        if s.segLate w then (s.setWrites rest).refuse abTimeout
        else if off ≠ w.bytes.length then (s.setWrites rest).refuse abSequence
        else s.segStep n idx sub (w.bytes ++ data) (whole (w.bytes ++ data))

/-- SEG_ABORT: the open transfers of the source are discarded. -/
def State.serveSegAbort (s : State) (n idx sub : Nat) : Served :=
  if objRows idx = [] then s.refuse abNoObject
  else if (objRow idx sub).isNone then s.refuse abNoSub
  else if s.st = .safeStop then s.refuse abState
  else
    ((s.setWrites (s.dict.writes.filter fun w => !w.is n idx sub)).setReads
      (s.dict.reads.filter fun r => !r.is n idx sub)).accept []

/-- SEGMENT_GAP_TIMEOUT: nothing of the transfer stays; a late segment finds that its time is over. -/
def State.segTimeout (s : State) (n idx sub : Nat) : State :=
  s.setWrites (s.dict.writes.map fun w =>
    if w.is n idx sub && decide (s.clk.now > w.last + gapLimit) then { w with bytes := [], expired := true } else w)

/-! ### Commands -/

def execDictWrite (t : Time) (src : Source) (idx : BitVec 16) (sub : BitVec 8) (data : List Byte) (s : State) :
    Host.Outcome State Fault Refusal :=
  .next ((s.advance t).serve src idx.toNat sub.toNat fun s => s.serveWrite idx.toNat sub.toNat data)

/-- LAST commits what has come. -/
def wholeIf (last : Bool) (b : List Byte) : Option (List Byte) := if last then some b else none

def execSegWrite (t : Time) (src : Source) (idx : BitVec 16) (sub : BitVec 8) (off : BitVec 32) (last : Bool)
    (data : List Byte) (s : State) : Host.Outcome State Fault Refusal :=
  .next ((s.advance t).serve src idx.toNat sub.toNat fun s =>
    s.serveSegWrite (srcNum src) idx.toNat sub.toNat off.toNat data (wholeIf last))

def execSegAbort (t : Time) (src : Source) (idx : BitVec 16) (sub : BitVec 8) (s : State) :
    Host.Outcome State Fault Refusal :=
  .next ((s.advance t).serve src idx.toNat sub.toNat fun s => s.serveSegAbort (srcNum src) idx.toNat sub.toNat)

def execSegmentGapTimeout (t : Time) (client : Nat) (idx : BitVec 16) (sub : BitVec 8) (s : State) :
    Host.Outcome State Fault Refusal := .next ((s.advance t).segTimeout client idx.toNat sub.toNat)

/-- The write that a row of its own stands for. -/
def State.namedWrite (s : State) (t : Time) (src : Source) (idx sub : Nat) (data : List Byte) : State :=
  (s.advance t).serve src idx sub fun s => s.serveWrite idx sub data

def execLoadTrigger (t : Time) (src : Source) (data : List Byte) (s : State) : Host.Outcome State Fault Refusal :=
  .next (s.namedWrite t src 0x6000 3 data)

def execProgramStart (t : Time) (src : Source) (data : List Byte) (s : State) : Host.Outcome State Fault Refusal :=
  .next (s.namedWrite t src 0x6001 1 data)

def execAbort (t : Time) (src : Source) (s : State) : Host.Outcome State Fault Refusal :=
  .next (s.namedWrite t src 0x6002 1 [1])

def execClear (t : Time) (src : Source) (s : State) : Host.Outcome State Fault Refusal :=
  .next (s.namedWrite t src 0x6002 1 [2])

def execUnload (t : Time) (src : Source) (s : State) : Host.Outcome State Fault Refusal :=
  .next (s.namedWrite t src 0x6002 1 [3])

def execReset (t : Time) (src : Source) (data : List Byte) (s : State) : Host.Outcome State Fault Refusal :=
  .next (s.namedWrite t src 0x1003 1 data)

/-- The clear with the bits that hardware has set in its cycle (R6): they are set and counted whether or not it is served. -/
def State.serveClear (s : State) (mask : List Byte) (setNow : Nat) : Served :=
  match s.writeCheck 0x1110 0 with
  | .error c => s.refuse c
  | .ok _ => if mask.length ≠ 4 then s.refuse abLength else s.writeFlags (leNat mask) setNow

def execEventFlagsClear (t : Time) (src : Source) (mask : List Byte) (setNow : BitVec 16) (s : State) :
    Host.Outcome State Fault Refusal :=
  .next (((s.advance t).events setNow.toNat).serve src 0x1110 0 fun s => s.serveClear mask setNow.toNat)

def execRunStage (t : Time) (src : Source) (data : List Byte) (s : State) : Host.Outcome State Fault Refusal :=
  .next (s.namedWrite t src 0x2001 1 data)

def execCopyChoice (t : Time) (src : Source) (data : List Byte) (s : State) : Host.Outcome State Fault Refusal :=
  .next (s.namedWrite t src 0x2001 2 data)

def execPrefixKey (t : Time) (src : Source) (data : List Byte) (s : State) : Host.Outcome State Fault Refusal :=
  .next (s.namedWrite t src 0x6021 1 data)

def execPrefetchSeq (t : Time) (src : Source) (data : List Byte) (s : State) : Host.Outcome State Fault Refusal :=
  .next (s.namedWrite t src 0x6021 3 data)

def execSnapArm (t : Time) (src : Source) (data : List Byte) (s : State) : Host.Outcome State Fault Refusal :=
  .next (s.namedWrite t src 0x7301 3 data)

def execSnapRelease (t : Time) (src : Source) (data : List Byte) (s : State) : Host.Outcome State Fault Refusal :=
  .next (s.namedWrite t src 0x7301 4 data)

def execFiClear (t : Time) (src : Source) (data : List Byte) (s : State) : Host.Outcome State Fault Refusal :=
  .next (s.namedWrite t src 0x7400 3 data)

def execLcRequest (t : Time) (src : Source) (data : List Byte) (s : State) : Host.Outcome State Fault Refusal :=
  .next (s.namedWrite t src 0x8000 2 data)

def execAuthData (t : Time) (src : Source) (data : List Byte) (s : State) : Host.Outcome State Fault Refusal :=
  .next (s.namedWrite t src 0x8000 5 data)

def execInstallStart (t : Time) (src : Source) (data : List Byte) (s : State) : Host.Outcome State Fault Refusal :=
  .next (s.namedWrite t src 0x8000 11 data)

def execAttRequest (t : Time) (src : Source) (data : List Byte) (s : State) : Host.Outcome State Fault Refusal :=
  .next (s.namedWrite t src 0x8010 2 data)

def execTokenData (t : Time) (src : Source) (data : List Byte) (s : State) : Host.Outcome State Fault Refusal :=
  .next (s.namedWrite t src 0x8020 2 data)

def execTokenClear (t : Time) (src : Source) (data : List Byte) (s : State) : Host.Outcome State Fault Refusal :=
  .next (s.namedWrite t src 0x8020 5 data)

/-- A GO of the direction the row names; a CONTROL value of the other direction is none of this row's (log 4). -/
def State.copyGo (s : State) (t : Time) (src : Source) (ch : Nat) (toHost : Bool) (data : List Byte) : State :=
  if decide (leNat data / 2 % 2 = 1) = toHost then s.namedWrite t src (copyObj ch) 4 data else s.advance t

def execCopyHostToModule (t : Time) (src : Source) (ch : Fin 16) (data : List Byte) (s : State) :
    Host.Outcome State Fault Refusal := .next (s.copyGo t src ch.val false data)

def execCopyModuleToHost (t : Time) (src : Source) (ch : Fin 16) (data : List Byte) (s : State) :
    Host.Outcome State Fault Refusal := .next (s.copyGo t src ch.val true data)

end Sys2Proof.Machine
end

