-- ==== Sys2Proof/Machine/HostPort.lean ====
section
/-! DEFINITION. Requests on the host port, its two windows, and the field network below the dictionary (09
R360-R364; 10 R376-R389). -/

namespace Sys2Proof.Machine

/-! ### The windows (R360) -/

/-- A message is the request that a command names: its type, tag, count, address and data (Table 9.7). -/
def hostMsg (ty tag n addr : Nat) (data : List Byte) (m : List Byte) : Bool :=
  let h := wordOfBytes (m.take 32)
  decide (fld h 0 5 = ty) && decide (fld h 8 8 = tag) && decide (fld h 16 8 = n) && decide (fld h 32 64 = addr) &&
    decide ((m.drop 32).take data.length = data)

/-- A request is taken unless it is discarded as a request error (R362). -/
def State.takeHost (s : State) (ty tag n addr : Nat) (bad : Bool) (data : List Byte) (f : State → State) : State :=
  if !s.hostHears then s
  else
    let r := s.received 30 (hostMsg ty tag n addr data)
    if !r.1 then s
    else if bad || (tblFind r.2.hostTags tag).isSome then r.2.requestError
    else f r.2

/-- Fields of a mirror address (Table 10.4). -/
def mirIndex (addr : Nat) : Nat := addr / 2 ^ 32 % 2 ^ 16
def mirSub (addr : Nat) : Nat := addr / 2 ^ 24 % 2 ^ 8
def mirOffset (addr : Nat) : Nat := addr % 2 ^ 24
def mirReserved (addr : Nat) : Bool := decide (addr / 2 ^ 48 % 2 ^ 8 ≠ 0)

/-- A mirror request that the dictionary cannot take now stays outstanding until its time limit, and is not executed (R389). -/
def State.mirrorWaits (s : State) (tag : BitVec 8) (write : Bool) (addr : Nat) : State :=
  { s with hostTags := tblPut s.hostTags tag.toNat { write := write, addrs := [], got := [], left := [addr], since := s.clk.now } }

/-- A mirror request refused for its address: an abort of a dictionary request, recorded in 1101h (R386, R395). -/
def State.mirrorRefused (s : State) (tag : BitVec 8) (addr code : Nat) : State :=
  (s.recordAbort (.mirror tag) (mirIndex addr) (mirSub addr) code).hostAnswer tag.toNat code []

/-- A mirror read (R387): n words of the value from OFFSET. -/
def State.mirrorRead (s : State) (tag : BitVec 8) (addr n : Nat) : State :=
  if mirReserved addr then s.mirrorRefused tag addr hostAddr
  else if mirOffset addr % 32 ≠ 0 then s.mirrorRefused tag addr hostWidth
  else if !s.dictHears then s.mirrorWaits tag false addr
  else
    s.serve (.mirror tag) (mirIndex addr) (mirSub addr) fun s =>
      let r := if mirSub addr = 0xFF then s.serveReadAll (.mirror tag) (mirIndex addr)
        else s.serveRead (.mirror tag) (mirIndex addr) (mirSub addr)
      if r.code = 0 then { r with data := fitBytes (32 * n) (r.data.drop (mirOffset addr)) } else r

/-- Bytes of a mirror transfer commit when they reach the length subindex's value (R388). -/
def State.mirrorWhole (s : State) (idx sub : Nat) (b : List Byte) : Option (List Byte) :=
  let len := s.regN idx (sub - 1)
  if b.length < len then none else if b.length < len + 32 then some (b.take len) else some b

/-- A mirror write to a subindex of fixed type: one word at OFFSET 0 (R388). -/
def State.mirrorFixed (s : State) (idx sub off n : Nat) (data : List Byte) : Served :=
  let w := match s.writeCheck idx sub with
    | .error c => s.refuse c
    | .ok r => if off ≠ 0 ∨ n ≠ 1 then s.refuse abLength else s.writeValue idx sub r (data.take r.size)
  { w with st := w.st.consumeAuth idx sub }

def isDomain (idx sub : Nat) : Bool :=
  match objRow idx sub with
  | some r => decide (r.kind = .dom)
  | none => false

def State.mirrorWrite (s : State) (tag : BitVec 8) (addr n : Nat) (data : List Byte) : State :=
  let idx := mirIndex addr
  let sub := mirSub addr
  if mirReserved addr then s.mirrorRefused tag addr hostAddr
  else if mirOffset addr % 32 ≠ 0 ∨ data.length ≠ 32 * n then s.mirrorRefused tag addr hostWidth
  else if !s.dictHears then s.mirrorWaits tag true addr
  else
    s.serve (.mirror tag) idx sub fun s =>
      if isDomain idx sub then s.serveSegWrite 0 idx sub (mirOffset addr) data (s.mirrorWhole idx sub)
      else s.mirrorFixed idx sub (mirOffset addr) n data

/-- The window of a host address. -/
def hostWindow (addr : Nat) : Nat := addr / 2 ^ 56

def State.hostRead (s : State) (tag : BitVec 8) (n addr : Nat) : State :=
  match hostWindow addr with
  | 0 => s.storageRead tag.toNat addr n
  | 0x80 => s.mirrorRead tag addr n
  | _ => s.hostAnswer tag.toNat hostAddr []

def State.hostWrite (s : State) (tag : BitVec 8) (n addr : Nat) (data : List Byte) : State :=
  match hostWindow addr with
  | 0 => s.storageWrite tag.toNat addr n false data
  | 0x80 => s.mirrorWrite tag addr n data
  | _ => s.hostAnswer tag.toNat hostAddr []

/-- The mirror holds no stamps (R361). -/
def State.hostWriteStamped (s : State) (tag : BitVec 8) (n addr : Nat) (data : List Byte) : State :=
  match hostWindow addr with
  | 0 => s.storageWrite tag.toNat addr n true data
  | _ => s.hostAnswer tag.toNat hostAddr []

def execHostRead (t : Time) (tag nwords : BitVec 8) (addr : BitVec 64) (bad : Bool) (s : State) :
    Host.Outcome State Fault Refusal :=
  .next ((s.advance t).takeHost 1 tag.toNat nwords.toNat addr.toNat bad [] fun s => s.hostRead tag (nwords.toNat + 1) addr.toNat)

def execHostWrite (t : Time) (tag nwords : BitVec 8) (addr : BitVec 64) (bad : Bool) (data : List Byte) (s : State) :
    Host.Outcome State Fault Refusal :=
  .next ((s.advance t).takeHost 2 tag.toNat nwords.toNat addr.toNat bad data fun s => s.hostWrite tag (nwords.toNat + 1) addr.toNat data)

/-- A record with a reserved byte that is not zero is a reserved value (R362). -/
def execHostWriteStamped (t : Time) (tag nwords : BitVec 8) (addr : BitVec 64) (bad : Bool) (data : List Byte) (s : State) :
    Host.Outcome State Fault Refusal :=
  .next ((s.advance t).takeHost 3 tag.toNat nwords.toNat addr.toNat (bad || !stampedOk data) data fun s =>
    s.hostWriteStamped tag (nwords.toNat + 1) addr.toNat data)

/-! ### The field network (R376-R380) -/

/-- A frame dropped is counted in 1020h.08. -/
def State.frameDropped (s : State) : State := s.bumpReg 0x1020 8 1

def State.frameInvalid (s : State) (c : Nat) (txn : BitVec 16) (why : FrameFault) (idx sub : Nat) : State :=
  let src : Source := .field c txn
  let answer := fun (s : State) code =>
    (s.recordAbort src idx sub code).send (.response src (BitVec.ofNat 16 code) [] false)
  if !s.dictHears then s
  else
    match why with
    | .malformed => answer s.frameDropped 0x0101
    | .version => answer s 0x0102
    | .response => s.frameDropped

def execDictFrameInvalid (t : Time) (client : Nat) (txn : BitVec 16) (why : FrameFault) (idx : BitVec 16) (sub : BitVec 8)
    (s : State) : Host.Outcome State Fault Refusal :=
  .next ((s.advance t).frameInvalid client txn why idx.toNat sub.toNat)

/-- Whatever the reason, the datagram is dropped and counted (R378, R379). -/
def execUdpDatagramDrop (t : Time) (_why : DropWhy) (s : State) : Host.Outcome State Fault Refusal :=
  let s1 := s.advance t
  .next (if s1.dictHears then s1.frameDropped else s1)

/-- The module's only address. -/
def ownAddress : BitVec 128 := BitVec.ofNat 128 (leNat (linkLocal macBytes).reverse)

def execNeighbourDiscovery (t : Time) (target : BitVec 128) (s : State) : Host.Outcome State Fault Refusal :=
  let s1 := s.advance t
  .next (if s1.dictHears && decide (target = ownAddress) then s1.send (.advertisement target) else s1)

def execIcmpv6Echo (t : Time) (dest : BitVec 128) (data : List Byte) (s : State) : Host.Outcome State Fault Refusal :=
  let s1 := s.advance t
  .next (if s1.dictHears && decide (dest = ownAddress) then s1.send (.echoReply dest data) else s1)

end Sys2Proof.Machine
end

