-- ==== Sys2Proof/Machine/Stream.lean ====
section
/-! DEFINITION. What port engines take from the mesh, and the streamers (07 R272; 09 R329, R351-R359; 15
R519, R520). -/

namespace Sys2Proof.Machine

/-! ### Flits on an AUX output (R272, R329, R352) -/

/-- A header of a ready notice: KIND READY, and every field but CREW, STEP and LAYER zero; 0 names
no crew (R259). -/
def readyHeader (w : EccWord) : Bool :=
  decide (pkKind w = 7) && decide (pkWire w = 0) && decide (pkCrew w ≠ 0) && decide (fld w 64 192 = 0)

def sdKind (w : EccWord) : Nat := fld w 0 4

def State.toInbox (s : State) (i : Nat) (bs : List Byte) : State :=
  let p := s.port i
  s.setPort i { p with inbox := p.inbox ++ [(fromCore, bs)] }

/-- Every reserved field of a request's descriptor is zero, and so is STATUS (Table 9.5, R5). -/
def descClean (w : EccWord) : Bool :=
  decide (fld w 4 12 = 0) && decide (fld w 115 13 = 0) && decide (fld w 184 8 = 0) && decide (fld w 226 30 = 0)

/-- What an Epmond engine makes of a request flit: a PUT with its data, or up to eight descriptors, of
which only DRAW and COMMIT are valid; one with a reserved bit set is discarded (R5, R352). -/
def requestsOf (ws : List EccWord) : List (List EccWord) :=
  let w := ws.headD 0
  if sdKind w = 2 then (if descClean w then [ws.take (fld w 112 3 + 2)] else [])
  else (ws.filter fun d => decide (sdKind d = 1 ∨ sdKind d = 3) && descClean d).map fun d => [d]

/-- AUX_FLIT_TAKE: the engine takes the oldest flit delivered to one of its routers. -/
def State.auxTake (s : State) (r : ColId) : State :=
  match tblGet [] s.engineIn r.num, portOfRouter r with
  | f :: fs, some i =>
    let s1 := { s with engineIn := tblSet [] s.engineIn r.num fs }
    if !f.valid then s1
    else if i < 24 then
      if readyHeader (f.words.headD 0) then s1.toInbox i (bytesOfWord (f.words.headD 0)) else s1.bumpReg (0x7210 + i) 7 1
    else if i < 30 then (requestsOf f.words).foldl (fun s d => s.toInbox i (bytesOfWords d)) s1
    else s1
  | _, _ => s

def execAuxFlitTake (r : ColId) (s : State) : Host.Outcome State Fault Refusal := .next (s.auxTake r)

/-! ### Requests (Tables 9.5, 9.6) -/

def streamerWord (kind tensor version word nwords : Nat) : EccWord :=
  BitVec.ofNat 256 (kind + 2 ^ 16 * tensor + 2 ^ 32 * version + 2 ^ 64 * word + 2 ^ 192 * nwords)

/-- A message to the streamer of a port. -/
def State.toStreamer (s : State) (i : Nat) (ws : List EccWord) : State :=
  (s.send (.streamer i ws)).sendOn i 0 512 (bytesOfWords ws)

/-- A request that awaits a REPLY. -/
def State.request (s : State) (i : Nat) (kind : StreamKind) (ws : List EccWord) : State :=
  let q : StreamReq := { id := s.nextReq, port := i, kind := kind, since := s.clk.now, sent := 1 }
  ({ s with streams := s.streams ++ [q], nextReq := s.nextReq + 1 } : State).toStreamer i ws

/-- The words of a transfer lie in one bank of one vault, or in one well. -/
def oneSink (a n : Nat) : Bool :=
  match placeOf a, placeOf (a + 32 * (n - 1)) with
  | some (.vault c b _), some (.vault d e _) => decide (c = d ∧ b = e) && decide (a % 32 = 0)
  | some (.well w _), some (.well v _) => decide (w = v) && decide (a % 32 = 0)
  | _, _ => false

def State.drawsOf (s : State) (i : Nat) : Nat :=
  (s.streams.filter fun q => decide (q.port = i) && (match q.kind with | .draw _ _ _ _ => true | _ => false)).length

/-- The first request of a kind that waits at a port. -/
def State.takeRequest (s : State) (i kind : Nat) : Option (List EccWord) × State :=
  let r := s.takeInbox i fun v m => decide (v = fromCore) && decide (sdKind (wordOfBytes (m.take 32)) = kind)
  (r.1.map wordsOfBytes, r.2)

/-- DRAW (R353, R354, R359). -/
def State.draw (s : State) (i : Nat) : State :=
  let r := s.takeRequest i 1
  match r.1 with
  | none => s
  | some ws =>
    let w := ws.headD 0
    let dest := fld w 128 56
    let n := fld w 192 24 + 1
    let route := ((placeOf dest).bind sinkOf).bind fun k => r.2.pickRoute (sinkKey k)
    if !oneSink dest n ∨ route.isNone ∨ r.2.drawsOf i ≥ 4096 then (r.2.bumpReg (0x7210 + i) 7 1).bumpReg (0x7210 + i) 8 1
    else if r.2.linkState i = 4 then r.2
    else r.2.request i (.draw dest n (fld w 216 10) (fld w 16 16)) [w]

def isEpmond (i : Nat) : Bool := decide (24 ≤ i) && decide (i < 30)

def execDraw (t : Time) (port : Fin 31) (s : State) : Host.Outcome State Fault Refusal :=
  .next (if isEpmond port.val then (s.advance t).draw port.val else s.advance t)

/-- PUT and COMMIT go on to the streamer; neither is answered (Table 9.6). -/
def State.passRequest (s : State) (i kind : Nat) : State :=
  let r := s.takeRequest i kind
  match r.1 with
  | some ws => r.2.toStreamer i ws
  | none => s

def execPut (t : Time) (port : Fin 31) (s : State) : Host.Outcome State Fault Refusal :=
  .next (if isEpmond port.val then (s.advance t).passRequest port.val 2 else s.advance t)

def execCommit (t : Time) (port : Fin 31) (s : State) : Host.Outcome State Fault Refusal :=
  .next (if isEpmond port.val then (s.advance t).passRequest port.val 3 else s.advance t)

/-- A live Epmond port (R357). -/
def State.epmondLive (s : State) (i : Nat) : Bool := isEpmond i && s.portLive i

/-- The next live Epmond port after one. -/
def State.nextEpmond (s : State) (i : Nat) : Option Nat :=
  ((List.range 6).map fun k => 24 + (i - 24 + 1 + k) % 6).find? s.epmondLive

/-- The live Epmond port whose turn it is (R357). -/
def State.streamPort (s : State) : Option Nat := s.nextEpmond s.streamTurn

/-- A message of the cox goes through the port whose turn it is. -/
def State.coxRequest (s : State) (i : Nat) (kind : StreamKind) (ws : List EccWord) : State :=
  { s.request i kind ws with streamTurn := i }

def State.asked (s : State) (k : StreamKind) : Bool := s.streams.any fun q => q.kind = k

/-- The words of a page in its slot. -/
def State.slotRead (s : State) (p : Page) : State × Option (List EccWord) :=
  match p.slot.bind fun k => s.entry (k / 16384), p.slot with
  | some e, some k => s.coxWords (e.slotAddr (k % 16384)) e.slotWords
  | _, _ => (s, none)

/-- SPILL of a leaving page, as its slot stands, with TIER SPILLED (R245). A slot that cannot be read is not spilled, and its
page returns to the tier it left (log 63). -/
def State.spillPage (s : State) (i : Nat) (p : Page) : State :=
  let r := s.slotRead p
  match r.2 with
  | some (h :: t) =>
    let head := BitVec.ofNat 256 (h.toNat - 2 ^ 16 * fld h 16 3 + 2 ^ 16 * 6)
    r.1.coxRequest i (.spill p.handle) (streamerWord 4 0 0 p.handle t.length :: head :: t)
  | _ => (r.1.cancelSpill p.handle).resume

/-- The next leaving page that is not asked for. -/
def State.spill (s : State) (i : Nat) : State :=
  match s.pages.pages.find? fun p => decide (p.tier = .leaving) && p.slot.isSome && !s.asked (.spill p.handle) with
  | none => s
  | some p => s.spillPage i p

/-- A message of the cox leaves through the port whose turn it is; the command names that port (R357). -/
def State.onTurn (s : State) (i : Nat) (f : State → State) : State := if s.streamPort = some i then f s else s

def execSpill (t : Time) (port : Fin 31) (s : State) : Host.Outcome State Fault Refusal :=
  .next ((s.advance t).onTurn port.val fun s => s.spill port.val)

/-- The FETCH message of a page. -/
def State.fetchWords (s : State) (p : Page) : List EccWord :=
  match p.slot.bind fun k => s.entry (k / 16384) with
  | some e => [streamerWord 5 0 0 p.handle (e.slotWords - 1)]
  | none => []

def State.fetchPage (s : State) (i : Nat) : State :=
  match s.pages.pages.find? fun p => decide (p.tier = .arriving) && !p.landed && !s.asked (.fetch p.handle) with
  | none => s
  | some p => s.coxRequest i (.fetch p.handle) (s.fetchWords p)

def execFetch (t : Time) (port : Fin 31) (s : State) : Host.Outcome State Fault Refusal :=
  .next ((s.advance t).onTurn port.val fun s => s.fetchPage port.val)

/-- SNAP: the next piece of the copy; an uncorrectable word fails it (R322, R323). -/
def State.snapSend (s : State) (i : Nat) : State :=
  match s.snap.todo with
  | [] => s
  | (tensor, off, a, n) :: rest =>
    if s.snapStatus ≠ 2 then s
    else
      let r := s.coxWords a n
      match r.2 with
      | none => r.1.snapFail
      | some ws =>
        (r.1.setSnap { r.1.snap with todo := rest }).coxRequest i (.snap tensor)
          (streamerWord 6 tensor (s.snap.step.getD 0) off (n - 1) :: ws)

def execSnap (t : Time) (port : Fin 31) (s : State) : Host.Outcome State Fault Refusal :=
  .next ((s.advance t).onTurn port.val fun s => s.snapSend port.val)

/-! ### Replies (R353-R358) -/

/-- A spill is confirmed: the slot is FREE and the page is in the spill tier. -/
def State.spilled (s : State) (h : Nat) : State :=
  match s.page h with
  | none => s
  | some p =>
    let s1 := (s.showTier p 0).modPage h fun p => { p with slot := none, tier := p.backTier }
    ((s1.bumpReg 0x6022 6 1).freeUnused).resume

/-- A spill is given up: the page returns to the tier it left, and what waited for its slot is judged again (R519, R520). -/
def State.spillGone (s : State) (h : Nat) : State := (s.cancelSpill h).resume

/-- The spill tier is full: the page of the oldest last use that no kept sequence includes is dropped with its
node and those below, and the spill is retried; with none, the victim returns (R247, R520). -/
def State.spillFull (s : State) (i h : Nat) : State :=
  match oldest (·.lastUse) (s.pages.pages.filter fun p => p.slot.isNone && p.seqs.isEmpty) with
  | some p =>
    let s1 := if p.inDir then s.dropNode p.hash else s.dropPage p.handle
    match s1.page h with
    | some v => if v.tier = .leaving then s1.spillPage (s1.streamPort.getD i) v else s1
    | none => s1
  | none => s.spillGone h

/-- The words of a fetched slot are written unchanged but for GEN and TIER (R245, Table 6.14). -/
def State.fetched (s : State) (h : Nat) (data : List EccWord) : State :=
  match s.page h with
  | none => s
  | some p =>
    match (p.slot.bind fun k => s.entry (k / 16384)), p.slot with
    | some e, some k =>
      let g := s.slotGen e (k % 16384)
      let gen := (g.2 + 1) % 2 ^ 32
      let s1 := g.1.coxWrites (e.slotAddr (k % 16384)) (pageHeader e p 4 gen :: (data.take e.slotWords).drop 1)
      s1.modPage h fun p => { p with landed := true }
    | _, _ => s

/-- LAST_ERROR of a reply whose status is not OK. -/
def State.lastError (s : State) (i status tensor : Nat) : State :=
  if status = 0 then s else s.setRegN (0x7210 + i) 9 (status + 16 * tensor)

/-- A REPLY of the streamer of port i (R353-R358). -/
def State.replyIn (s : State) (i req status : Nat) (data : List EccWord) : State :=
  match s.streams.find? fun q => decide (q.id = req) && decide (q.port = i) with
  | none => s.bumpReg (0x7210 + i) 7 1
  | some q =>
    let s1 : State := { s with streams := s.streams.erase q }
    match q.kind with
    | .draw dest n mb tensor =>
      if status ≠ 0 then s1.lastError i status tensor
      else if data.length ≠ n then s1.bumpReg (0x7210 + i) 7 1
      else (s1.openSend i dest mb data).getD s1
    | .spill h =>
      if status = 0 then s1.spilled h
      else if status = 3 then (s1.lastError i status 0).spillFull i h
      else (s1.lastError i status 0).spillGone h
    | .fetch h => if status = 0 then s1.fetched h data else s1.lastError i status 0
    | .snap tensor => if status = 0 then s1 else (s1.lastError i status tensor).snapLost

/-- A message is the REPLY that a command names: its KIND, STATUS and words (Table 9.6). -/
def replyMsg (status : Nat) (data : List EccWord) (m : List Byte) : Bool :=
  let h := wordOfBytes (m.take 32)
  decide (sdKind h = replyKind) && decide (fld h 4 4 = status) && decide ((m.drop 32).take (32 * data.length) = bytesOfWords data)

def execReply (t : Time) (port : Fin 31) (req : Nat) (status : BitVec 4) (data : List EccWord) (s : State) :
    Host.Outcome State Fault Refusal :=
  let s1 := s.advance t
  let q := s1.received port.val (replyMsg status.toNat data)
  .next (if isEpmond port.val then (if q.1 then q.2.replyIn port.val req status.toNat data else q.2) else s1)

/-! ### Requests without a REPLY (R519) -/

def State.streamerTimeout (s : State) (req : Nat) : State :=
  match s.streams.find? fun q => q.id = req with
  | none => s
  | some q =>
    if s.clk.now < q.since + 1000 * msUnits then s
    else
      match q.kind with
      | .draw _ _ _ _ => s
      | .spill h => ({ s with streams := s.streams.erase q } : State).spillGone h
      | .fetch h =>
        if q.sent ≥ 2 then s
        else
          let i := (s.nextEpmond q.port).getD q.port
          let again := s.streams.map fun x => if x.id = req then { x with port := i, since := s.clk.now, sent := 2 } else x
          match s.page h with
          | some p => ({ s with streams := again, streamTurn := i } : State).toStreamer i (s.fetchWords p)
          | none => s
      | .snap _ => ({ s with streams := s.streams.erase q } : State).snapLost

def execStreamerRequestTimeout (t : Time) (req : Nat) (s : State) : Host.Outcome State Fault Refusal :=
  .next ((s.advance t).streamerTimeout req)

end Sys2Proof.Machine
end

