-- ==== Sys2Proof/Machine/Dispatch.lean ====
section
/-! DEFINITION. The meaning of each command: one arm for each row of spec/opcode_table.json. -/

namespace Sys2Proof.Machine

def exec (i : Instr) (s : State) : Host.Outcome State Fault Refusal :=
  match i with
  | .nop u => Sys2Proof.Machine.execNop u s
  | .halt u => Sys2Proof.Machine.execHalt u s
  | .loop u => Sys2Proof.Machine.execLoop u s
  | .exitIf u => Sys2Proof.Machine.execExitIf u s
  | .stake u => Sys2Proof.Machine.execStake u s
  | .skip u => Sys2Proof.Machine.execSkip u s
  | .aset c => Sys2Proof.Machine.execAset c s
  | .aadd c => Sys2Proof.Machine.execAadd c s
  | .run c => Sys2Proof.Machine.execRun c s
  | .fload c => Sys2Proof.Machine.execFload c s
  | .drainToSram c => Sys2Proof.Machine.execDrainToSram c s
  | .drainToVreg c => Sys2Proof.Machine.execDrainToVreg c s
  | .vadd c => Sys2Proof.Machine.execVadd c s
  | .vsub c => Sys2Proof.Machine.execVsub c s
  | .vmul c => Sys2Proof.Machine.execVmul c s
  | .vfma c => Sys2Proof.Machine.execVfma c s
  | .vaddi c => Sys2Proof.Machine.execVaddi c s
  | .vmuli c => Sys2Proof.Machine.execVmuli c s
  | .vmax c => Sys2Proof.Machine.execVmax c s
  | .vmin c => Sys2Proof.Machine.execVmin c s
  | .vsel c => Sys2Proof.Machine.execVsel c s
  | .vmov c => Sys2Proof.Machine.execVmov c s
  | .vrcp c => Sys2Proof.Machine.execVrcp c s
  | .vrsqrt c => Sys2Proof.Machine.execVrsqrt c s
  | .vexp c => Sys2Proof.Machine.execVexp c s
  | .vexp2 c => Sys2Proof.Machine.execVexp2 c s
  | .vlog2 c => Sys2Proof.Machine.execVlog2 c s
  | .vdiv c => Sys2Proof.Machine.execVdiv c s
  | .vsqrt c => Sys2Proof.Machine.execVsqrt c s
  | .vrsum c => Sys2Proof.Machine.execVrsum c s
  | .vrmax c => Sys2Proof.Machine.execVrmax c s
  | .vrot c => Sys2Proof.Machine.execVrot c s
  | .vupd c => Sys2Proof.Machine.execVupd c s
  | .vseed c => Sys2Proof.Machine.execVseed c s
  | .vld c => Sys2Proof.Machine.execVld c s
  | .vst c => Sys2Proof.Machine.execVst c s
  | .vldb c => Sys2Proof.Machine.execVldb c s
  | .vstb c => Sys2Proof.Machine.execVstb c s
  | .vread c bonds => Sys2Proof.Machine.execVread c bonds s
  | .vwrite c bonds => Sys2Proof.Machine.execVwrite c bonds s
  | .msend c => Sys2Proof.Machine.execMsend c s
  | .mrecv c => Sys2Proof.Machine.execMrecv c s
  | .wread c => Sys2Proof.Machine.execWread c s
  | .route r => Sys2Proof.Machine.execRoute r s
  | .routerFlitSwitch r inp => Sys2Proof.Machine.execRouterFlitSwitch r inp s
  | .wellDescriptorArrival w => Sys2Proof.Machine.execWellDescriptorArrival w s
  | .wellGroupRead w => Sys2Proof.Machine.execWellGroupRead w s
  | .openFlitWrite k => Sys2Proof.Machine.execOpenFlitWrite k s
  | .mv c bank => Sys2Proof.Machine.execMv c bank s
  | .attn c bank => Sys2Proof.Machine.execAttn c bank s
  | .reduce c bank => Sys2Proof.Machine.execReduce c bank s
  | .nbCommandEnd c bank => Sys2Proof.Machine.execNbCommandEnd c bank s
  | .heldBankAccess c bank => Sys2Proof.Machine.execHeldBankAccess c bank s
  | .bankRefresh t c bank upsets => Sys2Proof.Machine.execBankRefresh t c bank upsets s
  | .patrolScrub t addr found overtaken => Sys2Proof.Machine.execPatrolScrub t addr found overtaken s
  | .scrubIntervalEnd t => Sys2Proof.Machine.execScrubIntervalEnd t s
  | .strokeBoundary missing => Sys2Proof.Machine.execStrokeBoundary missing s
  | .programStrokeZero => Sys2Proof.Machine.execProgramStrokeZero s
  | .rendezvousEvaluation => Sys2Proof.Machine.execRendezvousEvaluation s
  | .rendezvousRelease rdv => Sys2Proof.Machine.execRendezvousRelease rdv s
  | .rendezvousTimeout rdv => Sys2Proof.Machine.execRendezvousTimeout rdv s
  | .stepDeadline => Sys2Proof.Machine.execStepDeadline s
  | .splitSelection t => Sys2Proof.Machine.execSplitSelection t s
  | .shiftRepairResume t alive laneReads => Sys2Proof.Machine.execShiftRepairResume t alive laneReads s
  | .programComplete => Sys2Proof.Machine.execProgramComplete s
  | .hostRead t tag nwords addr bad => Sys2Proof.Machine.execHostRead t tag nwords addr bad s
  | .hostWrite t tag nwords addr bad data => Sys2Proof.Machine.execHostWrite t tag nwords addr bad data s
  | .hostWriteStamped t tag nwords addr bad data => Sys2Proof.Machine.execHostWriteStamped t tag nwords addr bad data s
  | .hostCompletionReceived t tag status data => Sys2Proof.Machine.execHostCompletionReceived t tag status data s
  | .hostRequestTimeout t tag init wrote => Sys2Proof.Machine.execHostRequestTimeout t tag init wrote s
  | .copyHostToModule t src ch data => Sys2Proof.Machine.execCopyHostToModule t src ch data s
  | .copyModuleToHost t src ch data => Sys2Proof.Machine.execCopyModuleToHost t src ch data s
  | .copyRequestEnd t ch => Sys2Proof.Machine.execCopyRequestEnd t ch s
  | .dataFlitReceive t port lane f => Sys2Proof.Machine.execDataFlitReceive t port lane f s
  | .fillFlitReceive t port lane f => Sys2Proof.Machine.execFillFlitReceive t port lane f s
  | .nakReceive t port lane ack => Sys2Proof.Machine.execNakReceive t port lane ack s
  | .ackReceive t port lane ack => Sys2Proof.Machine.execAckReceive t port lane ack s
  | .ackSendTimer t port lane => Sys2Proof.Machine.execAckSendTimer t port lane s
  | .replayTimeout t port lane => Sys2Proof.Machine.execReplayTimeout t port lane s
  | .portRetrain t port lane => Sys2Proof.Machine.execPortRetrain t port lane s
  | .trainingAttemptEnd t port how peerDelivered => Sys2Proof.Machine.execTrainingAttemptEnd t port how peerDelivered s
  | .linkId t port rank peerPort => Sys2Proof.Machine.execLinkId t port rank peerPort s
  | .portPartnerTimeout t port => Sys2Proof.Machine.execPortPartnerTimeout t port s
  | .auxFlitTake r => Sys2Proof.Machine.execAuxFlitTake r s
  | .ready t port => Sys2Proof.Machine.execReady t port s
  | .zeroRankTestEnd t crew layer => Sys2Proof.Machine.execZeroRankTestEnd t crew layer s
  | .chunk t port hdr body => Sys2Proof.Machine.execChunk t port hdr body s
  | .trailer t port hdr body => Sys2Proof.Machine.execTrailer t port hdr body s
  | .epilogue t port hdr body => Sys2Proof.Machine.execEpilogue t port hdr body s
  | .crewSeal t port hdr body => Sys2Proof.Machine.execSeal t port hdr body s
  | .preamble t port hdr body => Sys2Proof.Machine.execPreamble t port hdr body s
  | .credit t port hdr => Sys2Proof.Machine.execCredit t port hdr s
  | .crewWaitDeadline t crew layer child => Sys2Proof.Machine.execCrewWaitDeadline t crew layer child s
  | .layerComplete t crew layer => Sys2Proof.Machine.execLayerComplete t crew layer s
  | .draw t port => Sys2Proof.Machine.execDraw t port s
  | .put t port => Sys2Proof.Machine.execPut t port s
  | .commit t port => Sys2Proof.Machine.execCommit t port s
  | .spill t port => Sys2Proof.Machine.execSpill t port s
  | .fetch t port => Sys2Proof.Machine.execFetch t port s
  | .snap t port => Sys2Proof.Machine.execSnap t port s
  | .reply t port req status data => Sys2Proof.Machine.execReply t port req status data s
  | .streamerRequestTimeout t req => Sys2Proof.Machine.execStreamerRequestTimeout t req s
  | .pageManagerTurn t tokens => Sys2Proof.Machine.execPageManagerTurn t tokens s
  | .roundStart t => Sys2Proof.Machine.execRoundStart t s
  | .callEnd t => Sys2Proof.Machine.execCallEnd t s
  | .prefetchArrival t handle => Sys2Proof.Machine.execPrefetchArrival t handle s
  | .maskExpand t => Sys2Proof.Machine.execMaskExpand t s
  | .snapshotCopyEnd t ok => Sys2Proof.Machine.execSnapshotCopyEnd t ok s
  | .dictRead t src idx sub => Sys2Proof.Machine.execDictRead t src idx sub s
  | .dictWrite t src idx sub data => Sys2Proof.Machine.execDictWrite t src idx sub data s
  | .dictReadAll t src idx => Sys2Proof.Machine.execDictReadAll t src idx s
  | .segRead t src idx sub off len => Sys2Proof.Machine.execSegRead t src idx sub off len s
  | .segWrite t src idx sub off last data => Sys2Proof.Machine.execSegWrite t src idx sub off last data s
  | .segAbort t src idx sub => Sys2Proof.Machine.execSegAbort t src idx sub s
  | .segmentGapTimeout t client idx sub => Sys2Proof.Machine.execSegmentGapTimeout t client idx sub s
  | .neighbourDiscovery t target => Sys2Proof.Machine.execNeighbourDiscovery t target s
  | .icmpv6Echo t dest data => Sys2Proof.Machine.execIcmpv6Echo t dest data s
  | .loadTrigger t src data => Sys2Proof.Machine.execLoadTrigger t src data s
  | .loadEnd t => Sys2Proof.Machine.execLoadEnd t s
  | .programStart t src data => Sys2Proof.Machine.execProgramStart t src data s
  | .startCheckEnd t => Sys2Proof.Machine.execStartCheckEnd t s
  | .abort t src => Sys2Proof.Machine.execAbort t src s
  | .clear t src => Sys2Proof.Machine.execClear t src s
  | .unload t src => Sys2Proof.Machine.execUnload t src s
  | .reset t src data => Sys2Proof.Machine.execReset t src data s
  | .eventFlagsClear t src mask setNow => Sys2Proof.Machine.execEventFlagsClear t src mask setNow s
  | .runStage t src data => Sys2Proof.Machine.execRunStage t src data s
  | .copyChoice t src data => Sys2Proof.Machine.execCopyChoice t src data s
  | .prefixKey t src data => Sys2Proof.Machine.execPrefixKey t src data s
  | .prefetchSeq t src data => Sys2Proof.Machine.execPrefetchSeq t src data s
  | .snapArm t src data => Sys2Proof.Machine.execSnapArm t src data s
  | .snapRelease t src data => Sys2Proof.Machine.execSnapRelease t src data s
  | .fiClear t src data => Sys2Proof.Machine.execFiClear t src data s
  | .lcRequest t src data => Sys2Proof.Machine.execLcRequest t src data s
  | .authData t src data => Sys2Proof.Machine.execAuthData t src data s
  | .installStart t src data => Sys2Proof.Machine.execInstallStart t src data s
  | .installEnd t => Sys2Proof.Machine.execInstallEnd t s
  | .attRequest t src data => Sys2Proof.Machine.execAttRequest t src data s
  | .attReportReady t entropyOk signerOk => Sys2Proof.Machine.execAttReportReady t entropyOk signerOk s
  | .tokenData t src data => Sys2Proof.Machine.execTokenData t src data s
  | .tokenClear t src data => Sys2Proof.Machine.execTokenClear t src data s
  | .tokenLapse t => Sys2Proof.Machine.execTokenLapse t s
  | .enableHigh t => Sys2Proof.Machine.execEnableHigh t s
  | .enableLow t => Sys2Proof.Machine.execEnableLow t s
  | .inputGoodLoss t => Sys2Proof.Machine.execInputGoodLoss t s
  | .refclkLoss t => Sys2Proof.Machine.execRefclkLoss t s
  | .flowOkLow t => Sys2Proof.Machine.execFlowOkLow t s
  | .safeStopRecoveryStart t => Sys2Proof.Machine.execSafeStopRecoveryStart t s
  | .safeStopRecoveryEnd t units => Sys2Proof.Machine.execSafeStopRecoveryEnd t units s
  | .safeStopHoldExpiry t => Sys2Proof.Machine.execSafeStopHoldExpiry t s
  | .sensorSample t samples coolant => Sys2Proof.Machine.execSensorSample t samples coolant s
  | .lowFlowHalt t => Sys2Proof.Machine.execLowFlowHalt t s
  | .thermalModelUpdate t => Sys2Proof.Machine.execThermalModelUpdate t s
  | .budgetSolve t => Sys2Proof.Machine.execBudgetSolve t s
  | .powerControlTick t m => Sys2Proof.Machine.execPowerControlTick t m s
  | .phaseFailure t w d => Sys2Proof.Machine.execPhaseFailure t w d s
  | .regionRetire t w => Sys2Proof.Machine.execRegionRetire t w s
  | .regionShort t w d => Sys2Proof.Machine.execRegionShort t w d s
  | .brickLoss t stack => Sys2Proof.Machine.execBrickLoss t stack s
  | .leadCoxWatchdog t => Sys2Proof.Machine.execLeadCoxWatchdog t s
  | .coxWatchdog t stack => Sys2Proof.Machine.execCoxWatchdog t stack s
  | .bringupStageEnd t f => Sys2Proof.Machine.execBringupStageEnd t f s
  | .floorPlanPublish t => Sys2Proof.Machine.execFloorPlanPublish t s
  | .configWrite t verified => Sys2Proof.Machine.execConfigWrite t verified s
  | .linkCheckingFail t r dir lostWires => Sys2Proof.Machine.execLinkCheckingFail t r dir lostWires s
  | .trainFlitReceive t port => Sys2Proof.Machine.execTrainFlitReceive t port s
  | .dictFrameInvalid t client txn why idx sub => Sys2Proof.Machine.execDictFrameInvalid t client txn why idx sub s
  | .udpDatagramDrop t why => Sys2Proof.Machine.execUdpDatagramDrop t why s
  | .testPortInstruction t ir => Sys2Proof.Machine.execTestPortInstruction t ir s
  | .inputGoodReturn t => Sys2Proof.Machine.execInputGoodReturn t s

end Sys2Proof.Machine
end

