-- ==== Sys2Proof/Safety.lean ====
section
/-! DEFINITION. What claims call safe: which steps stop, and the invariants of the state. -/

namespace Sys2Proof.Safety

open Sys2Proof.Machine

/-- A step that neither faults nor is refused. -/
def Runs (s : State) : Prop := ∃ t, step s = .next t

/-- Memory has its canonical form, and so have the tables of check states and stamps beside it. -/
structure Stored (s : State) : Prop where
  mem : Memory.wf s.mem
  ecc : tblWf (0 : BitVec 2) s.ecc = true
  stamps : tblWf (0 : BitVec 34) s.stamps = true

/-- The registers of the dictionary have their canonical form: none is listed that reads as it does anyway. -/
def RegsRise (s : State) : Prop := tblRising none s.regs = true

/-- The unit's next word is w, an op of the unit code and opcode given, it keeps every rule of its encoding, and it
starts: the schedule runs, the unit is neither halted, stopped nor at a rendezvous, the word's start stroke has come,
its check state is not uncorrectable, its slot is not passed and its unit is free, and no work of the unit's earlier ops
stops it with a fault before that ac (03 R73-R76, R102, R104). -/
structure Issues (s : State) (u : UnitId) (unit code : Nat) (w : OpWord) : Prop where
  runs : s.issuing = true
  live : (s.issue u).live = true
  next : (s.store u)[(s.issue u).idx]? = some w
  isUnit : opUnit w = unit
  isCode : opCode w = code
  good : s.storeState u < 2
  encoded : unitWordOk u w = true
  due : startSigma (s.issue u) w / 1024 ≤ s.umpire.stroke
  inOrder : (s.issue u).reached ≤ startSigma (s.issue u) w
  free : tblGet 0 (s.issue u).unitBusy (busyKey u w) ≤ startSigma (s.issue u) w
  stays : ((s.atStart u (startSigma (s.issue u) w)).issue u).live = true

/-- The start of the unit's next word w. -/
def opStart (s : State) (u : UnitId) (w : OpWord) : Nat := startSigma (s.issue u) w

/-- The state in which the op of the unit's next word w acts: time has gone on to its start, the work of the unit's earlier
ops is done as far as it falls before that ac (log 10), and the issue logic has read the word (03 R73, 05 R187). -/
def startState (s : State) (u : UnitId) (w : OpWord) : State := (s.atStart u (opStart s u w)).storeRead u

/-- The issue state after an op of w that starts in ac sg, keeps its unit for `busy` ac and is complete from `fin` on: the
next word in store order, before loops and windows are settled (03 R75, R76). -/
def nextWord (a : State) (u : UnitId) (w : OpWord) (sg busy fin : Nat) : Issue :=
  let i := a.issue u
  { i with idx := i.idx + 1, stroke := sg / 1024, reached := sg, doneAt := max i.doneAt fin,
           unitBusy := tblSet 0 i.unitBusy (busyKey u w) (sg + busy) }

/-- A lane of a register as an op that starts in ac sg reads it: results readable by then have reached it (03 R93). -/
def laneAt (a : State) (c : CoreId) (sg v l : Nat) : F32 := ((a.core c).landResults sg).lane v l

/-- No source has a result still on its way when the op starts (03 R93). -/
def sourcesReady (a : State) (c : CoreId) (sg : Nat) (srcs : List Nat) : Prop :=
  ((a.core c).landResults sg).pendingReg srcs = none

/-- The sum of events over lanes below n (02 R66). -/
def laneEvents (n : Nat) (f : Nat → Ev) : Ev := ((List.range n).map f).foldr Ev.plus Ev.zero

/-- A step that reaches one core and the stroke's events only: core c becomes k, the events e join those of the stroke,
and nothing else of the module changes. -/
structure CoreGets (a : State) (c : CoreId) (k : CoreState) (e : Ev) (t : State) : Prop where
  rest : t = { a with cores := t.cores, gathered := a.gathered.plus e }
  core : t.core c = k
  others : ∀ d : CoreId, d.num ≠ c.num → t.core d = a.core d

/-- The effect of a VEC op that starts in ac sg of state a: its results may be read from ac sg + lat on, its unit is busy
for `busy` ac, its arithmetic events join those of the stroke, and nothing else of the module changes (03 R92, R93). -/
def VecEffect (a : State) (c : CoreId) (w : OpWord) (sg lat busy : Nat) (rs : List RegWrite) (e : Ev) (t : State) : Prop :=
  let k := (a.core c).landResults sg
  CoreGets a c
    { k with vPend := rs.foldl (fun l r => insertResult r l) k.vPend
             iss := a.settled (.core c) (nextWord a (.core c) w sg busy (sg + lat)) } e t

/-- Results to lanes 0 to n - 1 of register v, readable from ac r on. -/
def laneResults (r v n : Nat) (f : Nat → F32) : RegWrite :=
  { ready := r, vals := (List.range n).map fun l => (laneKey v l, f l) }

/-! ### Ops in flight and core SRAM (log 10) -/

/-- A job of an op in flight, early or at the end of its ac. -/
def early (at' id : Nat) (act : Act) : Job := { at' := at', late := false, id := id, act := act }
def atEnd (at' id : Nat) (act : Act) : Job := { at' := at', late := true, id := id, act := act }

/-- Core k with an op in flight that starts in ac sg and whose work is the jobs given, and its unit gone on to the next
word. -/
def flying (a : State) (c : CoreId) (w : OpWord) (sg off busy fin : Nat) (jobs : List Job) (k : CoreState) : CoreState :=
  { k with
    flights := k.flights ++
      [{ id := flightId sg k.iss.idx, start := sg, op := k.iss.idx, word := w, off := off, got := [], rows := [] }]
    todo := jobs.foldl (fun l j => insertJob j l) k.todo
    iss := a.settled (.core c) (nextWord a (.core c) w sg busy fin) }

/-- The accesses of an op that starts in ac sg of state a can all be made: the effective offset is aligned (03 R77), every
word lies in the SRAM, and no bank is asked twice in an ac, of this op or of the ops before it (03 R70, R103). -/
structure SramFree (a : State) (c : CoreId) (w : OpWord) (sg : Nat) (accs : List SramAcc) : Prop where
  aligned : (a.core c).effOffset w sg % 32 = 0
  inside : ∀ x ∈ accs, x.off < sramBytes
  apart : (accs.map SramAcc.key).Nodup
  unused : ∀ x ∈ accs, x.key ∉ (a.core c).bankUse

/-- A core once the accesses of an op that starts in ac sg are claimed. -/
def claimed (k : CoreState) (sg : Nat) (accs : List SramAcc) : CoreState :=
  { k with bankUse := accs.map SramAcc.key ++ k.bankUse.filter fun u => u ≥ sg * 32 }

/-- An op of core c is in flight as f. -/
def Flies (s : State) (c : CoreId) (f : Flight) : Prop := (s.core c).flight f.id = some f

/-- What no op of a core's own arithmetic changes, from the state in which it acts: beside the core itself, the stroke's
events and, where the core faults, the registers and the halt that is due. -/
structure CoreFrame (s : State) (c : CoreId) (t : State) : Prop where
  rest : t = { s with cores := t.cores, gathered := t.gathered, regs := t.regs, halting := t.halting }
  others : ∀ d : CoreId, d.num ≠ c.num → t.core d = s.core d

/-- A core stops with a fault (03 R104, R105): it issues no further op, the module halts at the next boundary, and where
no fault of the program is recorded yet, 5210h holds code, unit, stroke, ac, op index and detail. -/
structure Stops (s : State) (c : CoreId) (op code sg detail : Nat) (t : State) : Prop where
  stopped : (t.core c).iss.stopped = true
  halts : t.halting = s.halting ++ [0x07]
  counted : t.reg 0x5210 7 = holdAdd (s.reg 0x5210 7) 1
  flagged : (t.reg 0x1110 0).getLsbD 5 = true
  first : s.reg 0x5210 7 = 0 →
    t.reg 0x5210 1 = BitVec.ofNat 64 code ∧ t.reg 0x5210 2 = BitVec.ofNat 64 c.uid ∧
    t.reg 0x5210 3 = BitVec.ofNat 64 (sg / 1024 + s.umpire.held) ∧ t.reg 0x5210 4 = BitVec.ofNat 64 (sg % 1024) ∧
    t.reg 0x5210 5 = BitVec.ofNat 64 op ∧ t.reg 0x5210 6 = BitVec.ofNat 64 detail

/-! ### Requests -/

/-- The dictionary answers, and the request is no repeat of the latest transaction of its client (10 R376, R381). -/
structure Heard (s : State) (src : Source) : Prop where
  hears : s.dictHears = true
  fresh : ∀ c x, src = .field c x → ∀ q ∈ s.dict.replies, ¬ (q.client = c ∧ q.txn = x)

/-- The state in which a request is executed: a frame of the field network has been counted. -/
def received (s : State) : Source → State
  | .field _ _ => s.setReg 0x1020 7 (holdAdd (s.reg 0x1020 7) 1)
  | .mirror _ => s

/-- A request's response follows its work r: a frame, kept against a repeat of the transaction (10 R381), or a
completion with whole words (10 R387). -/
def responded (src : Source) (r : State) (code : Nat) (data : List Byte) (last : Bool) : State :=
  match src with
  | .field c x =>
    { r with
      outbox := r.outbox ++ [.response (.field c x) (BitVec.ofNat 16 code) data last]
      dict := { r.dict with
        replies := (({ client := c, txn := x, status := code, data := data, last := last } : Reply) ::
          r.dict.replies.filter fun q => q.client ≠ c).take 64 } }
  | .mirror tag => r.hostAnswer tag.toNat code (padWords data)

/-- A request that is granted. -/
def granted (src : Source) (r : State) (data : List Byte) (last : Bool) : State := responded src r 0 data last

/-- A request that is aborted: 1101h records its code, object and source, 1102h a state conflict, and the response
holds the code alone (10 R395). -/
def aborted (src : Source) (idx sub code : Nat) (r : State) : State :=
  let a := ((((r.setRegN 0x1101 1 code).setRegN 0x1101 2 idx).setRegN 0x1101 3 sub).setRegN 0x1101 4 (srcCode src)).bumpReg
    0x1101 5 1
  responded src (if code = 0x0401 then a.conflict idx sub (srcCode src) 0 else a) code [] false

/-- The 48-byte record of a word: its bytes, stamp value and state, and CRC-32C (09 R361). -/
def recordOf (s : State) (a : Nat) : List Byte :=
  readBytes s.mem a 32 ++ leBytes 4 ((s.stampOf a).toNat % 2 ^ 32) ++ leBytes 1 ((s.stampOf a).toNat / 2 ^ 32) ++ leBytes 3 0 ++
    leBytes 4 (crc32c (readBytes s.mem a 32)).toNat ++ leBytes 4 0

/-- A state in which a program may be loaded, or is, and in which the dictionary serves writes. -/
def served (s : State) : Prop := s.st = .ready ∨ s.st = .loaded ∨ s.st = .running ∨ s.st = .held

/-! ### Crews -/

/-- A packet of a loaded crew, with no reserved field set, that its port has delivered (R5; 07 R278; 09 R371). -/
structure PacketComes (s : State) (port : Nat) (hdr : EccWord) (body : List EccWord) (kind : Nat) (r : CrewRun) : Prop where
  ofKind : pkKind hdr = kind
  came : (s.received port fun m => decide (m.take (bytesOfWords (hdr :: body)).length = bytesOfWords (hdr :: body))).1 = true
  clean : pkClean hdr = true
  bodyClean : pkBodyClean kind body = true
  crew : s.crew (pkCrew hdr) = some r

/-- Such a packet of the current step and of a layer, from the member at a position that may send it. -/
structure FromTree (s : State) (port : Nat) (hdr : EccWord) (body : List EccWord) (kind : Nat) (r : CrewRun) (l : CrewLayer)
    (from' : List Nat) (q : Nat) : Prop extends PacketComes s port hdr body kind r where
  started : r.started = true
  step : pkStep hdr = r.step
  layer : r.defn.layer (pkLayer hdr) = some l
  place : from'.find? (fun p => r.defn.rankAt l p = pkSrc hdr) = some q

/-- A step that reaches the node of one layer of one crew: it becomes n, and the crew is otherwise as it was. -/
def NodeGets (r : CrewRun) (lid : Nat) (n : NodeState) (t : State) (c : Nat) : Prop :=
  ∃ k, t.crew c = some k ∧ k = { r with nodes := k.nodes } ∧ k.node lid = n ∧ ∀ j, j ≠ lid → k.node j = r.node j

end Sys2Proof.Safety
end

