-- ==== Sys2Proof/Certificates/Slice0/Obligations.lean ====
section
/-! DEFINITION. Statements for the provers. Each docstring names what it formalises; "model's" marks what a log entry
chooses. -/

open Sys2Proof Sys2Proof.Machine Sys2Proof.Safety

/-! ### The block -/

/-- A step takes the command at the front of the queue and runs it on the state with the queue's rest; on an empty queue
the block idles (the model's choice, log 2). -/
def Obligations.StepRunsFront : Prop :=
  (∀ (s : State) (c : Instr) (cs : List Instr), s.pending = c :: cs → step s = exec c { s with pending := cs }) ∧
    ∀ s : State, s.pending = [] → step s = .next s

/-! ### Control ops (03 R75, R76, R98-R102) -/

/-- NOP, SKIP and EXIT_IF of a core or router, started as 03 R75 and R76 give: the unit goes on to its next word; SKIP
puts its N strokes before it; EXIT_IF marks the innermost loop as left when outcome bit 1 is set. Nothing else of the
state at their start changes. -/
def Obligations.NopSkipExitIf : Prop :=
  ∀ (s : State) (u : UnitId) (w : OpWord),
    let a := startState s u w
    let sg := opStart s u w
    (Issues s u 0 0 w →
      exec (.nop u) s = .next (a.setIssue u (a.settled u (nextWord a u w sg 1 (sg + 1))))) ∧
    (Issues s u 0 5 w →
      exec (.skip u) s = .next (a.setIssue u
        (a.settled u { nextWord a u w sg 1 (sg + 1) with stroke := sg / 1024 + skipN w }))) ∧
    (Issues s u 0 3 w →
      exec (.exitIf u) s = .next (a.setIssue u
        (a.settled u { nextWord a u w sg 1 (sg + 1) with
          frames := match (a.issue u).frames with
            | f :: fs => { f with leaving := f.leaving || (a.issue u).outcome.getLsbD 1 } :: fs
            | [] => [] })))

/-- HALT: the unit issues no further op, whatever op its store holds next (03 Table 3.13). STAKE: once every earlier op
is complete it arrives at its rendezvous and the unit waits (03 R100). -/
def Obligations.HaltStake : Prop :=
  ∀ (s : State) (u : UnitId) (w : OpWord),
    let a := startState s u w
    let sg := opStart s u w
    (Issues s u 0 1 w →
      exec (.halt u) s = .next (a.setIssue u { nextWord a u w sg 1 (sg + 1) with halted := true })) ∧
    ((s.issue u).halted = true ∨ (s.issue u).waiting ≠ none → ∀ unit code, s.fetch u unit code = .idle) ∧
    (Issues s u 0 4 w → a.awaits u = false →
      exec (.stake u) s = .next
        { a.setIssue u { nextWord a u w sg 1 (sg + 1) with waiting := some (stakeRdv w), stakeStroke := sg / 1024 } with
          umpire := { a.umpire with
            arrivals := a.umpire.arrivals ++ [(stakeRdv w, unitUid u, max sg (a.issue u).doneAt)] } }) ∧
    (Issues s u 0 4 w → a.awaits u = true → exec (.stake u) s = .next a)

/-- LOOP enters its body (03 R99): COUNT iterations of SPAN strokes from the LOOP's own stroke. A fifth nested loop is
condition 0x0B (04 R546). An empty body takes its strokes at once; with COUNT 0 too it never ends (the model's, log
24). The end of a loop's iteration (03 R99), at a NOP that is the last word of the body of the innermost loop, in a
unit without windows: another iteration runs SPAN strokes later; after the last one, k, the word after the body counts
from stroke p + (k + 1) * SPAN, unless an outer loop ends there too. -/
def Obligations.Loops : Prop :=
  (∀ (s : State) (u : UnitId) (w : OpWord), Issues s u 0 2 w →
     let a := startState s u w
     let sg := opStart s u w
     ((a.issue u).frames.length < 4 → loopBody w ≠ 0 →
       exec (.loop u) s = .next (a.setIssue u
         (a.settled u { nextWord a u w sg 1 (sg + 1) with
           frames := { first := (a.issue u).idx + 1, stop := (a.issue u).idx + 1 + loopBody w, count := loopCount w,
                       iter := 0, base := sg / 1024, spanStrokes := loopSpan w, leaving := false } ::
             (a.issue u).frames }))) ∧
     ((a.issue u).frames.length < 4 → loopBody w = 0 → loopCount w ≠ 0 →
       exec (.loop u) s = .next (a.setIssue u
         (a.settled u { nextWord a u w sg 1 (sg + 1) with stroke := sg / 1024 + loopCount w * loopSpan w }))) ∧
     ((a.issue u).frames.length < 4 → loopBody w = 0 → loopCount w = 0 → exec (.loop u) s = .next a) ∧
     (4 ≤ (a.issue u).frames.length → exec (.loop u) s = .next (a.unitFault u 0x0B sg 0))) ∧
  (∀ (s : State) (u : UnitId) (w : OpWord) (f : LoopFrame) (fs : List LoopFrame),
     Issues s u 0 0 w → (s.issue u).frames = f :: fs → (s.issue u).idx + 1 = f.stop → f.first < f.stop →
     (s.issue u).win = none → s.variantRecs (unitUid u) = [] →
     ((f.leaving = false ∧ (f.count = 0 ∨ f.iter + 1 < f.count)) →
       ∃ t, exec (.nop u) s = .next t ∧ (t.issue u).idx = f.first ∧
         (t.issue u).stroke = f.base + (f.iter + 1) * f.spanStrokes ∧
         (t.issue u).frames = { f with iter := f.iter + 1 } :: fs) ∧
     ((f.leaving = true ∨ (f.count ≠ 0 ∧ f.count ≤ f.iter + 1)) → (∀ g ∈ fs, g.stop ≠ f.stop) →
       ∃ t, exec (.nop u) s = .next t ∧ (t.issue u).idx = f.stop ∧
         (t.issue u).stroke = f.base + (f.iter + 1) * f.spanStrokes ∧ (t.issue u).frames = fs))

/-- ASET and AADD (03 R98, Table 3.13): the register named changes for ops that start at s + 1 or later, modulo 2^23;
an op in the same ac reads the old value; a0 stays zero; every other address register keeps its value, and so does the
rest of the module. The changes stand in the order of their ac, which both ops keep. -/
def Obligations.AddressRegisters : Prop :=
  ∀ (s : State) (c : CoreId) (w : OpWord) (v : BitVec 23),
    let a := startState s (.core c) w
    let sg := opStart s (.core c) w
    let k := a.core c
    let effect := fun v t => CoreGets a c { k.setAreg sg (aregN w) v with
      iss := a.settled (.core c) (nextWord a (.core c) w sg 1 (sg + 1)) } Ev.zero t
    (Issues s (.core c) 0 6 w → ∃ t, exec (.aset c) s = .next t ∧ effect (asetValue w) t) ∧
    (Issues s (.core c) 0 7 w → ∃ t, exec (.aadd c) s = .next t ∧ effect (k.areg sg (aregN w) + aaddImm w) t) ∧
    ((∀ p ∈ k.aPend, p.1 ≤ sg) → (k.aPend.map Prod.fst).Pairwise (· ≤ ·) →
      (∀ n later, sg < later → (k.setAreg sg (aregN w) v).areg later n =
        if n = 0 then 0 else if n = aregN w then v else k.areg later n) ∧
      (∀ n, (k.setAreg sg (aregN w) v).areg sg n = k.areg sg n) ∧
      (∀ p ∈ (k.setAreg sg (aregN w) v).aPend, p.1 ≤ sg) ∧
      ((k.setAreg sg (aregN w) v).aPend.map Prod.fst).Pairwise (· ≤ ·))

/-! ### The vector engine (03 R91-R93, Table 3.10) -/

/-- The element-wise ops on two sources: each lane below L of VD gets the op's result on the lanes of VA and VB, to be
read after the op's latency; VEC is busy for its interval. Lanes L to 255 and everything else keep their values. -/
def Obligations.TwoSourceOps : Prop :=
  ∀ (s : State) (c : CoreId) (w : OpWord) (i : Instr) (code : Nat) (f : F32 → F32 → F32 × Ev) (lat busy : Nat),
    (i, code, f, lat, busy) ∈
      ([(.vadd c, 0x01, f32Add, 4, 1), (.vsub c, 0x02, f32Sub, 4, 1), (.vmul c, 0x03, f32Mul, 4, 1),
        (.vmax c, 0x07, f32Max, 2, 1), (.vmin c, 0x08, f32Min, 2, 1), (.vdiv c, 0x10, f32Div, 14, 4)] :
        List (Instr × Nat × (F32 → F32 → F32 × Ev) × Nat × Nat)) →
    let a := startState s (.core c) w
    let sg := opStart s (.core c) w
    Issues s (.core c) 4 code w → sourcesReady a c sg [vecA w, vecB w] →
    let out := fun l => f (laneAt a c sg (vecA w) l) (laneAt a c sg (vecB w) l)
    ∃ t, exec i s = .next t ∧ VecEffect a c w sg lat busy
      [laneResults (sg + lat) (vecD w) (vecLanes w) fun l => (out l).1]
      (laneEvents (vecLanes w) fun l => (out l).2) t

/-- The element-wise ops on one source, with the immediate where the op has one; VMOV moves patterns unchanged. -/
def Obligations.OneSourceOps : Prop :=
  ∀ (s : State) (c : CoreId) (w : OpWord) (i : Instr) (code : Nat) (f : F32 → F32 × Ev) (lat busy : Nat),
    (i, code, f, lat, busy) ∈
      ([(.vaddi c, 0x05, fun a => f32Add a (vecImm w), 4, 1), (.vmuli c, 0x06, fun a => f32Mul a (vecImm w), 4, 1),
        (.vmov c, 0x0A, fun a => (a, Ev.zero), 2, 1), (.vrcp c, 0x0B, f32Rcp, 10, 2),
        (.vrsqrt c, 0x0C, f32Rsqrt, 10, 2), (.vexp c, 0x0D, f32Exp, 10, 2), (.vexp2 c, 0x0E, f32Exp2, 10, 2),
        (.vlog2 c, 0x0F, f32Log2, 10, 2), (.vsqrt c, 0x11, f32Sqrt, 14, 4)] :
        List (Instr × Nat × (F32 → F32 × Ev) × Nat × Nat)) →
    let a := startState s (.core c) w
    let sg := opStart s (.core c) w
    Issues s (.core c) 4 code w → sourcesReady a c sg [vecA w] →
    let out := fun l => f (laneAt a c sg (vecA w) l)
    ∃ t, exec i s = .next t ∧ VecEffect a c w sg lat busy
      [laneResults (sg + lat) (vecD w) (vecLanes w) fun l => (out l).1]
      (laneEvents (vecLanes w) fun l => (out l).2) t

/-- VFMA is one fused operation on three sources; VSEL takes a where c has sign bit 0 and is not NaN, else b. -/
def Obligations.ThreeSourceOps : Prop :=
  ∀ (s : State) (c : CoreId) (w : OpWord),
    let b := startState s (.core c) w
    let sg := opStart s (.core c) w
    sourcesReady b c sg [vecA w, vecB w, vecC w] →
    let x := laneAt b c sg (vecA w)
    let y := laneAt b c sg (vecB w)
    let z := laneAt b c sg (vecC w)
    (Issues s (.core c) 4 0x04 w →
      ∃ t, exec (.vfma c) s = .next t ∧ VecEffect b c w sg 4 1
        [laneResults (sg + 4) (vecD w) (vecLanes w) fun l => (f32Fma (x l) (y l) (z l)).1]
        (laneEvents (vecLanes w) fun l => (f32Fma (x l) (y l) (z l)).2) t) ∧
    (Issues s (.core c) 4 0x09 w →
      ∃ t, exec (.vsel c) s = .next t ∧ VecEffect b c w sg 2 1
        [laneResults (sg + 2) (vecD w) (vecLanes w) fun l =>
          if (z l).getLsbD 31 = false ∧ (xOfF32 (z l)).isNan = false then x l else y l] Ev.zero t)

/-- VRSUM and VRMAX reduce lanes 0 to L - 1 by the tree of 02 R62, idle lanes as +0 or as -infinity, into all 256 lanes. -/
def Obligations.Reductions : Prop :=
  ∀ (s : State) (c : CoreId) (w : OpWord),
    let a := startState s (.core c) w
    let sg := opStart s (.core c) w
    sourcesReady a c sg [vecA w] →
    let lanes := (List.range (vecLanes w)).map (laneAt a c sg (vecA w))
    let pad := fun x : F32 => lanes ++ List.replicate (256 - vecLanes w) x
    (Issues s (.core c) 4 0x12 w →
      ∃ t, exec (.vrsum c) s = .next t ∧ VecEffect a c w sg 20 4
        [laneResults (sg + 20) (vecD w) 256 fun _ => (pairTree f32Add 8 (pad 0)).1] (pairTree f32Add 8 (pad 0)).2 t) ∧
    (Issues s (.core c) 4 0x13 w →
      ∃ t, exec (.vrmax c) s = .next t ∧ VecEffect a c w sg 12 4
        [laneResults (sg + 12) (vecD w) 256 fun _ => (pairTree f32Max 8 (pad (f32Inf true))).1]
        (pairTree f32Max 8 (pad (f32Inf true))).2 t)

/-- VROT turns each pair of lanes below L by its angle (06 R227); VSEED seeds the 256 generators from the step number
of 08 R319 and the tensor id (03 R95). VUPD: each lane below L gets the step of 08 R311 from the weight, gradient,
moment and coefficient registers; the weight, the moment (rules 1 to 3) and the square (rule 3) are its results, and
the lanes that pass through for NaN or for GATE are counted with the stroke's events (08 R312, R327). -/
def Obligations.RotateSeedUpdate : Prop :=
  (∀ (s : State) (c : CoreId) (w : OpWord),
     let a := startState s (.core c) w
     let sg := opStart s (.core c) w
     let turn := fun q : Nat × Nat => rotatePair (laneAt a c sg (vecA w) q.1) (laneAt a c sg (vecA w) q.2)
       (laneAt a c sg (vecB w) q.1) (laneAt a c sg (vecC w) q.1)
     (Issues s (.core c) 4 0x14 w → sourcesReady a c sg [vecA w, vecB w, vecC w] →
       ∃ t, exec (.vrot c) s = .next t ∧ VecEffect a c w sg 12 2
         [{ ready := sg + 12
            vals := (rotPairs w).flatMap fun q =>
              [(laneKey (vecD w) q.1, (turn q).1.1), (laneKey (vecD w) q.2, (turn q).1.2)] }]
         (((rotPairs w).map fun q => (turn q).2).foldr Ev.plus Ev.zero) t) ∧
     (Issues s (.core c) 4 0x16 w →
       ∃ t, exec (.vseed c) s = .next t ∧
         CoreGets a c { a.core c with
           gens := (t.core c).gens, seeded := true,
           iss := a.settled (.core c) (nextWord a (.core c) w sg 1 (sg + 1)) } Ev.zero t ∧
         ∀ l < 256, tblGet 0 (t.core c).gens l = genSeed s.seedStep ((vecImm w).setWidth 16) l)) ∧
  (∀ (s : State) (c : CoreId) (w : OpWord),
     let a := startState s (.core c) w
     let sg := opStart s (.core c) w
     Issues s (.core c) 4 0x15 w →
     sourcesReady a c sg ([vecA w, vecB w] ++ (if vecRule w = 0 then [] else [vecC w]) ++ [vecC w + 1] ++
       (if vecRule w = 3 then [vecC w + 2, vecC w + 3] else [])) →
     let x := laneAt a c sg
     let co := x (vecC w + 1)
     let cf : Coeffs := { gate := co 0, eta := co 1, lam := co 2, beta := co 3, beta2 := co 4, eps := co 5 }
     let out := fun l => vupdLane (vecRule w) (vupdBf16 w) (vupdMonly w) cf (x (vecA w) l) (x (vecB w) l) (x (vecC w) l)
       (x (vecC w + 2) l) (x (vecC w + 3) l)
     let count := fun p : LaneOut → Bool => ((List.range (vecLanes w)).filter fun l => p (out l)).length
     ∃ t, exec (.vupd c) s = .next t ∧
       (∃ t', VecEffect a c w sg 18 2
         ([laneResults (sg + 18) (vecD w) (vecLanes w) fun l => (out l).w] ++
           (if vecRule w = 0 then [] else [laneResults (sg + 18) (vecD w + 1) (vecLanes w) fun l => (out l).m]) ++
           (if vecRule w = 3 then [laneResults (sg + 18) (vecD w + 2) (vecLanes w) fun l => (out l).q] else []))
         (laneEvents (vecLanes w) fun l => (out l).ev) t' ∧
         t = { t' with gathered := { t'.gathered with
           nanGrad := a.gathered.nanGrad + count LaneOut.nanGrad, gated := a.gathered.gated + count LaneOut.gated,
           lanes := a.gathered.lanes + vecLanes w } }))

/-- A VEC op that reads a register whose result is still on its way stops its core with fault 0x08, the register in
FAULT_DETAIL, and does no part of its work (03 R93, R104). A core's next word that cannot start stops the core with a
fault (03 R76, R104, Table 3.15): 0x01 for a word that is uncorrectable, 0x0B for one of reserved encoding, 0x0A for a
start slot already passed, 0x09 for a unit still busy. One command of each unit stands for the others, which issue
alike. What FAULT_DETAIL names of an op-store word is open (log 62). -/
def Obligations.OpFaults : Prop :=
  (∀ (s : State) (c : CoreId) (w : OpWord) (i : Instr) (code v : Nat) (srcs : List Nat),
     (i, code, srcs) ∈
       ([(.vadd c, 0x01, [vecA w, vecB w]), (.vsub c, 0x02, [vecA w, vecB w]), (.vmul c, 0x03, [vecA w, vecB w]),
         (.vfma c, 0x04, [vecA w, vecB w, vecC w]), (.vaddi c, 0x05, [vecA w]), (.vmuli c, 0x06, [vecA w]),
         (.vmax c, 0x07, [vecA w, vecB w]), (.vmin c, 0x08, [vecA w, vecB w]),
         (.vsel c, 0x09, [vecA w, vecB w, vecC w]), (.vmov c, 0x0A, [vecA w]), (.vrcp c, 0x0B, [vecA w]),
         (.vrsqrt c, 0x0C, [vecA w]), (.vexp c, 0x0D, [vecA w]), (.vexp2 c, 0x0E, [vecA w]), (.vlog2 c, 0x0F, [vecA w]),
         (.vdiv c, 0x10, [vecA w, vecB w]), (.vsqrt c, 0x11, [vecA w]), (.vrsum c, 0x12, [vecA w]),
         (.vrmax c, 0x13, [vecA w]), (.vrot c, 0x14, [vecA w, vecB w, vecC w])] : List (Instr × Nat × List Nat)) →
     let a := startState s (.core c) w
     let sg := opStart s (.core c) w
     Issues s (.core c) 4 code w →
     ((a.core c).landResults sg).pendingReg srcs = some v →
     ∃ t, exec i s = .next t ∧ Stops a c (a.core c).iss.idx 0x08 sg v t ∧
       (t.core c).vPend = ((a.core c).landResults sg).vPend ∧ CoreFrame a c t) ∧
  (∀ (s : State) (c : CoreId) (w : OpWord) (i : Instr) (unit code : Nat),
     (i, unit, code) ∈ ([(.halt (.core c), 0, 1), (.run c, 1, 1), (.fload c, 2, 1), (.drainToVreg c, 3, 2), (.vadd c, 4, 1),
       (.vread c [], 5, 1), (.vld c, 6, 1)] : List (Instr × Nat × Nat)) →
     s.issuing = true → (s.core c).iss.live = true → (s.store (.core c))[(s.core c).iss.idx]? = some w → opUnit w = unit →
     opCode w = code → opStart s (.core c) w / 1024 ≤ s.umpire.stroke →
     let a := startState s (.core c) w
     let sg := opStart s (.core c) w
     (a.core c).iss.live = true →
     let uncorrectable := 2 ≤ s.storeState (.core c)
     let fault := fun (f detail : Nat) =>
       ∃ t, exec i s = .next t ∧ Stops a c (a.core c).iss.idx f sg detail t ∧ CoreFrame a c t
     (uncorrectable → fault 0x01 (Config.storeWordAddr (storeEccKey (.core c) (s.core c).iss.idx)).toNat) ∧
     (¬ uncorrectable → unitWordOk (.core c) w = false → fault 0x0B 0) ∧
     (¬ uncorrectable → unitWordOk (.core c) w = true → sg < (s.core c).iss.reached → fault 0x0A 0) ∧
     (¬ uncorrectable → unitWordOk (.core c) w = true → (s.core c).iss.reached ≤ sg →
       sg < tblGet 0 (s.core c).iss.unitBusy (busyKey (.core c) w) → fault 0x09 0))

/-- The frame of the control ops of a core that change no rendezvous, and of every VEC op, on every path, the faults
among them: beside what the core's work in flight did before the op's start, no other core, no storage, no router,
rendezvous, table or queue changes. What that work reaches: the own core, storage, the vault's near-bank units, flits
of its own, read errors and faults. Jobs stand in the order of their ac, and the work before an ac is done job by job,
as long as one of an earlier ac is there (log 10). -/
def Obligations.CoreOpFrame : Prop :=
  (∀ (s t : State) (c : CoreId) (i : Instr),
    i ∈ ([.nop (.core c), .halt (.core c), .loop (.core c), .exitIf (.core c), .skip (.core c), .aset c, .aadd c,
      .vadd c, .vsub c, .vmul c, .vfma c, .vaddi c, .vmuli c, .vmax c, .vmin c, .vsel c, .vmov c, .vrcp c, .vrsqrt c,
      .vexp c, .vexp2 c, .vlog2 c, .vdiv c, .vsqrt c, .vrsum c, .vrmax c, .vrot c, .vupd c, .vseed c] : List Instr) →
    exec i s = .next t → t = s ∨ ∃ sg, CoreFrame (s.atStart (.core c) sg) c t) ∧
  (∀ (s : State) (c : CoreId) (sg : Nat),
    let t := s.catchUp c sg
    t = { s with cores := t.cores, regs := t.regs, doms := t.doms, halting := t.halting, mem := t.mem, ecc := t.ecc,
                 stamps := t.stamps, flits := t.flits, nb := t.nb, gathered := t.gathered } ∧
      (∀ d : CoreId, d.num ≠ c.num → t.core d = s.core d) ∧
      ((∀ j ∈ (s.core c).todo, sg ≤ j.at') → t = s.setCore c (s.core c).dropFlights)) ∧
  (∀ (s : State) (c : CoreId) (j : Job) (js : List Job) (sg n : Nat), (s.core c).todo = j :: js →
    State.runJobs c sg (n + 1) s =
      if j.at' < sg then State.runJobs c sg n ((s.setCore c { s.core c with todo := js }).runJob c j) else s) ∧
  ∀ (k : CoreState) (js : List Job), (k.todo.map Job.rank).Pairwise (· ≤ ·) →
    ((k.plan js).todo.map Job.rank).Pairwise (· ≤ ·) ∧ (k.plan js).todo.Perm (k.todo ++ js)

/-! ### The array (03 R79-R90) -/

/-- FLOAD (03 R85-R88): word j is read in ac s + floor(j / RATE), and FEED is busy for ceil(W / RATE) ac. Row k joins the tail
of queue U0 + k with its first word, holding the FLOAD's format, and valid three ac after its last word; with that word
it holds its words and scales as they were read. A ninth position is fault FEEDER_OVERFLOW, a word that is uncorrectable
fault BUS_ERROR of the op, which then does no more (03 R72, R86, R104). -/
def Obligations.FloadPushes : Prop :=
  (∀ (s : State) (c : CoreId) (w : OpWord),
    let a := startState s (.core c) w
    let sg := opStart s (.core c) w
    let k := a.core c
    let fmt := opFmt w
    let off := k.effOffset w sg
    let n := floadWords fmt (floadN w)
    let busy := ceilDiv n (opRate w)
    let id := flightId sg k.iss.idx
    let accs := (List.range n).map fun j => ({ at' := sg + j / opRate w, off := off + 32 * j, read := true } : SramAcc)
    let first := fun r => rowWordOff fmt r 0 / opRate w
    let last := fun r =>
      (if rowBlocks fmt = 0 then rowWordOff fmt r 0 + rowWords fmt - 1 else scaleWordOff fmt r) / opRate w
    Issues s (.core c) 2 1 w → SramFree a c w sg accs →
    ∃ t, exec (.fload c) s = .next t ∧
      CoreGets a c (flying a c w sg off busy (sg + busy + 2)
        (((List.range (floadN w)).flatMap fun r =>
            [early (sg + first r) id (.push (floadU0 w + r) r (sg + last r + 3)),
             atEnd (sg + last r) id (.row (floadU0 w + r) r)]) ++
          (List.range n).map fun j => early (sg + j / opRate w) id (.read j (sramBase c + off + 32 * j)))
        (claimed k sg accs)) Ev.zero t) ∧
  ∀ (s : State) (c : CoreId) (f : Flight) (at' q i v x j : Nat), Flies s c f →
    let k := s.core c
    let fmt := opFmt f.word
    let push := s.runJob c (early at' f.id (.push q i v))
    let row := s.runJob c (atEnd at' f.id (.row q i))
    let read := s.runJob c (early at' f.id (.read j x))
    let others := fun t : State => ∀ u, u ≠ q → (t.core c).queue u = k.queue u
    ((k.queue q).length < 8 →
      CoreGets s c { k with feed := (push.core c).feed } Ev.zero push ∧ others push ∧
        (push.core c).queue q = k.queue q ++
          [{ id := f.id, op := f.op, k := i, fmt := fmt, words := [], scales := [], validFrom := v }]) ∧
    (8 ≤ (k.queue q).length → Stops s c f.op 0x05 at' q push ∧ (push.core c).flight f.id = none) ∧
    (CoreGets s c { k with feed := (row.core c).feed } Ev.zero row ∧ others row ∧
      (row.core c).queue q = (k.queue q).map fun r => if r.id = f.id ∧ r.k = i then
        { r with words := (List.range (rowWords fmt)).map fun b => tblGet 0 f.got (rowWordOff fmt i b)
                 scales := if rowBlocks fmt = 0 then [] else rowScales fmt i (tblGet 0 f.got (scaleWordOff fmt i)) }
        else r) ∧
    (s.eccOf x = 0 → CoreGets s c (k.setFlight { f with got := tblSet 0 f.got j (s.word x) }) Ev.zero read) ∧
    (2 ≤ s.eccOf x → Stops (s.countRead x 1) c f.op 0x01 at' x read ∧ (read.core c).flight f.id = none)

/-- RUN (03 R79-R83, R86-R88, R90), with vectors from core SRAM, which a block format's scale word joins in its group's
first ac, and from the router: each slot's time is set, and the op goes into flight. Vector 0 enters in ac s + 3, where
the heads of its queues are kept; slot ACC + i is summed at its ac from the words and the heads, inactive units' slots
being cleared by INIT; the heads are popped at the end of their ac. A flit delivered in an ac in which the run expects
one gives it the words of that ac (04 R114). -/
def Obligations.RunSums : Prop :=
  (∀ (s : State) (c : CoreId) (w : OpWord),
    let a := startState s (.core c) w
    let sg := opStart s (.core c) w
    let k := a.core c
    let fmt := opFmt w
    let off := k.effOffset w sg
    let id := flightId sg k.iss.idx
    let wide := fmt = 2 ∨ runFmtF w = 2
    let ac := fun i j => if wide then sg + 4 * i + 4 * j / rowWords fmt else sg + i
    let words := fun i => (List.range (rowWords fmt)).map fun j =>
      ({ at' := ac i j, off := off + 32 * rowWordOff fmt i j, read := true } : SramAcc)
    let scales := fun i => if rowBlocks fmt ≠ 0 ∧ i % rowsPerGroup fmt = 0 then
      [({ at' := ac i 0, off := off + 32 * scaleWordOff fmt i, read := true } : SramAcc)] else []
    let accs := (List.range (runT w)).flatMap fun i => words i ++ scales i
    let claims := (List.range (runT w)).flatMap fun i => if fmt = 4 then words i else words i ++ scales i
    let ready := fun i => if wide then sg + 4 * i + 16 else sg + i + 13
    let busy := if wide then 4 * runT w else runT w
    let steps := (early (sg + 3) id .enter :: (List.range (runT w)).map fun i => atEnd (ready i - 1) id (.slot i)) ++
      if runPop w then [atEnd (if wide then sg + 4 * runT w + 2 else sg + runT w + 2) id .pop] else []
    let takes := ((List.range (runT w)).flatMap fun i => (List.range (rowWords fmt)).map fun j => ac i j).eraseDups.map
      fun t => ({ at' := t, op := k.iss.idx, taker := .run id } : Expect)
    let timed := fun t : State => ∀ b, tblGet 0 (t.core c).accReady b =
      if runAcc w ≤ b ∧ b < runAcc w + runT w then ready (b - runAcc w) else tblGet 0 k.accReady b
    Issues s (.core c) 1 1 w →
    (∀ u < runU w, ∀ r, (k.queue u)[k.pendingPops u]? = some r → r.fmt = runFmtF w) →
    (runBsrc w = false → SramFree a c w sg claims → (∀ e ∈ k.expects, ∀ x ∈ k.arrived, e.at' ≠ x.at') →
      ∃ t, exec (.run c) s = .next t ∧ timed t ∧
        CoreGets a c (flying a c w sg off busy (ready (runT w - 1))
          (accs.map (fun x => early x.at' id (.read ((x.off - off) / 32) (sramBase c + x.off))) ++ steps)
          { claimed k sg claims with accReady := (t.core c).accReady }) Ev.zero t) ∧
    (runBsrc w = true → (∀ e ∈ k.expects ++ takes, ∀ x ∈ k.arrived, e.at' ≠ x.at') →
      ∃ t, exec (.run c) s = .next t ∧ timed t ∧
        CoreGets a c (flying a c w sg 0 busy (ready (runT w - 1)) steps
          { k with accReady := (t.core c).accReady, expects := k.expects ++ takes
                   todo := (takes.map fun e => atEnd e.at' looseId (.want e.op)).foldl (fun l j => insertJob j l) k.todo })
          Ev.zero t)) ∧
  ∀ (s : State) (c : CoreId) (f : Flight) (at' i : Nat) (head : Nat → FeedRow), Flies s c f →
    let k := s.core c
    let w := f.word
    let fmt := opFmt w
    let enter := s.runJob c (early at' f.id .enter)
    let slot := s.runJob c (atEnd at' f.id (.slot i))
    let pop := s.runJob c (atEnd at' f.id .pop)
    let vec := (List.range (rowWords fmt)).map fun j => tblGet 0 f.got (rowWordOff fmt i j)
    let scales := if rowBlocks fmt = 0 then [] else rowScales fmt i (tblGet 0 f.got (scaleWordOff fmt i))
    let old := fun u => if runInit w then 0 else tblGet 0 k.acc (accKey u (runAcc w + i))
    ((∀ u < runU w, (k.queue u).head? = some (head u) ∧ (head u).fmt = runFmtF w ∧ (head u).validFrom ≤ at') →
      CoreGets s c (k.setFlight { f with rows := (List.range (runU w)).map head }) Ev.zero enter) ∧
    (f.rows = (List.range (runU w)).map head →
      (∃ e, CoreGets s c { k with acc := (slot.core c).acc } e slot) ∧
      (∀ u < runU w, tblGet 0 (slot.core c).acc (accKey u (runAcc w + i)) =
        (rowDot fmt vec scales (runFmtF w) (head u).words (head u).scales (old u)).1) ∧
      (∀ u, runU w ≤ u → u < 128 → tblGet 0 (slot.core c).acc (accKey u (runAcc w + i)) = old u) ∧
      ∀ u b, u < 128 → b < 256 → b ≠ runAcc w + i → runAcc w + i < 256 →
        tblGet 0 (slot.core c).acc (accKey u b) = tblGet 0 k.acc (accKey u b)) ∧
    (CoreGets s c { k with feed := (pop.core c).feed } Ev.zero pop ∧
      ∀ u, (pop.core c).queue u = if u < runU w then (k.queue u).tail else k.queue u) ∧
    ∀ (e : Expect) (g : MeshFlit), e.taker = .run f.id → k.expects.find? (fun x => x.at' = e.at') = some e →
      g.valid = true → wreadFor k g = none →
      CoreGets s c (({ k with expects := k.expects.filter fun x => x ≠ e } : CoreState).setFlight
        { f with got := (runFlitWords w f.start e.at' g.words).foldl (fun t p => tblSet 0 t p.1 p.2) f.got }) Ev.zero
        (s.deliver c e.at' g)

/-- DRAIN (03 R89, R90): slot ACC + i of all 128 units is read in ac s + i, and goes to core SRAM in ac s + i + 2, as FP32
or narrowed to BF16, or to its half of a register at the end of that ac; slots keep their values; DRAIN is busy for n
ac. -/
def Obligations.Drains : Prop :=
  (∀ (s : State) (c : CoreId) (w : OpWord),
    let a := startState s (.core c) w
    let sg := opStart s (.core c) w
    let k := a.core c
    let off := k.effOffset w sg
    let n := drainN w
    let id := flightId sg k.iss.idx
    let per := if opFmt w = 3 then 16 else 8
    let accs := (List.range (per * n)).map fun j =>
      ({ at' := sg + j / per + 2, off := off + 32 * j, read := false } : SramAcc)
    let reads := (List.range n).map fun i => early (sg + i) id (.drain i)
    let ahead := (List.range n).map fun i =>
      ({ ready := sg + i + 3
         vals := (List.range 128).map fun u => (laneKey (drainVd w + i / 2) (i % 2 * 128 + u), 0) } : RegWrite)
    (Issues s (.core c) 3 1 w → SramFree a c w sg accs →
      ∃ t, exec (.drainToSram c) s = .next t ∧
        CoreGets a c (flying a c w sg off n (sg + n + 2)
          (reads ++ (List.range (per * n)).map fun j => atEnd (sg + j / per + 2) id (.put j (sramBase c + off + 32 * j)))
          (claimed k sg accs)) Ev.zero t) ∧
    (Issues s (.core c) 3 2 w →
      ∃ t, exec (.drainToVreg c) s = .next t ∧
        CoreGets a c (flying a c w sg 0 n (sg + n + 2) reads
          { k with vPend := ahead.foldl (fun l r => insertResult r l) k.vPend }) Ev.zero t)) ∧
  ∀ (s : State) (c : CoreId) (f : Flight) (at' i j x : Nat), Flies s c f →
    let k := s.core c
    let w := f.word
    let per := if opFmt w = 3 then 16 else 8
    let vals := (List.range 128).map fun u => tblGet 0 k.acc (accKey u (drainAcc w + i))
    let narrow := slotWords (opFmt w) vals
    let keys := (List.range 128).map fun u => laneKey (drainVd w + i / 2) (i % 2 * 128 + u)
    let fill := fun r : RegWrite => if r.ready = at' + 3 ∧ r.vals.map Prod.fst = keys then { r with vals := keys.zip vals } else r
    let drain := s.runJob c (early at' f.id (.drain i))
    let put := s.runJob c (atEnd at' f.id (.put j x))
    (tblGet 0 k.accReady (drainAcc w + i) ≤ at' →
      (opCode w = 1 → CoreGets s c (k.setFlight { f with got := tblFill 0 f.got (per * i) narrow.1 }) narrow.2 drain) ∧
      (opCode w = 2 → CoreGets s c { k with vPend := k.vPend.map fill } Ev.zero drain)) ∧
    (put = { s with mem := put.mem, ecc := put.ecc, stamps := put.stamps } ∧ put.word x = tblGet 0 f.got j ∧
      put.eccOf x = 0 ∧ ∀ y, y < x ∨ x + 32 ≤ y → readByte put.mem y = readByte s.mem y)

/-- The faults of the array and of a drain (03 R86-R88, R90, Table 3.15), each at its ac with its detail: a head of
another format at the start of a RUN, or when vector 0 enters, a head absent or not valid then, a slot before its last
update. The core stops and the module halts at the next boundary; the op does no more (R104). -/
def Obligations.ArrayFaults : Prop :=
  (∀ (s : State) (c : CoreId) (w : OpWord) (q : Nat) (r : FeedRow),
    let a := startState s (.core c) w
    let sg := opStart s (.core c) w
    let k := a.core c
    Issues s (.core c) 1 1 w → (∀ e ∈ k.expects, ∀ x ∈ k.arrived, e.at' ≠ x.at') → q < runU w →
    (∀ u < q, ∀ r, (k.queue u)[k.pendingPops u]? = some r → r.fmt = runFmtF w) →
    (k.queue q)[k.pendingPops q]? = some r → r.fmt ≠ runFmtF w →
    ∃ t, exec (.run c) s = .next t ∧ Stops a c k.iss.idx 0x06 sg q t ∧ CoreFrame a c t) ∧
  ∀ (s : State) (c : CoreId) (f : Flight) (at' q i : Nat), Flies s c f →
    let k := s.core c
    let w := f.word
    let stops := fun (j : Job) code sg detail =>
      Stops s c f.op code sg detail (s.runJob c j) ∧ ((s.runJob c j).core c).flight f.id = none
    (q < runU w →
      ((∀ u < q, ∀ r, (k.queue u).head? = some r → r.fmt = runFmtF w) →
        ∀ r, (k.queue q).head? = some r → r.fmt ≠ runFmtF w → stops (early at' f.id .enter) 0x06 f.start q) ∧
      ((∀ u < runU w, ∀ r, (k.queue u).head? = some r → r.fmt = runFmtF w) →
        (∀ u < q, ∃ r, (k.queue u).head? = some r ∧ r.validFrom ≤ at') →
        (∀ r, (k.queue q).head? = some r → at' < r.validFrom) → stops (early at' f.id .enter) 0x04 at' q)) ∧
    (at' < tblGet 0 k.accReady (drainAcc w + i) →
      stops (early at' f.id (.drain i)) 0x07 at' (drainAcc w + i))

/-! ### Loads and stores of registers (03 R94, R95) -/

/-- VLD and VLDB (03 R94, 02 R42, R51): word j is read in ac s + floor(j / RATE), the register, or four registers, are on
their way from the op's start and readable three ac after the last read; with that read they have their elements,
widened to FP32. -/
def Obligations.VectorLoads : Prop :=
  (∀ (s : State) (c : CoreId) (w : OpWord),
    let a := startState s (.core c) w
    let sg := opStart s (.core c) w
    let k := a.core c
    let off := k.effOffset w sg
    let n := vmemWords (opCode w) (opFmt w)
    let busy := ceilDiv n (opRate w)
    let id := flightId sg k.iss.idx
    let accs := (List.range n).map fun j => ({ at' := sg + j / opRate w, off := off + 32 * j, read := true } : SramAcc)
    let ahead := fun regs => ({ ready := sg + busy + 2
                                vals := (List.range (256 * regs)).map fun l => (256 * vmemV w + l, 0) } : RegWrite)
    let loads := fun regs t => CoreGets a c (flying a c w sg off busy (sg + busy + 2)
      ((List.range n).map (fun j => early (sg + j / opRate w) id (.read j (sramBase c + off + 32 * j))) ++
        [atEnd (sg + busy - 1) id .load])
      { claimed k sg accs with vPend := insertResult (ahead regs) k.vPend }) Ev.zero t
    SramFree a c w sg accs →
    (Issues s (.core c) 6 1 w → ∃ t, exec (.vld c) s = .next t ∧ loads 1 t) ∧
    (Issues s (.core c) 6 3 w → ∃ t, exec (.vldb c) s = .next t ∧ loads 4 t)) ∧
  ∀ (s : State) (c : CoreId) (f : Flight) (at' : Nat), Flies s c f →
    let k := s.core c
    let w := f.word
    let n := vmemWords (opCode w) (opFmt w)
    let ready := f.start + ceilDiv n (opRate w) + 2
    let ws := (List.range n).map fun j => tblGet 0 f.got j
    let size := if opFmt w ≤ 1 then 1 else if opFmt w = 2 then 2 else 4
    let elem := fun i => leNat (((bytesOfWords ws).drop (i * size)).take size)
    let bs8 := decide (opFmt w = 4)
    let group := (blocksOfGroup bs8 ws).map (widenBlock bs8)
    let fill := fun (vals : List (Nat × F32)) (r : RegWrite) =>
      if r.ready = ready ∧ r.vals.map Prod.fst = vals.map Prod.fst then { r with vals := vals } else r
    let filled := fun vals => { k with vPend := k.vPend.map (fill vals) }
    let load := s.runJob c (atEnd at' f.id .load)
    (opCode w = 1 → opFmt w ≤ 3 →
      CoreGets s c (filled ((List.range 256).map fun i => (laneKey (vmemV w) i, widenElem (opFmt w) (elem i)))) Ev.zero load) ∧
    (opCode w = 3 →
      CoreGets s c (filled ((group.flatMap Prod.fst).zipIdx.map fun p => (256 * vmemV w + p.2, p.1)))
        ((group.map Prod.snd).foldr Ev.plus Ev.zero) load)

/-- VST and VSTB: a register narrowed, or four registers as one block group, are read at the start and reach core SRAM from
the fourth, or sixth, ac after it on (03 R94, R95; 02 R45-R49, R55); a stochastic VSTB draws once per lane for each
register. A VSTB with SR on an unseeded generator is fault 0x0B. -/
def Obligations.VectorStores : Prop :=
  (∀ (s : State) (c : CoreId) (w : OpWord),
    let a := startState s (.core c) w
    let sg := opStart s (.core c) w
    let k := (a.core c).landResults sg
    let off := k.effOffset w sg
    let n := vmemWords (opCode w) (opFmt w)
    let busy := ceilDiv n (opRate w)
    let accs := fun d => (List.range n).map fun j =>
      ({ at' := sg + d + j / opRate w, off := off + 32 * j, read := false } : SramAcc)
    let stores := fun d (ws : List EccWord) (gens : Tbl (BitVec 16)) => { claimed k sg (accs d) with
      gens := gens
      iss := a.settled (.core c) (nextWord a (.core c) w sg busy (sg + d + busy))
      todo := (ws.zipIdx.map fun p => atEnd (sg + d + p.2 / opRate w) looseId (.store (sramBase c + off + 32 * p.2) p.1)).foldl
        (fun l j => insertJob j l) k.todo }
    let elem := fun i => narrowElem (opFmt w) (opNonSat w) (k.lane (vmemV w) i)
    let size := if opFmt w ≤ 1 then 1 else if opFmt w = 2 then 2 else 4
    let blocks := chunksOf 32 ((span (vmemV w) 4).flatMap fun v => (List.range 256).map fun l => xOfF32 (k.lane v l))
    let bs8 := decide (opFmt w = 4)
    let draws := drawAll k.gens
    let plain := blocks.map (encodeOwn (if bs8 then blockBs8 else blockBs4) (opNonSat w))
    let dithered := (blocks.zip (chunksOf 32 draws.1)).map fun p => encodeStochastic (opNonSat w) p.1 p.2
    (Issues s (.core c) 6 2 w → sourcesReady a c sg [vmemV w] → SramFree a c w sg (accs 4) →
      ∃ t, exec (.vst c) s = .next t ∧
        CoreGets a c (stores 4 (packWords size ((List.range 256).map fun i => (elem i).1)) k.gens)
          (laneEvents 256 fun i => (elem i).2) t) ∧
    (Issues s (.core c) 6 4 w → sourcesReady a c sg (span (vmemV w) 4) →
      (vmemSr w = false → SramFree a c w sg (accs 6) →
        ∃ t, exec (.vstb c) s = .next t ∧
          CoreGets a c (stores 6 (groupOfBlocks bs8 (plain.map Prod.fst)) k.gens)
            ((plain.map Prod.snd).foldr Ev.plus Ev.zero) t) ∧
      (vmemSr w = true → k.seeded = true → SramFree a c w sg (accs 6) →
        ∃ t, exec (.vstb c) s = .next t ∧
          CoreGets a c (stores 6 (groupOfBlocks bs8 (dithered.map Prod.fst)) draws.2)
            ((dithered.map Prod.snd).foldr Ev.plus Ev.zero) t) ∧
      (vmemSr w = true → k.seeded = false →
        ∃ t, exec (.vstb c) s = .next t ∧ Stops a c k.iss.idx 0x0B sg 0 t ∧ CoreFrame a c t))) ∧
  ∀ (s : State) (c : CoreId) (at' x : Nat) (v : EccWord),
    let t := s.runJob c (atEnd at' looseId (.store x v))
    t = { s with mem := t.mem, ecc := t.ecc, stamps := t.stamps } ∧ t.word x = v ∧ t.eccOf x = 0 ∧
      ∀ y, y < x ∨ x + 32 ≤ y → readByte t.mem y = readByte s.mem y

/-- An op that addresses core SRAM at an offset that is not aligned is fault 0x02 with the address formed, whatever the
op (03 R77), for the ops that reach nothing else before it. -/
def Obligations.MisalignedSram : Prop :=
  ∀ (s : State) (c : CoreId) (w : OpWord) (i : Instr) (unit code : Nat),
    (i, unit, code) ∈ ([(.fload c, 2, 1), (.drainToSram c, 3, 1), (.vld c, 6, 1), (.vldb c, 6, 3), (.msend c, 5, 3),
      (.mrecv c, 5, 4), (.wread c, 5, 5)] : List (Instr × Nat × Nat)) →
    let a := startState s (.core c) w
    let sg := opStart s (.core c) w
    let off := (a.core c).effOffset w sg
    Issues s (.core c) unit code w → off % 32 ≠ 0 →
      ∃ t, exec i s = .next t ∧ Stops a c (a.core c).iss.idx 0x02 sg (sramBase c + off) t ∧ CoreFrame a c t

/-! ### Moves (03 R96, R97; 05 R172-R183; 04 R113, R115, R120, R122) -/

/-- VREAD and VWRITE: words between core SRAM and the own vault, four an ac over the vertical channel, at the ac of 05
R176 and R177; the vault's bank and channel are in use then; corrected symbols are counted by bond, eight within 1 s mark
the bond (05 R182), and one bond more than there are spares retires the core at once (05 R183). -/
def Obligations.VaultMoves : Prop :=
  ∀ (s : State) (c : CoreId) (w : OpWord) (bonds : List Nat),
    let a := startState s (.core c) w
    let sg := opStart s (.core c) w
    let k := a.core c
    let off := k.effOffset w sg
    let n := moveLen w
    let base := bankBase c (moveBank w) + 32 * moveXword w
    let sram := sramBase c + off
    let busy := ceilDiv n 4
    let id := flightId sg k.iss.idx
    let v := a.vault c
    let acs := fun first => (List.range (ceilDiv n 8)).map fun q => first + 2 * q
    let accs := fun d read => (List.range n).map fun j => ({ at' := sg + d + j / 4, off := off + 32 * j, read := read } : SramAcc)
    let now := a.clk.now
    let recent := (v.symbols.filter fun p => p.2 + 1000 * msUnits > now) ++ bonds.map fun b => (b, now)
    let controller := fun (first chan : Nat) (up : Bool) (t : State) =>
      (t.vault c).bankUse = (acs first).map (· * 16 + moveBank w) ++ v.bankUse.filter (· ≥ sg * 16) ∧
      (t.vault c).chanUse = ((span chan busy).map fun x => (x, up)) ++ v.chanUse.filter (fun p => p.1 + 1 ≥ sg) ∧
      (t.vault c).symbols = recent ∧ (t.vault c).spares = v.spares ∧
      (∀ b, b ∈ (t.vault c).dueBonds ↔ b ∈ v.dueBonds ∨ (b ∈ bonds ∧ 8 ≤ (recent.filter fun p => p.1 = b).length)) ∧
      ∀ d : CoreId, d.num ≠ c.num → t.vault d = a.vault d
    let moves := fun (first chan : Nat) (up : Bool) (fin : Nat) (jobs : List Job) (claims : List SramAcc) (t : State) =>
      controller first chan up t ∧
      (v.spares + (t.vault c).dueBonds.length ≤ 32 → ∃ t', t = { t' with vaults := t.vaults } ∧
        CoreGets a c (flying a c w sg off busy fin jobs (claimed k sg claims)) Ev.zero t') ∧
      (32 < v.spares + (t.vault c).dueBonds.length → v.retired = false →
        (t.vault c).retired = true ∧ (t.core c).iss.stopped = true ∧
        t.reg 0x5222 3 = holdAdd (a.reg 0x5222 3) 1 ∧ t.reg 0x5222 4 = BitVec.ofNat 64 c.uid)
    moveXword w + n ≤ 917504 → a.vaultDead c = false →
    (Issues s (.core c) 5 1 w → SramFree a c w sg (accs 14 false) →
      a.vaultConflict c (moveBank w) (acs (sg + 3)) (span (sg + 13) busy) true = false →
      ∃ t, exec (.vread c bonds) s = .next t ∧
        moves (sg + 3) (sg + 13) true (sg + 14 + busy)
          ((List.range n).map (fun j => early (sg + 3 + 2 * (j / 8)) id (.read j (base + 32 * j))) ++
            (List.range n).map fun j => atEnd (sg + 14 + j / 4) id (.put j (sram + 32 * j))) (accs 14 false) t) ∧
    (Issues s (.core c) 5 2 w → a.vaultDrain c = false → SramFree a c w sg (accs 0 true) →
      a.vaultConflict c (moveBank w) (acs (sg + 5)) (span (sg + 3) busy) false = false →
      ∃ t, exec (.vwrite c bonds) s = .next t ∧
        moves (sg + 5) (sg + 3) false (sg + 7 + 2 * ceilDiv n 8)
          ((List.range n).map (fun j => early (sg + j / 4) id (.read j (sram + 32 * j))) ++
            (List.range n).map fun j => atEnd (sg + 6 + 2 * (j / 8)) id (.put j (base + 32 * j))) (accs 0 true) t)

/-- MSEND puts flit f at the core's L input in ac s + f + 3, with words 8f to 8f + 7 and +0 beyond the last (04 R113);
MRECV awaits a delivery in each ac s + f, whose words it writes in that ac; WREAD sends one descriptor in ac s + 1 and
awaits its reply (03 R97, 04 R120). Under a shift reserve the port adds its delay (04 R161). A flit that meets another at
the input is lost with fault 0x01 of the router (04 R546). -/
def Obligations.MeshMoves : Prop :=
  (∀ (s : State) (c : CoreId) (w : OpWord),
    let a := startState s (.core c) w
    let sg := opStart s (.core c) w
    let k := a.core c
    let off := k.effOffset w sg
    let n := moveLen w
    let busy := ceilDiv n 8
    let id := flightId sg k.iss.idx
    let home := a.homeOf c
    let port := portCode (layerPort home.layer)
    let accs := fun read => (List.range n).map fun j => ({ at' := sg + j / 8, off := off + 32 * j, read := read } : SramAcc)
    let free := fun at' => ∀ g ∈ a.flits, ¬ (g.col = home.col.num ∧ g.port = port ∧ g.at' = at' + a.portDelay home)
    let takes := (List.range busy).map fun f =>
      ({ at' := sg + f, op := k.iss.idx, taker := .recv (sramBase c + off + 256 * f) (min 8 (n - 8 * f)) } : Expect)
    (Issues s (.core c) 5 3 w → SramFree a c w sg (accs true) → (∀ f < busy, free (sg + f + 3)) →
      ∃ t, exec (.msend c) s = .next t ∧
        t.flits = a.flits ++ (List.range busy).map (fun f =>
          { col := home.col.num, port := port, at' := sg + f + 3 + a.portDelay home
            flit := { valid := true, kind := .data, words := [] }, from' := id, nth := f }) ∧
        ∃ t', t = { t' with flits := t.flits } ∧
          CoreGets a c (flying a c w sg off busy (sg + busy + 3)
            ((List.range n).map (fun j => early (sg + j / 8) id (.read j (sramBase c + off + 32 * j))) ++
              (List.range busy).map fun f => atEnd (sg + f) id (.flit f)) (claimed k sg (accs true))) Ev.zero t') ∧
    (Issues s (.core c) 5 4 w → SramFree a c w sg (accs false) →
      (∀ e ∈ k.expects ++ takes, ∀ x ∈ k.arrived, e.at' ≠ x.at') →
      ∃ t, exec (.mrecv c) s = .next t ∧
        CoreGets a c { claimed k sg (accs false) with
          iss := a.settled (.core c) (nextWord a (.core c) w sg busy (sg + busy))
          expects := k.expects ++ takes
          todo := (takes.map fun e => atEnd e.at' looseId (.want e.op)).foldl (fun l j => insertJob j l) k.todo } Ev.zero t) ∧
    (Issues s (.core c) 5 5 w → off % 32 = 0 → moveXword w + n ≤ 524288 → off + 32 * n ≤ sramBytes → free (sg + 1) →
      ∃ t, exec (.wread c) s = .next t ∧
        t.flits = a.flits ++ [{ col := home.col.num, port := port, at' := sg + 1 + a.portDelay home
                                flit := { valid := true, kind := .desc (moveXword w) n c.num, words := [] } }] ∧
        ∃ t', t = { t' with flits := t.flits } ∧
          CoreGets a c { k with
            iss := a.settled (.core c) (nextWord a (.core c) w sg 1 (sg + 2))
            wreads := k.wreads ++
              [{ op := k.iss.idx, xword := moveXword w, len := n, addr := sramBase c + off, nextFlit := 0 }] } Ev.zero t')) ∧
  (∀ (s : State) (c : CoreId) (f : Flight) (at' i : Nat), Flies s c f →
    s.runJob c (atEnd at' f.id (.flit i)) = { s with flits := s.flits.map fun g =>
      if g.from' = f.id ∧ g.nth = i then { g with flit := { g.flit with
        words := ((List.range (min 8 (moveLen f.word - 8 * i))).map fun j => tblGet 0 f.got (8 * i + j)) ++
          List.replicate (8 - min 8 (moveLen f.word - 8 * i)) 0 } } else g }) ∧
  (∀ (s : State) (c : CoreId) (e : Expect) (addr n : Nat) (g : MeshFlit),
    let k := s.core c
    e.taker = .recv addr n → k.expects.find? (fun x => x.at' = e.at') = some e → g.valid = true → wreadFor k g = none →
    CoreGets s c { k with
      expects := k.expects.filter fun x => x ≠ e
      todo := ((g.words.take n).zipIdx.map fun p => atEnd e.at' looseId (.store (addr + 32 * p.2) p.1)).foldl
        (fun l j => insertJob j l) k.todo
      iss := { k.iss with doneAt := max k.iss.doneAt (e.at' + 1) } } Ev.zero (s.deliver c e.at' g)) ∧
  ∀ (s : State) (c : CoreId) (at' id nth : Nat) (m : MeshFlit) (g : InFlight),
    let home := s.homeOf c
    g ∈ s.flits → g.col = home.col.num → g.port = portCode (layerPort home.layer) → g.at' = at' + s.portDelay home →
    s.inject c at' m id nth = s.recordFault 0x01 home.col.uid (at' + s.portDelay home) 0 0

/-! ### The mesh (04 R107-R129) -/

/-- ROUTE holds its connection from its start ac through HOLD further ac (04 R117). ROUTER_FLIT_SWITCH moves the earliest
flit at an input, in the ac in which it is present, to every output of the connection that holds the input: over a link to
the neighbour, present there after the hop cost (04 R110), into the core of a local port, or, over its vault's channel, as
a command or open flit (04 R111, R112; 05 R179, R180); one flit an ac leaves by an output, and a second, or one onto a
dead link, is lost with fault 0x01 naming the router (04 R546). Without a connection a valid flit is dropped with that
fault, an empty one just dropped. An open connection of a port engine shows its next flit when it holds every credit. -/
def Obligations.RoutersSwitch : Prop :=
  (∀ (s : State) (r : ColId) (w : OpWord), Issues s (.router r) 1 1 w →
    let a := startState s (.router r) w
    let sg := opStart s (.router r) w
    let hold := routeHold w
    ∃ t, exec (.route r) s = .next t ∧ t = { a with routers := t.routers } ∧
      (t.router r).iss = a.settled (.router r) (nextWord a (.router r) w sg (hold + 1) (sg + hold + 1)) ∧
      (t.router r).outUse = (a.router r).outUse ∧
      (t.router r).conns = ((a.router r).conns.filter fun q => q.last + 2048 ≥ sg) ++
        [{ idx := (a.router r).iss.idx, inp := routeIn w, out := routeOut w, since := sg, last := sg + hold,
           opened := routeOpen w, vsink := routeVsink w, shown := sg }] ∧
      ∀ q : ColId, q.num ≠ r.num → t.router q = a.router q) ∧
  (∀ (s : State) (r : ColId) (x : Crossing) (g h : InFlight),
    let p := portCode x.port
    let u := (s.advanceSigma g.at').readyInput r x.port g.at'
    let rest := { u with flits := u.flits.filter fun y => y ≠ h }
    s.issuing = true → g ∈ s.flits → g.col = r.num → g.port = p → g.at' / 1024 ≤ s.umpire.stroke →
    (∀ y ∈ s.flits, y.col = r.num → y.port = p → g.at' < y.at' ∨ y.at' = g.at') →
    u.flits.find? (fun y => y.col = r.num ∧ y.port = p ∧ y.at' = g.at') = some h →
    (∀ q, connAt (u.router r) p g.at' = some q →
      exec (.routerFlitSwitch r x) s =
        .next ((outPorts q.out).foldl (fun t o => t.toOutput r q g.at' h.flit x.bonds o) rest)) ∧
    (connAt (u.router r) p g.at' = none →
      exec (.routerFlitSwitch r x) s =
        .next (if h.flit.valid then rest.recordFault 0x01 r.uid g.at' 0 0 else rest))) ∧
  (∀ (s : State) (r : ColId) (q : Conn) (t : Nat) (f : MeshFlit) (bonds : List (Nat × Nat)) (o : RPort),
    let k := s.router r
    let key := t * 8 + portCode o
    let out := s.toOutput r q t f bonds o
    let lost := fun u : State => u.recordFault 0x01 r.uid t 0 0
    let used := s.setRouter r { k with outUse := key :: k.outUse.filter fun y => y ≥ (t - 1024) * 8 }
    (key ∈ k.outUse → out = lost s) ∧
    (key ∉ k.outUse →
      (∀ n p', portLayer o = none → o ≠ .aux → neighbour r o = some (n, p') → s.linkDead r o = false →
        out = { used with flits := s.flits ++ [{ col := n.num, port := portCode p', at' := t + hopCost r n, flit := f }] }) ∧
      (portLayer o = none → o ≠ .aux → (neighbour r o = none ∨ s.linkDead r o = true) → out = lost used) ∧
      ∀ l, portLayer o = some l →
        let home : CoreId := ⟨r.s, r.x, r.y, l⟩
        let c := s.servedBy home
        (q.vsink = false → out = used.deliver c (t + 1 + s.portDelay home) f) ∧
        (q.vsink = true → q.opened = false → out = used.commandFlit c t f bonds))) ∧
  ∀ (s : State) (r : ColId) (x : Crossing) (q : Conn) (f : MeshFlit) (fs : List MeshFlit),
    let key := r.num * 16384 + q.idx
    s.issuing = true → x.port = .aux → (portOfRouter r).isSome = true → (∀ g ∈ s.flits, ¬ (g.col = r.num ∧ g.port = 7)) →
    s.openConn r = some q → tblGet [] s.openQ key = f :: fs → s.hasCredits key = true →
    ∃ t, exec (.routerFlitSwitch r x) s = .next t ∧ tblGet [] t.openQ key = fs

/-- A descriptor joins the merge group of equal operands whose window of 8 ac is open, or opens its own (04 R121); the
oldest group is read eight words an ac from its first arrival plus 8 on, and each distinct arrival a is answered by
flits at the well router's AUX input from ac a + 9 on, each with the words read for it (04 R122, R123). An uncorrectable
word is a bus error of every member (05 R188). -/
def Obligations.WellsAnswer : Prop :=
  (∀ (s : State) (w : RegionId),
    s.issuing = true →
    (∀ a x l core rest, (s.well w).inbox = (a, x, l, core) :: rest → a / 1024 ≤ s.umpire.stroke →
      ∃ t, exec (.wellDescriptorArrival w) s = .next t ∧
        t = { s with clk := (s.advanceSigma a).clk, wells := t.wells } ∧
        (t.well w).inbox = rest ∧ (t.well w).replies = (s.well w).replies ∧ (t.well w).reads = (s.well w).reads ∧
        (∀ x : RegionId, x.num ≠ w.num → t.well x = s.well x) ∧
        (∀ before g after, (s.well w).groups = before ++ g :: after →
          (∀ h ∈ before, ¬ (h.xword = x ∧ h.len = l ∧ a ≤ h.first + 7)) → g.xword = x → g.len = l → a ≤ g.first + 7 →
          (t.well w).groups = before ++ { g with members := g.members ++ [(a, core)] } :: after) ∧
        ((∀ h ∈ (s.well w).groups, ¬ (h.xword = x ∧ h.len = l ∧ a ≤ h.first + 7)) →
          (t.well w).groups = (s.well w).groups ++ [{ first := a, xword := x, len := l, members := [(a, core)] }])) ∧
    ∀ g gs, (s.well w).groups = g :: gs → (g.first + 8) / 1024 ≤ s.umpire.stroke → s.wellUsable w = true →
      let times := (g.members.map Prod.fst).eraseDups.flatMap fun a =>
        (List.range (ceilDiv g.len 8)).map fun f => (g.first + 8 + f, a + 9 + f)
      let held := (s.well w).replies.filter (fun p => p.2 + 2048 ≥ g.first + 8) ++ times
      (∀ j < g.len, (g.first + 8 + j / 8) * 16 + (g.xword + j) % 16 ∉ (s.well w).bankUse) →
      (times.map Prod.snd).Nodup → (∀ p ∈ times, ∀ q ∈ (s.well w).replies, q.2 ≠ p.2) →
      (∀ p ∈ held, heldReplies held (p.1 + 1) ≤ 16) →
      ∃ t, exec (.wellGroupRead w) s = .next t ∧
        t = { s with clk := (s.advanceSigma (g.first + 8)).clk, wells := t.wells, flits := t.flits } ∧
        (t.well w).groups = gs ∧ (t.well w).replies = held ∧
        (t.well w).reads.Perm ((s.well w).reads ++ (List.range (ceilDiv g.len 8)).map fun f =>
          { at' := g.first + 8 + f, xword := g.xword, len := g.len, flit := f, id := groupId g, cores := g.members.map Prod.snd }) ∧
        t.flits = s.flits ++ (g.members.map Prod.fst).eraseDups.flatMap (fun a =>
          (List.range (ceilDiv g.len 8)).map fun f =>
            { col := w.router.num, port := 7, at' := a + 9 + f
              flit := { valid := true, kind := .reply g.xword g.len f, words := [] }, from' := groupId g, nth := f })) ∧
  ∀ (s : State) (w : RegionId) (r : WellRead),
    let n := min 8 (r.len - 8 * r.flit)
    let addr := fun j => wellBase w + 32 * (r.xword + 8 * r.flit) + 32 * j
    ((∀ j < n, s.eccOf (addr j) = 0) → s.wellRead w r = { s with flits := s.flits.map fun g =>
      if g.from' = r.id ∧ g.nth = r.flit then { g with flit := { g.flit with
        words := ((List.range n).map fun j => s.word (addr j)) ++ List.replicate (8 - n) 0 } } else g }) ∧
    ((∃ j < n, 2 ≤ s.eccOf (addr j)) →
      (∀ c ∈ r.cores, ((s.wellRead w r).core (coreOfNum c)).iss.stopped = true) ∧
      ∀ g ∈ (s.wellRead w r).flits, ¬ (g.from' = r.id ∧ g.flit.words = []))

/-- OPEN_FLIT_WRITE: the words of the oldest flit at a sink reach their addresses with good check bits, after the accesses
that the schedule places before it, and no other byte of memory changes; LAST fills the mailbox; the route has its credit
back; a DEST outside the sink, or in a dead unit, writes nothing and is counted at the port that sent it (01 R22; 04
R127-R129; 09 R349). A seal that waited for the words goes on (07 R297). AUX_FLIT_TAKE: a port engine takes the oldest
flit of its router: an Amrax engine a READY header, counting any other flit as a delivery error; an Epmond engine each
request of the flit (09 R329, R351; 08 R279). -/
def Obligations.FlitsTaken : Prop :=
  (∀ (s : State) (k : SinkId) (f : OpenFlit) (fs : List OpenFlit),
     tblGet [] s.sinks (sinkKey k) = f :: fs → f.words.length = 8 →
     let h := f.words.getD 0 0
     let credit := creditKey f.route (sinkKey k)
     let taken := { s with sinks := tblSet [] s.sinks (sinkKey k) fs,
                           openUsed := tblMod 0 s.openUsed credit (· - 1) }
     let b := taken.beforeSink k ((List.range (openN h)).map fun j => openDest h + 32 * j) f.at'
     ∃ v, exec (.openFlitWrite k) s = .next ((s.crews.map Prod.fst).foldl (fun t c => t.trySeal c) v) ∧
       ((∀ e ∈ s.crews, e.2.sealed = none) → exec (.openFlitWrite k) s = .next v) ∧
       tblGet [] v.sinks (sinkKey k) = fs ∧ tblGet 0 v.openUsed credit = tblGet 0 s.openUsed credit - 1 ∧
       (inSink k h = true → s.sinkLive k = true →
         (∀ j < openN h, v.word (openDest h + 32 * j) = f.words.getD (j + 1) 0 ∧ v.eccOf (openDest h + 32 * j) = 0) ∧
         (∀ a, a < openDest h ∨ openDest h + 32 * openN h ≤ a → readByte v.mem a = readByte b.mem a) ∧
         (∀ m, v.mailbox m = if openLast h = true ∧ m = openMb h then b.mailbox m + 1 else b.mailbox m) ∧
         v.regs = b.regs) ∧
       (inSink k h = false ∨ s.sinkLive k = false → v.mem = s.mem ∧ v.ecc = s.ecc ∧ v.umpire = s.umpire ∧
         v.reg (0x7210 + f.port) 7 = holdAdd (s.reg (0x7210 + f.port) 7) 1)) ∧
  (∀ (s : State) (r : ColId) (f : MeshFlit) (fs : List MeshFlit) (i : Nat),
     tblGet [] s.engineIn r.num = f :: fs → portOfRouter r = some i →
     ∃ t, exec (.auxFlitTake r) s = .next t ∧ tblGet [] t.engineIn r.num = fs ∧
       (f.valid = false → t.ports = s.ports ∧ t.regs = s.regs) ∧
       (f.valid = true → i < 24 →
         (readyHeader (f.words.headD 0) = true →
           (t.port i).inbox = (s.port i).inbox ++ [(fromCore, bytesOfWord (f.words.headD 0))] ∧ t.regs = s.regs) ∧
         (readyHeader (f.words.headD 0) = false →
           t.ports = s.ports ∧ t.reg (0x7210 + i) 7 = holdAdd (s.reg (0x7210 + i) 7) 1)) ∧
       (f.valid = true → 24 ≤ i → i < 30 →
         (t.port i).inbox = (s.port i).inbox ++ (requestsOf f.words).map fun d => (fromCore, bytesOfWords d)))

/-! ### Near-bank units and vault upkeep (05 R192-R211; 06 R229-R234) -/

/-- MV, ATTN and REDUCE at their start boundary, in idle banks whose cycles no transfer holds, with a well formed command
whose words lie in the bank: the command leaves the queue and runs for 64 ac for each near-bank stroke of Table 5.8; each
word it needs is read once before its final phase, where the results are formed, and the results reach the bank at the
end boundary (05 R200-R206; 06 R230-R234). Where in the strokes before the final phase a word is read is the model's
choice (log 10). A word that is uncorrectable stops the command with fault 0x01 (Table 5.2). -/
def Obligations.NearBankStarts : Prop :=
  (∀ (s : State) (c : CoreId) (bank : Fin 16) (st : Nat) (w : EccWord) (q : List (Nat × EccWord)),
    let b := (s.advanceSigma st).catchUp c st
    let stop := st + 64 * nbDuration w
    let final := stop - 64 * nbFinal w
    let base := bankBase c bank.val
    s.issuing = true → (s.nbUnit c bank.val).queued = (st, w) :: q → st / 1024 ≤ s.umpire.stroke → nbWordOk w = true →
    let idle := fun banks : List Nat =>
      (∀ x ∈ banks, (b.nbUnit c x).running = none) ∧ b.nbMeets c banks st stop = false
    let inside := fun o n => o + n ≤ 917504
    let at0 := fun o j => base + 32 * (o + j)
    let runs := fun (from' : State) (banks : List Nat) (got : Tbl EccWord) (words : List (Nat × Nat)) (t : State) =>
      t = { from' with cores := t.cores, nb := t.nb } ∧ (t.nbUnit c bank.val).queued = q ∧
      t.core c = { b.core c with todo := (t.core c).todo } ∧ (∀ d : CoreId, d.num ≠ c.num → t.core d = b.core d) ∧
      (∀ x ∈ banks, (t.nbUnit c x).running =
        some { start := st, final := final, stop := stop, word := w, got := got, results := [] }) ∧
      ∃ reads : List Job, reads.map Job.act = words.map (fun p => .nbRead bank.val p.1 p.2) ∧
        (∀ j ∈ reads, st ≤ j.at' ∧ j.at' < final ∧ j.late = false) ∧
        (t.core c).todo = (reads ++ [early final (nbId bank.val) (.nbForm bank.val)] ++
          banks.map fun x => atEnd (stop - 1) (nbId bank.val) (.nbEnd x)).foldl (fun l j => insertJob j l) (b.core c).todo
    let weights := matrixWords (nbWfmt w) (nbRows w) (nbK w)
    let sources := (List.range 16).filter fun x => (nbMask w).testBit x
    (nbOp w = 1 → idle [bank.val] → inside (nbW w) weights → inside (nbX w) (nbK w / 16) → inside (nbY w) (mvOutWords w) →
      ∃ t, exec (.mv c bank) s = .next t ∧ runs b [bank.val] []
        ((List.range (nbK w / 16)).map (fun j => (j, at0 (nbX w) j)) ++
          (List.range weights).map fun j => (nbK w / 16 + j, at0 (nbW w) j)) t) ∧
    (nbOp w = 2 → idle [bank.val] → inside (nbW w) 1 → inside (nbX w) (nbG w * nbD w / 16) →
      inside (nbY w) (nbG w * (1 + nbD w / 8)) → b.eccOf (at0 (nbW w) 0) = 0 →
      let slot := b.word (at0 (nbW w) 0)
      let p := fld slot 0 20
      let h0 := b.word (at0 p 0)
      let n := pageRegion (fld h0 0 4) (nbD w)
      let xn := nbG w * nbD w / 16
      let queries := (List.range xn).map fun j => (1 + j, at0 (nbX w) j)
      fld slot 192 64 = 0 → fld slot 21 3 = 0 → fld slot 26 6 = 0 → fld slot 112 16 = 0 →
      (bit slot 20 = false → ∃ t, exec (.attn c bank) s = .next t ∧ runs b [bank.val] (tblSet 0 [] 0 slot) queries t) ∧
      (bit slot 20 = true → p + 10 + 2 * n ≤ 917504 → b.eccOf (at0 p 0) = 0 → pageOk slot h0 (fld h0 192 32) (nbD w) = true →
        ∃ t, exec (.attn c bank) s = .next t ∧ runs b [bank.val] (tblSet 0 (tblSet 0 [] 0 slot) (1 + xn) h0)
          (queries ++ (List.range (9 + 2 * n)).map fun j => (2 + xn + j, at0 p (1 + j))) t)) ∧
    (nbOp w = 3 → inside (nbW w) (8 * nbRows w) → inside (nbY w) (8 * nbRows w) →
      let banks := sources ++ (if bank.val ∈ sources then [] else [bank.val])
      idle banks →
      ∃ t, exec (.reduce c bank) s = .next t ∧ runs b banks []
        (sources.zipIdx.flatMap fun p => (List.range (8 * nbRows w)).map fun j =>
          (p.2 * (8 * nbRows w) + j, bankBase c p.1 + 32 * (nbW w + j))) t)) ∧
  ∀ (s : State) (c : CoreId) (bank at' j x id : Nat) (late : Bool) (r : NbRun), (s.nbUnit c bank).running = some r →
    let w := r.word
    let rd := fun o n => (List.range n).map fun i => tblGet 0 r.got (o + i)
    let xn := nbXWords w
    let read := s.runJob c { at' := at', late := late, id := id, act := .nbRead bank j x }
    let form := s.runJob c { at' := at', late := late, id := id, act := .nbForm bank }
    let forms := fun (out : List EccWord × Ev) =>
      form = { s with nb := form.nb, gathered := s.gathered.plus out.2 } ∧
      (form.nbUnit c bank).running = some { r with
        results := out.1.zipIdx.map fun p => (bankBase c bank + 32 * (nbY w + p.2), p.1) }
    let slot := tblGet 0 r.got 0
    let h0 := tblGet 0 r.got (1 + xn)
    let n := pageRegion (fld h0 0 4) (nbD w)
    (s.eccOf x = 0 → read = s.setNb c bank { s.nbUnit c bank with running := some { r with got := tblSet 0 r.got j (s.word x) } }) ∧
    (2 ≤ s.eccOf x → bank < 16 → (read.nbUnit c bank).running = none ∧
      read.reg 0x5210 7 = holdAdd (s.reg 0x5210 7) 1 ∧ read.halting = s.halting ++ [0x07] ∧
      ∀ i ∈ (read.core c).todo, i.id ≠ nbId bank) ∧
    (nbOp w = 1 → forms (mvResults w (rd xn (matrixWords (nbWfmt w) (nbRows w) (nbK w))) (rd 0 xn))) ∧
    (nbOp w = 2 → bit slot 20 = false → forms (emptyAttn w, Ev.zero)) ∧
    (nbOp w = 2 → bit slot 20 = true → forms (attnResults w slot h0 (rd 1 xn) (rd (11 + xn) n) (rd (11 + xn + n) n))) ∧
    (nbOp w = 3 → forms (reduceResults (((List.range 16).filter fun b => (nbMask w).testBit b).zipIdx.map fun p =>
      rd (p.2 * (8 * nbRows w)) (8 * nbRows w))))

/-- NB_COMMAND_END: the work of the vault's unit goes on to the end boundary, at which a command's results reach the bank,
with good check bits, no other byte of memory changes, and the unit is free (05 R201). -/
def Obligations.NearBankEnds : Prop :=
  ∀ (s : State) (c : CoreId) (bank : Fin 16) (r : NbRun),
    (s.nbUnit c bank.val).running = some r → (s.umpire.begun = true → r.stop ≤ s.umpire.stroke * 1024 + 1024) →
    exec (.nbCommandEnd c bank) s = .next ((s.advanceSigma r.stop).catchUp c r.stop) ∧
    ∀ (base at' : Nat) (ws : List EccWord) (js : List Job),
      r.stop = at' + 1 → r.results = ws.zipIdx.map (fun p => (base + 32 * p.2, p.1)) →
      (s.core c).todo = atEnd at' (nbId bank.val) (.nbEnd bank.val) :: js → (∀ j ∈ js, r.stop ≤ j.at') →
      ∃ t, exec (.nbCommandEnd c bank) s = .next t ∧
        t = { s with clk := (s.advanceSigma r.stop).clk, cores := t.cores, mem := t.mem, ecc := t.ecc, stamps := t.stamps
                     nb := t.nb } ∧
        t.core c = ({ s.core c with todo := js } : CoreState).dropFlights ∧ (∀ d : CoreId, d.num ≠ c.num → t.core d = s.core d) ∧
        (∀ j < ws.length, t.word (base + 32 * j) = ws.getD j 0 ∧ t.eccOf (base + 32 * j) = 0) ∧
        (∀ a, a < base ∨ base + 32 * ws.length ≤ a → readByte t.mem a = readByte s.mem a) ∧
        (t.nbUnit c bank.val).running = none ∧ (t.nbUnit c bank.val).queued = (s.nbUnit c bank.val).queued

/-- BANK_REFRESH takes the rows of a bank in turn, in its next maintenance slot, and touches no byte but where an error met
there changes what is read (05 R186, R192). PATROL_SCRUB, of a word of a unit that is not dead, comes after the accesses
that the schedule places before it; it rewrites a correctable word that nothing has written since, counts what it finds,
leaves an uncorrectable word, and touches no byte or stamp (05 R193, R194, R211); a pass that has read every word is
counted, and the next begins at once (the model's choice, log 58). SCRUB_INTERVAL_END counts a pass that is not complete
once (05 R195). -/
def Obligations.VaultUpkeep : Prop :=
  ∀ (s : State) (time : Time), s.st ≠ .off →
    let u := s.advance time
    (∀ (c : CoreId) (bank : Fin 16) (upsets : List Upset),
      ∃ t, exec (.bankRefresh time c bank upsets) s = .next t ∧ t.stamps = s.stamps ∧
        ((∀ x ∈ upsets, x.data = none) → t.mem = s.mem) ∧ (upsets = [] → t = { u with vaults := t.vaults }) ∧
        (t.vault c).bankUse = ((s.vault c).nextSlot bank.val 1024 u.sigmaNow * 16 + bank.val) :: (s.vault c).bankUse ∧
        tblGet 0 (t.vault c).refreshRow bank.val = (tblGet 0 (s.vault c).refreshRow bank.val + 1) % 3584 ∧
        tblGet 0 (t.vault c).refreshes bank.val = tblGet 0 (s.vault c).refreshes bank.val + 1 ∧
        (∀ d : CoreId, d.num ≠ c.num → t.vault d = s.vault d)) ∧
    (∀ (addr : BitVec 56) (found : BitVec 2) (overtaken : Bool) (p : Place),
      let a := addr.toNat
      let b := u.beforeScrub p
      let e := if found = 0 then b.eccOf a else found.toNat
      let seen := if b.scrub.seen.contains (a / 32) then b.scrub.seen else a / 32 :: b.scrub.seen
      placeOf a = some p → s.placeDead p = false → a % 32 = 0 →
      ∃ t, exec (.patrolScrub time addr found overtaken) s = .next t ∧ t.mem = b.mem ∧ t.stamps = b.stamps ∧
        t.eccOf a = (if e = 1 ∧ overtaken = false then 0 else e) ∧
        (e = 1 → t.reg 0x5220 (ceSub a) = holdAdd (b.reg 0x5220 (ceSub a)) 1) ∧
        (2 ≤ e → t.reg 0x5220 4 = holdAdd (b.reg 0x5220 4) 1 ∧ t.reg 0x5220 5 = addr.setWidth 64 ∧ t.reg 0x5220 6 = 6) ∧
        (b.scrubSeen seen < b.scrubWords → t.scrub = { b.scrub with seen := seen } ∧ (e = 0 → t.regs = b.regs)) ∧
        (b.scrubWords ≤ b.scrubSeen seen → t.scrub.seen = [] ∧ t.scrub.passStart = u.clk.now ∧ t.scrub.late = false ∧
          t.reg 0x5220 7 = holdAdd (b.reg 0x5220 7) 1)) ∧
    (u.clk.now ≥ s.scrub.passStart + s.scrub.hours * 3600000 * msUnits → s.scrub.late = false →
      exec (.scrubIntervalEnd time) s = .next (({ u with scrub := { s.scrub with late := true } } :
        State).setReg 0x5220 8 (holdAdd (s.reg 0x5220 8) 1))) ∧
    (u.clk.now < s.scrub.passStart + s.scrub.hours * 3600000 * msUnits ∨ s.scrub.late = true →
      exec (.scrubIntervalEnd time) s = .next u)

/-! ### The umpire (04 R130-R145, R163-R168; 10 R398-R402; 12 R452, R453) -/

/-- STROKE_BOUNDARY of a running program in which nothing is lost and nothing halts: the boundary is the next of every
1,024 ac, the work of the stroke is done, its events reach 5200h and 5230h (02 R67), and the next stroke begins; one that
the power controller holds passes for no unit and is counted (12 R452, R453). While D01 does not run there is no boundary;
while no program runs, the work of vault commands goes on (04 R130, R166). -/
def Obligations.BoundaryPasses : Prop :=
  ∀ s : State, (∀ e ∈ s.vaults, e.2.dueBonds = [] ∧ e.2.retired = false) →
    let counted := fun (w t : State) =>
      t.reg 0x5200 1 = holdAdd (w.reg 0x5200 1) w.gathered.ev.sat ∧
      t.reg 0x5200 2 = holdAdd (w.reg 0x5200 2) w.gathered.ev.ovfNan ∧
      t.reg 0x5200 3 = holdAdd (w.reg 0x5200 3) w.gathered.ev.inf ∧
      t.reg 0x5200 4 = holdAdd (w.reg 0x5200 4) w.gathered.ev.invalid ∧
      t.reg 0x5200 5 = holdAdd (w.reg 0x5200 5) w.gathered.ev.blockNan ∧
      t.reg 0x5230 1 = holdAdd (w.reg 0x5230 1) w.gathered.nanGrad ∧
      t.reg 0x5230 2 = holdAdd (w.reg 0x5230 2) w.gathered.gated ∧
      t.reg 0x5230 3 = holdAdd (w.reg 0x5230 3) w.gathered.lanes
    (s.clk.d01 = true → s.issuing = true →
      let sg := (s.umpire.stroke + 1) * 1024
      let w := ((s.advanceAc s.umpire.nextB).wellsTo sg).catchUpAll sg
      let j := s.umpire.stroke + s.umpire.held + 1
      let hold := (j + 1) * s.power.k / 16 > j * s.power.k / 16
      w.halting = [] →
      ∃ t, exec (.strokeBoundary []) s = .next t ∧ counted w t ∧
        t.reg 0x3000 10 = holdAdd (s.reg 0x3000 10) (if hold then 1 else 0) ∧
        t = { w with regs := t.regs, gathered := Gathered.zero,
                     umpire := { s.umpire with
                       nextB := s.umpire.nextB + 1024, evaluated := false, holding := decide hold
                       held := s.umpire.held + (if hold then 1 else 0)
                       stroke := s.umpire.stroke + (if hold then 0 else 1) } }) ∧
    (s.clk.d01 = false → ∀ missing, exec (.strokeBoundary missing) s = .next s) ∧
    (s.clk.d01 = true → s.st ≠ .running → s.umpire.begun = false →
      let b := (acNow s.clk / 1024 + 1) * 1024
      let w := ((s.advanceAc b).wellsTo b).catchUpAll b
      ∃ t, exec (.strokeBoundary []) s = .next t ∧ counted w t ∧ t = { w with regs := t.regs, gathered := Gathered.zero })

/-- STROKE_BOUNDARY with a halt due, of a program not all of whose cores have halted, where no step release falls at the
boundary and no region waits to be retired: the module is HELD with the largest cause alone (10 R402); flits, connections
and waiting commands are discarded, and no vault loses a byte (04 R166). -/
def Obligations.BoundaryHalts : Prop :=
  ∀ (s : State) (h : Nat) (hs : List Nat),
    let sg := (s.umpire.stroke + 1) * 1024
    let w := ((s.advanceAc s.umpire.nextB).wellsTo sg).catchUpAll sg
    s.clk.d01 = true → s.issuing = true → w.halting = h :: hs → w.allHalted = false →
    (∀ im, s.image = some im → ∀ d ∈ s.umpire.due, d.rdv ≠ im.stepRdv) → s.supply.retireBy = [] →
    (∀ e ∈ s.vaults, e.2.dueBonds = [] ∧ e.2.retired = false) →
    ∃ t, exec (.strokeBoundary []) s = .next t ∧ t.st = .held ∧
      t.reg 0x1001 4 = BitVec.ofNat 64 (hs.foldl max h) ∧ t.reg 0x1001 3 = 4 ∧
      t.reg 0x1001 2 = holdAdd (s.reg 0x1001 2) 1 ∧ t.reg 0x6002 2 = BitVec.ofNat 64 (hs.foldl max h) ∧
      t.halting = [] ∧ t.flits = [] ∧ t.wells = [] ∧ t.image = s.image ∧
      ((∀ e ∈ w.cores, e.2.todo = []) → t.mem = w.mem) ∧
      t.umpire.mailboxes = s.umpire.mailboxes ∧ t.umpire.begun = false

/-- PROGRAM_STROKE_ZERO: the program's stroke 0 begins at the boundary fixed at the start (04 R131); every core and
router is as 03 R69 and 04 R118 leave it, but for the work of vault commands that run on, whose places count from the new
origin (04 R166); no vault or well holds a transfer, the fault generators are seeded (09 R370), and no byte of memory
changes but by that work. Then the crews send their preambles, and see the seal retained (07 R268, R297). PROGRAM_COMPLETE:
every core with a program has halted and its ops are complete (03 R102): the module enters LOADED with cause 0x06, the
image kept (10 R400), unless a fault came with the last work; while an op still works, the program goes on. -/
def Obligations.BeginsAndCompletes : Prop :=
  (∀ s : State, s.st = .running → s.umpire.startPending = true → tblRising none s.cores = true →
     let z := s.umpire.zeroAc
     let b := (s.advanceAc z).catchUpAll z
     let ids := s.crews.map Prod.fst
     ∃ v : State, exec .programStrokeZero s =
         .next (ids.foldl (fun t c => t.retainedSeal c) (ids.foldl (fun t c => t.startCrew c) v)) ∧
       (s.crews = [] → exec .programStrokeZero s = .next v) ∧
       v = { b with
         cores := v.cores, routers := [], flits := [], wells := [], openUsed := b.heldCredits, vaults := v.vaults
         nb := v.nb, ports := v.ports
         umpire := { s.umpire with
           startPending := false, begun := true, held := 0, stroke := 0, nextB := z + 1024, deadlineBase := b.clk.now } } ∧
       (∀ c, v.core c = { CoreState.start with
         todo := ((b.core c).todo.filter Job.ofVault).map fun j => { j with at' := j.at' - z } }) ∧
       (∀ r, v.router r = RouterState.start) ∧ (∀ e ∈ v.vaults, e.2.bankUse = [] ∧ e.2.chanUse = []) ∧
       (∀ e ∈ v.nb, e.2.queued = []) ∧
       (∀ i < 31, v.port i = { s.port i with rng := fiSeed (s.regN 0x7400 2) i })) ∧
  (∀ s : State, s.st = .running → s.umpire.begun = true → s.umpire.repair = none → s.halting = [] → s.supply.retireBy = [] →
     let b := if s.lastDone < 1024 * s.umpire.stroke then s.addGathered else s.atBoundary
     (s.allComplete ((s.umpire.stroke + 1) * 1024) = true → b.halting = [] →
       ∃ t, exec .programComplete s = .next t ∧ t.st = .loaded ∧ t.reg 0x1001 4 = 6 ∧ t.reg 0x1001 3 = 4 ∧
         t.reg 0x6002 2 = 6 ∧ t.reg 0x6002 3 = holdAdd (s.reg 0x6002 3) 1 ∧ t.image = s.image ∧
         (t.reg 0x1110 0).getLsbD 0 = true ∧ (t.reg 0x1110 0).getLsbD 3 = true ∧
         t.umpire.mailboxes = s.umpire.mailboxes ∧ ((∀ e ∈ b.cores, e.2.todo = []) → t.mem = b.mem)) ∧
     (s.allComplete ((s.umpire.stroke + 1) * 1024) = false ∨ b.halting ≠ [] → exec .programComplete s = .next s))

/-- RENDEZVOUS_EVALUATION, once a stroke in ac 992 (04 R135): a satisfied rendezvous is due at the next boundary, later by
its shed delay while power is shed (04 R136, 12 R450); one whose participants have all arrived starts its timer
(04 R138). Fills and arrivals stay. -/
def Obligations.RendezvousEvaluated : Prop :=
  ∀ (s : State) (r : RdvEntry), s.evaluating = true → s.umpire.evaluated = false → r ∈ s.rdvs →
    (s.rdvs.map RdvEntry.id).Nodup → (∀ d ∈ s.umpire.due, d.rdv ≠ r.id) →
    ∃ t, exec .rendezvousEvaluation s = .next t ∧
      t = { s with clk := (s.advanceAc (s.umpire.nextB - 32)).clk, regs := t.regs, umpire := { s.umpire with
        evaluated := true, evalAt := t.clk.now, due := t.umpire.due, timers := t.umpire.timers } } ∧
      (s.satisfied r = true → ∃ d ∈ t.umpire.due, d.rdv = r.id ∧ d.word = s.releaseWord r ∧
        d.at' = s.umpire.stroke + s.umpire.held + 1 + (if s.power.shedding ∧ 0 < r.shed then r.shed else 0)) ∧
      (s.satisfied r = false → (∀ d ∈ t.umpire.due, d.rdv ≠ r.id) ∧
        (s.arrivedAll r = true → tblFind s.umpire.timers r.id = none →
          tblFind t.umpire.timers r.id = some t.clk.now))

/-- RENDEZVOUS_RELEASE of a rendezvous that is neither the step's nor the dispatch's (04 R136, R137; 03 R99, R100): each
mailbox falls by its count, but under TIMEOUT; every participant resumes at the present stroke with the release word as
its outcome and its loops moved by its wait. -/
def Obligations.RendezvousReleases : Prop :=
  ∀ (s : State) (rdv : BitVec 12) (r : RdvEntry) (d : Due) (before after : List Due),
    s.evaluating = true → s.umpire.holding = false → s.rdv rdv.toNat = some r →
    s.umpire.due = before ++ d :: after → (∀ e ∈ before, e.rdv ≠ rdv.toNat) → d.rdv = rdv.toNat →
    d.at' ≤ s.umpire.stroke + s.umpire.held → (s.image.map (·.stepRdv)) ≠ some rdv.toNat → s.isDispatch rdv.toNat = false →
    (r.refs.map Prod.fst).Nodup → r.units.Nodup → (∀ u ∈ r.units, u < 65536) →
    ∃ t, exec (.rendezvousRelease rdv) s = .next t ∧
      t = { s with cores := t.cores, routers := t.routers, umpire := { s.umpire with
        due := s.umpire.due.filter fun e => e.rdv ≠ rdv.toNat
        arrivals := s.umpire.arrivals.filter fun a => a.1 ≠ rdv.toNat
        timers := t.umpire.timers, mailboxes := t.umpire.mailboxes } } ∧
      tblFind t.umpire.timers rdv.toNat = none ∧
      (∀ m n, (m, n) ∈ r.refs →
        (t.mailbox m).toNat = if d.word.getLsbD 0 then (s.mailbox m).toNat else (s.mailbox m).toNat - n) ∧
      (∀ m, m ∉ r.refs.map Prod.fst → t.mailbox m = s.mailbox m) ∧
      (∀ uid ∈ r.units, ∀ u, unitOfUid uid = some u →
        let i := s.issue u
        t.issue u = s.settled u { i with
          stroke := s.umpire.stroke, reached := s.umpire.stroke * 1024, waiting := none, outcome := d.word
          frames := i.frames.map fun f => { f with base := f.base + (s.umpire.stroke - i.stakeStroke) } }) ∧
      ∀ u, unitUid u ∉ r.units → t.issue u = s.issue u

/-- RENDEZVOUS_TIMEOUT where the stroke's evaluation, in ac 992, came at or after the end of the timeout (04 R135, R138): a
release with TIMEOUT falls due at the next boundary, or the module halts with cause 0x08, and 6006h records it; before such
an evaluation nothing happens. STEP_DEADLINE halts the module with cause 0x09 (04 R142). -/
def Obligations.TimeoutsAct : Prop :=
  ∀ (s : State) (rdv : BitVec 12) (r : RdvEntry) (t0 : Time) (im : Image),
    s.evaluating = true → s.image = some im →
    let logged := fun (t : State) (id kind : Nat) =>
      t.reg 0x6006 1 = BitVec.ofNat 64 id ∧ t.reg 0x6006 2 = BitVec.ofNat 64 kind ∧
      t.reg 0x6006 3 = BitVec.ofNat 64 (s.umpire.stroke + s.umpire.held) ∧ t.reg 0x6006 4 = holdAdd (s.reg 0x6006 4) 1
    (s.rdv rdv.toNat = some r → tblFind s.umpire.timers rdv.toNat = some t0 →
      (s.umpire.evaluated = true → t0 + r.timeoutMs * msUnits ≤ s.umpire.evalAt →
        ∃ t, exec (.rendezvousTimeout rdv) s = .next t ∧
          (r.release = true → logged t rdv.toNat 1 ∧ t.halting = s.halting ∧
            t = { s with regs := t.regs, umpire := { s.umpire with
              timers := tblDel s.umpire.timers rdv.toNat
              due := s.umpire.due ++
                [{ rdv := rdv.toNat, word := 1, at' := s.umpire.stroke + s.umpire.held + 1, shed := false }] } }) ∧
          (r.release = false → logged t rdv.toNat 2 ∧
            t = { s with regs := t.regs, halting := s.halting ++ [0x08], umpire := { s.umpire with
              timers := tblDel s.umpire.timers rdv.toNat } })) ∧
      (s.umpire.evaluated = false ∨ s.umpire.evalAt < t0 + r.timeoutMs * msUnits →
        exec (.rendezvousTimeout rdv) s = .next s)) ∧
    ∃ t, exec .stepDeadline s = .next t ∧ logged t im.stepRdv 3 ∧
      t = { s with regs := t.regs, halting := s.halting ++ [0x09],
                   clk := (s.advance (s.umpire.deadlineBase + im.deadlineMs * msUnits)).clk }

/-- SPLIT_SELECTION, when the dispatch mailbox holds a fill for which no selection waits: the cox adds, for each entry of the
split table, the variant of the batch size that the dispatch mailbox names to the selections that wait for a release
(05 R215-R217). With a pool the call of that fill begins with its lanes, or waits for the end of the present one (06 R239; a
batch above BMAX and a fill during a call are the model's choices, log 64). -/
def Obligations.SplitSelects : Prop :=
  ∀ (s : State) (time : Time) (sp : Split) (m : MbEntry) (n : Nat),
    s.split = some sp → s.dispatchBox = some (m, n) → s.st = .running →
    let enough := (s.umpire.selNext.length + 1) * n ≤ (s.mailbox m.id).toNat
    let read := (s.advance time).coxWord m.watch
    let named := fld read.2 128 16
    let b := if named = 0 then 1 else named
    let chosen := s.umpire.selNext ++ [(b, sp.entries.map fun (e : SplitEntry) =>
      (e.window, if b ≤ 8 then 0 else if b ≤ 31 then e.sel.getD (b - 9) 0 else e.nvar - 1))]
    let selected : State := { read.1 with umpire := { s.umpire with selNext := chosen } }
    (enough → s.pages.pool = none → exec (.splitSelection time) s = .next selected) ∧
    (enough → ∀ pool, s.pages.pool = some pool →
      (s.pages.call ≠ [] → exec (.splitSelection time) s = .next
        { selected with pages := { s.pages with waiting := s.pages.waiting ++ [(m.watch, b)] } }) ∧
      (s.pages.call = [] → ∃ t, exec (.splitSelection time) s = .next t ∧ t.umpire = selected.umpire ∧
        t.pages.call.length = min b pool.bmax ∧ t.pages.round = 0)) ∧
    (¬ enough → exec (.splitSelection time) s = .next (s.advance time))

/-- SHIFT_REPAIR_RESUME (04 R163, Table 4.13): the lost core is dead in the floor plan, the vaults from its position to
its segment's end have gone one place east, every byte of theirs with them, and the step restarts; where a core tested is
alive, or the lost vault cannot be read, the module is HELD with cause 0x0C and no byte moves. -/
def Obligations.ShiftRepair : Prop :=
  ∀ (s : State) (time : Time) (rp : Repair) (im : Image),
    s.umpire.repair = some rp → s.image = some im → s.st = .running →
    (∀ c cause, rp.lost = [(c, cause)] →
      let mv := movedBy c (im.segEnd c)
      let b := (s.advance time).catchUpAll (2 ^ 64)
      (((b.moveWork mv).recordRepair im rp.lost).ledgerFails im.ledger (s.umpire.moved ++ mv) s.clk.level) = none →
      ∃ t, exec (.shiftRepairResume time false true) s = .next t ∧ t.st = .running ∧ t.umpire.repair = none ∧
        t.umpire.moved = s.umpire.moved ++ mv ∧ t.reg 0x6003 3 = holdAdd (s.reg 0x6003 3) 1 ∧
        t.plan.unitState (offCore c) ≠ 0 ∧ t.umpire.mailboxes = s.umpire.mailboxes ∧
        (Memory.wf b.mem → ∀ (v : CoreId) (k off : Nat), v.num ∈ mv → k < 16 → off < bankBytes →
          readByte t.mem (bankBase v k + off + 2 ^ 43) = readByte b.mem (bankBase v k + off))) ∧
    ∀ alive laneReads, (∀ e ∈ s.cores, e.2.todo = []) → s.supply.retireBy = [] → (alive = true ∨ laneReads = false) →
      ∃ t, exec (.shiftRepairResume time alive laneReads) s = .next t ∧ t.st = .held ∧ t.reg 0x1001 4 = 0x0C ∧
        t.mem = s.mem ∧ t.image = s.image ∧ t.umpire.repair = none

/-! ### The host port (01 R25; 05 R207-R213; 09 R360-R367) -/

/-- READ, WRITE and WRITE_STAMPED of storage that no near-bank command holds up, of messages that the host port has
delivered: the accesses that the schedule places before them come first (01 R26, R27); a read answers the 48-byte records in
order, an uncorrectable word ends it with 0x0610; a write stores each word with good check bits and its stamp (NONE, or
HOST with the value given), and touches no other byte; a refused request touches none; a request error is counted
(09 R361, R362; 05 R188, R189, R210; 01 R25). An address off a word, or a length that does not fit, answers 0x0611, one
outside both windows 0x0612 (09 R360, Table 9.8). -/
def Obligations.HostRequests : Prop :=
  ∀ (s : State) (t : Time) (tag nw : BitVec 8) (addr : BitVec 64) (data : List Byte),
    s.hostHears = true →
    let n := nw.toNat + 1
    let as := wordAddrs addr.toNat n
    let came := fun (ty : Nat) (d : List Byte) => (s.advance t).received 30 (hostMsg ty tag.toNat nw.toNat addr.toNat d)
    let read := exec (.hostRead t tag nw addr false) s
    let write := exec (.hostWrite t tag nw addr false data) s
    let stamped := exec (.hostWriteStamped t tag nw addr false data) s
    let answers := fun (o : Host.Outcome State Fault Refusal) (v : State) (code : Nat) => o = .next (v.hostAnswer tag.toNat code [])
    let free := fun v : State => ∀ a ∈ as, (v.settleNow as).wordHeld a = false
    let wrote := fun (v r : State) (size : Nat) =>
      (∀ j < n, r.word (addr.toNat + 32 * j) = wordOfBytes ((data.drop (size * j)).take 32) ∧
        r.eccOf (addr.toNat + 32 * j) = 0) ∧
      ∀ a, a < addr.toNat ∨ addr.toNat + 32 * n ≤ a →
        readByte r.mem a = readByte ((v.settleNow as).settleWrite as).mem a
    let refuses := fun (o : Host.Outcome State Fault Refusal) (v : State) (wr : Bool) => ∀ c, c ≠ 0 → v.judgeHost wr as = c →
      ∃ r : State, answers o r c ∧ r.mem = s.mem ∧ r.stamps = s.stamps ∧
        (c = 0x0401 → r.reg 0x1102 1 = holdAdd (s.reg 0x1102 1) 1)
    (tblFind s.hostTags tag.toNat = none → addr.toNat < 2 ^ 56 →
      ((came 1 []).1 = true → let v := (came 1 []).2
        (addr.toNat % 32 ≠ 0 → answers read v 0x0611) ∧
        (addr.toNat % 32 = 0 → refuses read v false ∧ (v.judgeHost false as = 0 →
          (s.st = .fault → s.supply.dark = true → answers read v 0x0613) ∧
          ((s.st = .fault → s.supply.dark = false) → free v →
            let u := v.settleNow as
            ((∀ a ∈ as, u.eccOf a < 2) →
              ∃ r : State, read = .next (r.hostAnswer tag.toNat 0 (as.flatMap (recordOf u))) ∧ r = { u with regs := r.regs }) ∧
            ((∃ a ∈ as, 2 ≤ u.eccOf a) → ∃ r : State, answers read r 0x0610 ∧ r.mem = u.mem ∧ r.stamps = u.stamps))))) ∧
      ((came 2 data).1 = true → let v := (came 2 data).2
        (addr.toNat % 32 ≠ 0 ∨ data.length ≠ 32 * n → answers write v 0x0611) ∧
        (addr.toNat % 32 = 0 → data.length = 32 * n → refuses write v true ∧ (v.judgeHost true as = 0 → free v →
          ∃ r : State, answers write r 0 ∧ wrote v r 32 ∧
            ∀ j < n, addr.toNat + 32 * j < 2 ^ 52 → (r.stampOf (addr.toNat + 32 * j)).toNat / 2 ^ 32 = 0))) ∧
      ((came 3 data).1 = true → stampedOk data = true → let v := (came 3 data).2
        (addr.toNat % 32 ≠ 0 ∨ data.length ≠ 40 * n → answers stamped v 0x0611) ∧
        (addr.toNat % 32 = 0 → data.length = 40 * n → refuses stamped v true ∧ (v.judgeHost true as = 0 → free v →
          ∃ r : State, answers stamped r 0 ∧ wrote v r 40 ∧
            ∀ j < n, addr.toNat + 32 * j < 2 ^ 52 → r.stampOf (addr.toNat + 32 * j) =
              BitVec.ofNat 34 (2 ^ 32 + leNat ((data.drop (40 * j + 32)).take 4)))))) ∧
    (tblFind s.hostTags tag.toNat = none → addr.toNat / 2 ^ 56 ≠ 0 → addr.toNat / 2 ^ 56 ≠ 0x80 →
      ((came 1 []).1 = true → answers read (came 1 []).2 0x0612) ∧
      ((came 2 data).1 = true → answers write (came 2 data).2 0x0612)) ∧
    (∀ bad, bad = true ∨ tblFind s.hostTags tag.toNat ≠ none →
      let err := fun v : State => Host.Outcome.next (v.setReg 0x722E 8 (holdAdd (s.reg 0x722E 8) 1))
      ((came 1 []).1 = true → exec (.hostRead t tag nw addr bad) s = err (came 1 []).2) ∧
      ((came 2 data).1 = true → exec (.hostWrite t tag nw addr bad data) s = err (came 2 data).2) ∧
      ((came 3 data).1 = true → exec (.hostWriteStamped t tag nw addr bad data) s = err (came 3 data).2))

/-- HELD_BANK_ACCESS performs the oldest access held at a bank in the next near-bank stroke ac 60 or 62, in order with the
accesses of the command that owns the bank; the request completes with its last word (05 R207, R208). HOST_REQUEST_TIMEOUT
ends a request of 1 ms with 0x0613 (09 R363). -/
def Obligations.HeldAccesses : Prop :=
  ∀ (s : State) (c : CoreId) (bank : Fin 16) (h : HeldAcc) (rest : List HeldAcc) (g : HostTag),
    s.clk.d01 = true → tblGet [] (s.vault c).held bank.val = h :: rest → tblFind s.hostTags h.tag = some g →
    (∀ a ∈ g.left, a ∈ h.addrs) →
    let slot := nextHeldSlot h.arrived
    let sg := slot - sigmaOrigin s.umpire
    let s1 := (s.advanceAc slot).setVault c { s.vault c with
      held := tblSet [] (s.vault c).held bank.val (rest.map fun x => { x with arrived := max x.arrived slot }) }
    let u := (if h.write then s1.beforeWrite c h.addrs sg else s1.beforeRead c sg).writeBack c bank.val sg h.addrs
    (slot % 64 = 60 ∨ slot % 64 = 62) ∧ h.arrived < slot ∧
    (∀ k, h.arrived < k → k < slot → k % 64 ≠ 60 ∧ k % 64 ≠ 62) ∧
    (h.write = true → g.write = true → h.words.length = h.addrs.length → h.addrs.Nodup → (∀ a ∈ h.addrs, a % 32 = 0) →
      ∃ r : State, exec (.heldBankAccess c bank) s = .next (r.hostAnswer h.tag 0 []) ∧ r.clk = u.clk ∧
        tblFind r.hostTags h.tag = none ∧ (∀ p ∈ h.addrs.zip h.words, r.word p.1 = p.2.1) ∧
        ∀ a, (∀ b ∈ h.addrs, a < b ∨ b + 32 ≤ a) → readByte r.mem a = readByte u.mem a) ∧
    (h.write = false → g.write = false → (∀ a ∈ h.addrs, u.eccOf a = 0) →
      ∃ r : State, exec (.heldBankAccess c bank) s = .next (r.hostAnswer h.tag 0
          (g.addrs.flatMap fun a => if a ∈ h.addrs then recordOf u a else tblGet [] g.got a)) ∧
        r = { u with hostTags := r.hostTags, vaults := r.vaults } ∧ tblFind r.hostTags h.tag = none) ∧
    ∀ (t : Time) (tag : BitVec 8), tag.toNat = h.tag → g.since + msUnits ≤ (s.advance t).clk.now →
      ∃ r : State, exec (.hostRequestTimeout t tag false []) s = .next (r.hostAnswer h.tag 0x0613 []) ∧
        r = { s.advance t with hostTags := r.hostTags, vaults := r.vaults } ∧ tblFind r.hostTags h.tag = none

/-- The copy engine (09 R365-R367): GO makes the channel busy and asks for its first piece; a completion stores its words
at the next addresses of the copy order, or counts the words sent, and asks for the next piece; a status, or a read of host
memory unanswered for 1 ms, stops the channel (09 R363); COPY_REQUEST_END reports STATE, ERROR and DONE_BYTES and sets
bit 9. -/
def Obligations.CopyEngine : Prop :=
  (∀ (s : State) (t : Time) (src : Source) (ch : Fin 16) (toHost record : Bool),
    Heard (s.advance t) src → served s →
    let o := 0x7230 + ch.val
    let v := BitVec.ofNat 8 (1 + (if toHost then 2 else 0) + (if record then 4 else 0))
    s.regN o 5 ≠ 1 → s.regN o 3 ≠ 0 → s.copyFits (s.regN o 2) (s.regN o 3 / 32) = true →
    ∃ r : State, exec (if toHost then .copyModuleToHost t src ch [v] else .copyHostToModule t src ch [v]) s =
        .next (granted src (r.copyAsk ch.val) [] false) ∧
      r = { received (s.advance t) src with copies := r.copies, regs := r.regs } ∧ r.reg o 5 = 1 ∧ r.reg o 7 = 0 ∧
      tblFind r.copies ch.val = some { toHost := toHost, record := record, hostAddr := s.regN o 1, start := s.regN o 2,
                                       words := s.regN o 3 / 32, done := 0, asked := 0, status := 0, since := r.clk.now }) ∧
  ∀ (s : State) (t : Time) (tag : BitVec 8) (status : BitVec 16) (data : List Byte) (j : CopyJob),
    tblFind s.copies tag.toNat = some j →
    let u := s.advance t
    let o := 0x7230 + tag.toNat
    let stopped := fun code => Host.Outcome.next { u with copies := tblPut s.copies tag.toNat { j with asked := 0, status := code } }
    let came := { j with asked := 0, done := j.done + j.asked }
    (j.asked ≠ 0 →
      (j.toHost = false → j.since + msUnits ≤ u.clk.now → exec (.hostRequestTimeout t tag true []) s = stopped 0x0613) ∧
      (j.toHost = true ∨ u.clk.now < j.since + msUnits → exec (.hostRequestTimeout t tag true []) s = .next u) ∧
      (s.hostHears = true →
        (status ≠ 0 → exec (.hostCompletionReceived t tag status data) s = stopped status.toNat) ∧
        (status = 0 → j.toHost = true →
          ∃ r : State, exec (.hostCompletionReceived t tag status data) s = .next (r.copyAsk tag.toNat) ∧
            r = { u with copies := r.copies, regs := r.regs } ∧ tblFind r.copies tag.toNat = some came ∧
            r.reg o 7 = BitVec.ofNat 64 (32 * (j.done + j.asked))) ∧
        (status = 0 → j.toHost = false → j.record = false → data.length = 32 * j.asked → j.start % 32 = 0 →
          (∀ e ∈ s.cores, e.2.todo = []) → (∀ e ∈ s.nb, e.2.running = none) → (s.st = .fault → s.supply.dark = false) →
          ∀ a : Nat → Nat, (∀ k < j.asked, u.copyAddr j.start (j.done + k) = some (a k) ∧ u.judgeHost true [a k] = 0) →
            (∀ k l, k < l → l < j.asked → a k + 32 ≤ a l) →
            ∃ r : State, exec (.hostCompletionReceived t tag status data) s = .next (r.copyAsk tag.toNat) ∧
              tblFind r.copies tag.toNat = some came ∧ r.reg o 7 = BitVec.ofNat 64 (32 * (j.done + j.asked)) ∧
              (∀ k < j.asked, r.word (a k) = wordOfBytes ((data.drop (32 * k)).take 32)) ∧
              ∀ x, (∀ k < j.asked, x < a k ∨ a k + 32 ≤ x) → readByte r.mem x = readByte s.mem x))) ∧
    ∀ ch : Fin 16, ch.val = tag.toNat →
      (j.status ≠ 0 ∨ (j.done = j.words ∧ (j.toHost = true → j.lost = false ∧ u.copyUnacked ch.val = false))) →
      ∃ r : State, exec (.copyRequestEnd t ch) s = .next r ∧ r = { u with copies := r.copies, regs := r.regs } ∧
        tblFind r.copies ch.val = none ∧ r.reg o 5 = (if j.status = 0 then 2 else 3) ∧
        r.reg o 6 = BitVec.ofNat 64 j.status ∧ r.reg o 7 = BitVec.ofNat 64 (32 * j.done) ∧
        r.reg o 8 = holdAdd (s.reg o 8) 1 ∧ (r.reg 0x1110 0).getLsbD 9 = true

/-! ### Ports (09 R328-R343) -/

/-- Flits and lane timers (09 R331-R335, R338): a good DATA flit in sequence is taken and, in its turn, delivered, the first
flit of a message that stays here beginning it; any flit brings credits and an ACK, which frees the flits up to the one it names; a NAK replays the rest of the lane in
order, and so does a flit unacknowledged for 20 us; an ACK owed for 0.1 us goes out in a FILL flit. -/
def Obligations.LanesWork : Prop :=
  ∀ (s : State) (t : Time) (port : Fin 31) (lane : BitVec 5) (f : Flit) (a : BitVec 8),
    let u := s.advance t
    let i := port.val
    let l := lane.toNat
    let p := s.port i
    let k := p.lane l
    s.laneUp i l = true →
    let good := f.payload.length = 244 ∧ f.fecOk = true ∧ f.crc = crc32c (flitBytes f) ∧ f.reserved = 0
    let corrected := fun r : State => r.reg (0x7210 + i) 3 = holdAdd (s.reg (0x7210 + i) 3) f.fecCorrected
    let replayed := fun (r q : State) =>
      q.outbox = r.outbox ++ ((r.port i).lane l).replay.map (fun x => .lane i l x.flit) ∧
      q.reg (0x7210 + i) 5 = holdAdd (r.reg (0x7210 + i) 5) 1 ∧
      ((q.port i).lane l).replay = ((r.port i).lane l).replay.map fun x => { x with since := u.clk.now }
    (good → f.ftype = 1 → f.seq.toNat = k.rxSeq →
      ∃ r : State, exec (.dataFlitReceive t port lane f) s = .next r ∧ corrected r ∧
        ((r.port i).lane l).rxSeq = (k.rxSeq + 1) % 256 ∧ ((r.port i).lane l).nakOut = false ∧
        ((∀ m, (p.lane m).rxHeld = []) → p.active.getD (p.rxK % p.active.length) 0 = l → f.eop = false → f.sop = true →
          s.regN (0x7410 + i) 4 ≠ 1 →
          (r.port i).rxK = p.rxK + 1 ∧ (s.passes i f = false →
            tblFind (r.port i).part f.vc.toNat = some { bytes := f.payload, spoilt := false, late := false }))) ∧
    (good → f.ftype = 0 → f.nak = false → p.queue = [] →
      ∃ r : State, exec (.fillFlitReceive t port lane f) s = .next r ∧ corrected r ∧
        tblGet 0 (r.port i).used f.cvc.toNat = tblGet 0 p.used f.cvc.toNat - f.ccount.toNat ∧
        (∀ left, ackList f.ack.toNat k.replay = some left → ((r.port i).lane l).replay = left) ∧
        (ackList f.ack.toNat k.replay = none → ((r.port i).lane l).replay = k.replay)) ∧
    (∀ before x left, k.replay = before ++ x :: left → x.flit.seq = a → (∀ y ∈ before, y.flit.seq ≠ a) →
      ∃ r : State, exec (.ackReceive t port lane a) s = .next (r.pump i) ∧ r = { u with ports := r.ports } ∧
        (∀ j, j ≠ i → r.port j = s.port j) ∧ r.port i = { p with lanes := (r.port i).lanes } ∧
        (∀ m, m ≠ l → (r.port i).lane m = p.lane m) ∧
        (r.port i).lane l = { k with replay := left, acked := some a.toNat, ackSince := u.clk.now } ∧
        (s.regN (0x7410 + i) 4 = 1 → k.swap = none →
          ∃ q : State, exec (.nakReceive t port lane a) s = .next q ∧ replayed (r.pump i) q)) ∧
    ((∀ y ∈ k.replay, y.flit.seq ≠ a) → exec (.ackReceive t port lane a) s = .next u) ∧
    (∀ x left, k.replay = x :: left → x.since + 20 * usUnits ≤ u.clk.now → s.regN (0x7410 + i) 4 = 1 → k.swap = none →
      ∃ q : State, exec (.replayTimeout t port lane) s = .next q ∧ replayed u q) ∧
    (0 < k.owed → 10 * k.owedSince + usUnits ≤ 10 * u.clk.now →
      ∃ (r : State) (g : Flit), exec (.ackSendTimer t port lane) s = .next r ∧ r = { u with ports := r.ports, outbox := s.outbox ++ [.lane i l g] } ∧
        g.ack = BitVec.ofNat 8 k.lastSeq ∧ g.nak = false ∧ g.ftype = 0 ∧ flitCrcOk g = true ∧
        (r.port i).lane l = { k with owed := 0 })

/-- Training (09 R336, R337, R343; 13 R480): a port retrains when no ACK has advanced for 5 ms, or its partner does; an
attempt brings it up on all lanes or one half, with its own rotation index reported, and the third failure in a row lists it dead; a partner not there within
25 s leaves it down; a LINK_ID that names another partner than the torus gives marks it MISWIRED. -/
def Obligations.PortsTrain : Prop :=
  ∀ (s : State) (t : Time) (port : Fin 31) (lane : BitVec 5) (delivered : BitVec 32) (rank : BitVec 12) (peer : BitVec 5),
    let u := s.advance t
    let i := port.val
    let o := 0x7210 + i
    let p := s.port i
    let retrains := fun r : State => r = { u with regs := r.regs } ∧ r.reg o 1 = 3 ∧ r.reg o 6 = holdAdd (s.reg o 6) 1 ∧
      (r.reg 0x1110 0).getLsbD 8 = true
    let up := fun (how : TrainEnd) (lanes : List Nat) =>
      ∃ r : State, exec (.trainingAttemptEnd t port how delivered) s = .next r ∧ r.reg o 1 = 2 ∧
        r.reg o 2 = BitVec.ofNat 64 lanes.length ∧ (r.port i).active = lanes ∧ (r.port i).failures = 0 ∧
        ∃ more, r.outbox = s.outbox ++ .rotation i (BitVec.ofNat 32 p.rxK) :: more
    let n := portLanes i
    (s.laneUp i lane.toNat = true → (p.lane lane.toNat).replay ≠ [] → (p.lane lane.toNat).ackSince + 5 * msUnits ≤ u.clk.now →
      ∃ r : State, exec (.portRetrain t port lane) s = .next r ∧ retrains r) ∧
    (s.linkState i = 2 → ∃ r : State, exec (.trainFlitReceive t port) s = .next r ∧ retrains r) ∧
    (s.linkState i = 1 ∨ s.linkState i = 3 →
      up .full (List.range n) ∧ up .lowerHalf (List.range (n / 2)) ∧ up .upperHalf ((List.range (n / 2)).map (n / 2 + ·)) ∧
      (p.failures < 2 → ∃ r : State, exec (.trainingAttemptEnd t port .failed delivered) s = .next r ∧
        r = { u with ports := r.ports } ∧ r.port i = { p with failures := p.failures + 1 }) ∧
      (2 ≤ p.failures → s.work.usable (offPort i) = true →
        ∃ r : State, exec (.trainingAttemptEnd t port .failed delivered) s = .next r ∧
          r.reg o 1 = 4 ∧ r.reg o 2 = 0 ∧ (r.port i).active = [] ∧ r.work.unitState (offPort i) = 1)) ∧
    (s.st = .bringup → s.boot.stage = 9 → s.linkState i = 1 → s.boot.since + 25000 * msUnits ≤ u.clk.now →
      ∃ r : State, exec (.portPartnerTimeout t port) s = .next r ∧ r = { u with regs := r.regs } ∧ r.reg o 1 = 0) ∧
    (i < 24 → s.expectedPartner i = some (rank.toNat, peer.toNat) →
      exec (.linkId t port rank peer) s = .next (u.setReg o 10 (BitVec.ofNat 64 rank.toNat))) ∧
    (i < 24 → s.expectedPartner i ≠ some (rank.toNat, peer.toNat) →
      ∃ r : State, exec (.linkId t port rank peer) s = .next r ∧ r = { u with regs := r.regs } ∧ r.reg o 10 = BitVec.ofNat 64 rank.toNat ∧
        r.reg o 1 = 5 ∧ r.reg 0x7200 4 = s.reg 0x7200 4 ||| BitVec.ofNat 64 (2 ^ i))

/-! ### Crews (07 R268-R299) -/

/-- READY, CHUNK, TRAILER and ZERO_RANK_TEST_END (07 R272-R276, R278, R286, R291): a notice of the current step opens its
layer's node, which is ready at once where the preamble is complete, or once its test pass has judged the own
contribution; a notice of anything else is discarded; what comes from a present child waits at the node, the events of its
widening gathered (02 R51, R62); a chunk in another wire format than the crew's is a delivery error. -/
def Obligations.CrewNodes : Prop :=
  ∀ (s : State) (t : Time) (port : Fin 31) (m : List Byte) (rest : List (Nat × List Byte)) (hdr : EccWord) (body : List EccWord)
    (r : CrewRun) (l : CrewLayer) (q : Nat),
    let u := s.advance t
    let i := port.val
    let h := wordOfBytes (m.take 32)
    let c := pkCrew h
    let node := r.node (pkLayer h)
    ((s.port i).inbox = (4, m) :: rest → pkKind h = 7 →
      (s.crew c = some r → r.started = true → pkStep h = r.step → r.defn.layer (pkLayer h) = some l → node.noticed = false →
        r.sealed = none →
        (r.complete = false →
          ∃ v : State, exec (.ready t port) s = .next v ∧ v = { u with ports := v.ports, crews := v.crews } ∧
            (v.port i).inbox = rest ∧ NodeGets r (pkLayer h) { node with noticed := true } v c) ∧
        (r.complete = true → node.ready = none → node.late = false → r.defn.nonfin ≠ 1 → s.ownPos r.defn l ≠ 0 →
          node.credit ≤ node.next → node.next < l.chunks →
          ∃ v : State, exec (.ready t port) s = .next v ∧ v.mem = s.mem ∧
            NodeGets r (pkLayer h) { node with noticed := true, ready := some u.clk.now } v c)) ∧
      ((∀ k, s.crew c = some k → k.started = false ∨ pkStep h ≠ k.step ∨ k.defn.layer (pkLayer h) = none ∨
          (k.node (pkLayer h)).noticed = true) →
        ∃ v : State, exec (.ready t port) s = .next v ∧ v = { u with ports := v.ports, regs := v.regs } ∧
          (v.port i).inbox = rest ∧ v.reg (0x7010 + c) 10 = holdAdd (s.reg (0x7010 + c) 10) 1)) ∧
    (∀ crew layer, s.crew crew.toNat = some r → r.defn.layer layer.toNat = some l →
      let n := r.node layer.toNat
      let test := (List.range l.chunks).foldl (fun (a : State × Bool) j =>
        let own := a.1.ownChunk r l j
        (own.1, a.2 || own.2.1.any fun x => !f32Finite x)) (u, false)
      r.defn.nonfin = 1 → r.complete = true → n.noticed = true → n.ready = none → n.late = false →
      s.ownPos r.defn l ≠ 0 → n.credit ≤ n.next → n.next < l.chunks →
      ∃ v : State, exec (.zeroRankTestEnd t crew layer) s = .next v ∧ v.mem = test.1.mem ∧
        NodeGets r layer.toNat { n with ready := some u.clk.now, excluded := test.2, ownNf := test.2 } v crew.toNat) ∧
    (let n := r.node l.id
      let j := pkChunk hdr
      let wide := if pkWire hdr = 4 then decodeWire body else (wordF32s body, Ev.zero)
      let used := l.chunks > j ∧ n.next ≤ j
      let came : ChunkIn :=
        { nf := pkNf hdr, sat := pkSat hdr, nfSum := pkNfSum hdr, vals := if pkEmpty hdr then none else some wide.1 }
      let events := if used ∧ pkEmpty hdr = false then wide.2 else Ev.zero
      n.ready = none → tblFind n.children q ≠ some false →
      (FromTree s i hdr body 1 r l (s.kidsOf r l) q → pkWire hdr = (if r.defn.bs8 then 4 else 3) →
        ∃ v : State, exec (.chunk t port hdr body) s = .next v ∧
          v = { u with ports := v.ports, crews := v.crews, gathered := s.gathered.plus { events with sat := 0 } } ∧
          NodeGets r l.id
            { n with
              children := if j = 0 then tblPut n.children q true else n.children
              chunks := if used then tblPut n.chunks (chunkKey q j) came else n.chunks } v (pkCrew hdr)) ∧
      (FromTree s i hdr body 2 r l (s.kidsOf r l) q →
        ∃ v : State, exec (.trailer t port hdr body) s = .next v ∧ v = { u with ports := v.ports, crews := v.crews } ∧
          NodeGets r l.id { n with trailers := tblPut n.trailers q (layerBodyOf body) } v (pkCrew hdr))) ∧
    (PacketComes s i hdr body 1 r → pkWire hdr ≠ (if r.defn.bs8 then 4 else 3) →
      ∃ v : State, exec (.chunk t port hdr body) s = .next v ∧ v = { u with ports := v.ports, regs := v.regs } ∧
        v.reg (0x7210 + i) 7 = holdAdd (s.reg (0x7210 + i) 7) 1)

/-- EPILOGUE, SEAL, PREAMBLE, CREDIT, CREW_WAIT_DEADLINE and LAYER_COMPLETE (07 R268-R270, R277, R283-R290): an epilogue
is known and fills the EPILOGUE mailboxes; a seal waits for every layer's epilogue; where no carry is to be written its
record goes to its address as an open transfer, and once no flit of it is on its way the step numbers go on and SEALED is
counted; a preamble is counted, or a crew error stops the crew and the module; a credit extends; a child whose chunk 0 has
not come by its deadline is absent with its subtree; a complete layer sends its epilogue to every other
member. -/
def Obligations.CrewEnds : Prop :=
  ∀ (s : State) (t : Time) (port : Fin 31) (hdr : EccWord) (body : List EccWord) (r : CrewRun) (l : CrewLayer) (q : Nat),
    let u := s.advance t
    let i := port.val
    let c := pkCrew hdr
    let n := r.node l.id
    let own := s.ownIdx r.defn
    let pos := s.ownPos r.defn l
    let filled := fun (v : State) (ev crew : Nat) =>
      ∀ m, v.mailbox m = s.mailbox m + BitVec.ofNat 64 ((s.crewMbs crew ev).count m)
    let bad := fun (v : State) => v = { u with ports := v.ports, regs := v.regs, crews := v.crews, halting := v.halting }
    (FromTree s i hdr body 3 r l [0] q → n.epilogue = none → own ≠ 0 → r.sealed = none →
      let b := layerBodyOf body
      ∃ v : State, exec (.epilogue t port hdr body) s = .next v ∧
        v = { u with ports := v.ports, crews := v.crews, umpire := { s.umpire with mailboxes := v.umpire.mailboxes } } ∧
        NodeGets r l.id { n with epilogue := some b, late := n.late || (b.absent.contains own && !n.noticed) } v c ∧ filled v 2 c) ∧
    (PacketComes s i hdr body 4 r → r.started = true → pkStep hdr = r.step → r.sealed = none →
      r.defn.members.head? = some (pkSrc hdr) →
      let b := sealBodyOf (pkStep hdr) body
      (s.sealReady r b = false →
        ∃ v : State, exec (.crewSeal t port hdr body) s = .next v ∧ v = { u with ports := v.ports, crews := v.crews } ∧
          v.crew c = some { r with sealed := some b, sealStage := 0 }) ∧
      (∀ sink o, s.sealReady r b = true → b.skip = true ∨ r.defn.drop = true → s.openTo r.defn.carryAreas = false →
        (placeOf r.defn.sealAddr).bind sinkOf = some sink → s.pickRoute (sinkKey sink) = some o →
        ∃ v p, exec (.crewSeal t port hdr body) s = .next v ∧
          v = { u with ports := v.ports, crews := v.crews, openQ := v.openQ } ∧
          v.openQ = tblMod [] s.openQ o.key (· ++ openFlits o.key p r.defn.sealAddr r.defn.sumMb [sealRecord b]) ∧
          ∃ k, v.crew c = some k ∧ k = { r with sealed := some b, sealStage := 2, carries := k.carries })) ∧
    (∀ (k : Nat) (b : SealBody), k < 256 → s.crew k = some r → r.started = true → r.sealed = some b → r.sealStage = 2 → r.held = [] →
      s.openTo [(r.defn.sealAddr, 32)] = false →
      let v := s.trySeal k
      (v.crew k).map CrewRun.step = some (b.step + 1) ∧ v.reg (0x7010 + k) 7 = b.step.setWidth 64 ∧
        v.reg (0x7010 + k) 12 = holdAdd (s.reg (0x7010 + k) 12) (if b.skip then 1 else 0) ∧
        (s.regN 0x7010 3 = b.step.toNat → v.reg 0x7010 3 = (b.step + 1).setWidth 64)) ∧
    (PacketComes s i hdr body 5 r → r.started = true → r.defn.members.contains (pkSrc hdr) = true → pkStep hdr = r.step →
      body.length = 2 →
      let bs := bytesOfWords body
      let digest := (s.dom (0x7010 + c) 5 ++ leBytes 48 0).take 48
      let counted := tblPut r.counted (r.defn.members.idxOf (pkSrc hdr)) (bs.getD 50 0).toNat
      let error := fun (code : BitVec 64) => ∃ v : State, exec (.preamble t port hdr body) s = .next v ∧ bad v ∧
        v.reg 0x7010 5 = code ∧ v.reg (0x7010 + c) 6 = 4 ∧ v.crew c = some { r with started := false } ∧
        v.halting = s.halting ++ (if s.st = .running then [0x0A] else [])
      (bs.take 48 ≠ digest → error 0x0B01) ∧
      (bs.take 48 = digest → leNat ((bs.drop 48).take 2) ≠ s.fwMajor → error 0x0B02) ∧
      (bs.take 48 = digest → leNat ((bs.drop 48).take 2) = s.fwMajor →
        (r.complete = true ∨ counted.length ≠ r.defn.size →
          ∃ v : State, exec (.preamble t port hdr body) s = .next v ∧ v = { u with ports := v.ports, crews := v.crews } ∧
            v.crew c = some { r with counted := counted }) ∧
        (r.complete = false → counted.length = r.defn.size → r.nodes = [] →
          ∃ v : State, exec (.preamble t port hdr body) s = .next v ∧ filled v 1 c ∧ v.reg (0x7010 + c) 6 = 3 ∧
            v.crew c = some { r with counted := counted, complete := true }))) ∧
    (FromTree s i hdr [] 6 r l (if pos = 0 then [] else [treeParent pos]) q → n.ready = none →
      pkRestart hdr = false →
      ∃ v : State, exec (.credit t port hdr) s = .next v ∧ v = { u with ports := v.ports, crews := v.crews } ∧
        NodeGets r l.id { n with credit := max n.credit (pkChunk hdr + 1) } v c) ∧
    (∀ (crew : BitVec 8) (layer : BitVec 16), s.crew crew.toNat = some r → r.defn.layer layer.toNat = some l →
      let k := r.node layer.toNat
      (∀ (child : BitVec 12) (t0 w : Nat), r.started = true →
        (s.kidsOf r l).find? (fun p => r.defn.rankAt l p = child.toNat) = some q → tblFind k.children q = none →
        l.id = layer.toNat → k.ready = some t0 → r.defn.waitUs = some w →
        (t0 + w * treeHeight r.defn.size q * usUnits < u.clk.now → pos ≠ 0 → k.credit ≤ k.next → k.next < l.chunks →
          ∃ v : State, exec (.crewWaitDeadline t crew layer child) s = .next v ∧ v = { u with crews := v.crews } ∧
            NodeGets r layer.toNat
              { k with children := tblPut k.children q false
                       absent := k.absent ++ (subtree r.defn.size q).map (r.defn.idxAt l) } v crew.toNat) ∧
        (u.clk.now ≤ t0 + w * treeHeight r.defn.size q * usUnits →
          exec (.crewWaitDeadline t crew layer child) s = .next u)) ∧
      (r.started = true → pos = 0 → k.ready ≠ none → k.next = l.chunks → k.trailersIn = true → k.epilogue = none →
        own ≠ 0 → r.sealed = none →
        (∀ a ∈ s.openDests, ∀ f, l.dest = some f → ∀ e ∈ extentRun r.defn.extents f l.chunks, a < e.1 ∨ e.1 + 16384 * e.2.1 ≤ a) →
        let b := k.body l.chunks own
        ∃ v : State, exec (.layerComplete t crew layer) s = .next v ∧ v.mem = s.mem ∧ filled v 2 crew.toNat ∧
          (∀ m ∈ r.defn.members, m ≠ s.jobRank → Msg.packet (pkHeader 3 0 crew.toNat r.step layer.toNat 0 s.jobRank m 0
            (32 * (layerBodyWords b).length)) (layerBodyWords b) ∈ v.outbox) ∧
          NodeGets r layer.toNat
            { k with epilogue := some b, late := k.late || (b.absent.contains own && !k.noticed) } v crew.toNat))

/-! ### Streamers and pages (06 R220-R256; 08 R320-R323; 09 R351-R358; 15 R519) -/

/-- DRAW, PUT and COMMIT of a core go on to the streamer, and SPILL, FETCH and SNAP of the cox, through the live port whose
turn it is, with the words they carry; a DRAW to no open sink, or beyond 4,096 outstanding, is a delivery error, and one at
a dead port is dropped (09 R352-R359; 06 R245; 08 R322). A request to the streamer keeps its entry until its REPLY. -/
def Obligations.StreamersAsked : Prop :=
  ∀ (s : State) (t : Time) (port : Fin 31) (m : List Byte) (rest : List (Nat × List Byte)),
    let u := s.advance t
    let i := port.val
    24 ≤ i → i < 30 →
    let w := (wordsOfBytes m).headD 0
    let taken := fun r : State => (r.port i) = { s.port i with inbox := rest }
    let asked := fun (base : State) (k : StreamKind) =>
      ({ base with streams := s.streams ++ [{ id := s.nextReq, port := i, kind := k, since := u.clk.now, sent := 1 }]
                   nextReq := s.nextReq + 1 } : State)
    let sends := fun (o : Host.Outcome State Fault Refusal) (base : State) (k : StreamKind) (ws : List EccWord) =>
      o = .next { (asked base k).toStreamer i ws with streamTurn := i }
    let dest := fld w 128 56
    let n := fld w 192 24 + 1
    let route := ((placeOf dest).bind sinkOf).bind fun k => s.pickRoute (sinkKey k)
    ((s.port i).inbox = (4, m) :: rest →
      (sdKind (wordOfBytes (m.take 32)) = 1 →
        (oneSink dest n = true → route ≠ none → s.drawsOf i < 4096 →
          (s.linkState i ≠ 4 →
            ∃ r : State, exec (.draw t port) s = .next ((asked r (.draw dest n (fld w 216 10) (fld w 16 16))).toStreamer i [w]) ∧
              r = { u with ports := r.ports } ∧ taken r) ∧
          (s.linkState i = 4 → ∃ r : State, exec (.draw t port) s = .next r ∧ r = { u with ports := r.ports } ∧ taken r)) ∧
        (oneSink dest n = false ∨ route = none ∨ 4096 ≤ s.drawsOf i →
          ∃ r : State, exec (.draw t port) s = .next r ∧ r = { u with ports := r.ports, regs := r.regs } ∧ taken r ∧
            r.reg (0x7210 + i) 7 = holdAdd (s.reg (0x7210 + i) 7) 1 ∧
            r.reg (0x7210 + i) 8 = holdAdd (s.reg (0x7210 + i) 8) 1)) ∧
      (sdKind (wordOfBytes (m.take 32)) = 2 →
        ∃ r : State, exec (.put t port) s = .next (r.toStreamer i (wordsOfBytes m)) ∧ r = { u with ports := r.ports } ∧ taken r) ∧
      (sdKind (wordOfBytes (m.take 32)) = 3 →
        ∃ r : State, exec (.commit t port) s = .next (r.toStreamer i (wordsOfBytes m)) ∧ r = { u with ports := r.ports } ∧ taken r)) ∧
    (s.streamPort = some i →
      (∀ p k e h ws, s.pages.pages.find? (fun p => decide (p.tier = .leaving) && p.slot.isSome && !s.asked (.spill p.handle)) = some p →
        p.slot = some k → s.entry (k / 16384) = some e →
        let read := u.coxWords (e.slotAddr (k % 16384)) e.slotWords
        read.2 = some (h :: ws) →
        let head := BitVec.ofNat 256 (h.toNat - 2 ^ 16 * fld h 16 3 + 2 ^ 16 * 6)
        sends (exec (.spill t port) s) read.1 (.spill p.handle) (streamerWord 4 0 0 p.handle ws.length :: head :: ws)) ∧
      (∀ p k e, s.pages.pages.find? (fun p => decide (p.tier = .arriving) && !p.landed && !s.asked (.fetch p.handle)) = some p →
        p.slot = some k → s.entry (k / 16384) = some e →
        sends (exec (.fetch t port) s) u (.fetch p.handle) [streamerWord 5 0 0 p.handle (e.slotWords - 1)]) ∧
      (∀ tensor off a len todo ws, s.snap.todo = (tensor, off, a, len) :: todo → s.snapStatus = 2 →
        let read := u.coxWords a len
        read.2 = some ws → sends (exec (.snap t port) s) { read.1 with snap := { s.snap with todo := todo } } (.snap tensor)
          (streamerWord 6 tensor (s.snap.step.getD 0) off (len - 1) :: ws))) ∧
    (s.streamPort ≠ some i →
      exec (.spill t port) s = .next u ∧ exec (.fetch t port) s = .next u ∧ exec (.snap t port) s = .next u)

/-- REPLY, as the port has delivered it: the words of a DRAW go to the sink over its open route, a spilled page leaves its
slot, a fetched page's words reach it with its header, a status stands in 7210h.09; a reply to no request, or of another
length than its DRAW, is a delivery error (09 R353-R358; 06 R245). STREAMER_REQUEST_TIMEOUT: a FETCH goes to another port
once, a SPILL is cancelled, a snapshot fails, a DRAW waits on (15 R519). -/
def Obligations.StreamersReply : Prop :=
  ∀ (s : State) (t : Time) (port : Fin 31) (status : BitVec 4) (data : List EccWord) (q : StreamReq),
    let u := s.advance t
    let i := port.val
    let came := u.received i (replyMsg status.toNat data)
    let v := came.2
    let noneWaits := s.pages.turning = false ∧ s.pages.starting = false ∧ s.pages.ending = false ∧ s.pages.wanted = []
    let reply := exec (.reply t port q.id status data) s
    24 ≤ i → i < 30 →
    (came.1 = true → s.streams.find? (fun x => decide (x.id = q.id) && decide (x.port = i)) = none →
      reply = .next (v.setReg (0x7210 + i) 7 (holdAdd (s.reg (0x7210 + i) 7) 1))) ∧
    (came.1 = true → s.streams.find? (fun x => decide (x.id = q.id) && decide (x.port = i)) = some q →
      let less := { v with streams := s.streams.erase q }
      (∀ dest n mb tensor, q.kind = .draw dest n mb tensor →
        (status ≠ 0 → reply = .next (less.setReg (0x7210 + i) 9 (BitVec.ofNat 64 (status.toNat + 16 * tensor)))) ∧
        (status = 0 → data.length ≠ n → reply = .next (less.setReg (0x7210 + i) 7 (holdAdd (s.reg (0x7210 + i) 7) 1))) ∧
        (status = 0 → data.length = n → ∀ k o, (placeOf dest).bind sinkOf = some k → s.pickRoute (sinkKey k) = some o →
          ∃ r : State, reply = .next r ∧ r = { less with openQ := r.openQ } ∧
            tblGet [] r.openQ o.key = tblGet [] s.openQ o.key ++ openFlits o.key i dest mb data)) ∧
      (∀ h p, q.kind = .spill h → s.page h = some p → status = 0 → noneWaits → (∀ x ∈ s.pages.pages, x.refs ≠ 0) →
        ∃ r : State, reply = .next r ∧
          r.page h = some { p with slot := none, tier := p.backTier } ∧ r.streams = less.streams ∧
          r.reg 0x6022 6 = holdAdd (s.reg 0x6022 6) 1) ∧
      (∀ h p k e, q.kind = .fetch h → s.page h = some p → p.slot = some k → s.entry (k / 16384) = some e → status = 0 →
        data.length = e.slotWords → 0 < e.slotWords →
        let a := e.slotAddr (k % 16384)
        let as := (List.range e.slotWords).map fun j => a + 32 * j
        let g := less.slotGen e (k % 16384)
        let b := g.1.coxBefore true as
        g.1.inReach true as = true →
        ∃ r : State, reply = .next r ∧ r.page h = some { p with landed := true } ∧
          r.word a = pageHeader e p 4 ((g.2 + 1) % 2 ^ 32) ∧
          (∀ j, 0 < j → j < e.slotWords → r.word (a + 32 * j) = data.getD j 0) ∧
          ∀ x, x < a ∨ a + 32 * e.slotWords ≤ x → readByte r.mem x = readByte b.mem x) ∧
      (∀ tensor, q.kind = .snap tensor → status = 0 → reply = .next less)) ∧
    (s.streams.find? (fun x => x.id = q.id) = some q → q.since + 1000 * msUnits ≤ u.clk.now →
      (∀ dest n mb tensor, q.kind = .draw dest n mb tensor → exec (.streamerRequestTimeout t q.id) s = .next u) ∧
      (∀ h p, q.kind = .spill h → s.page h = some p → p.tier = .leaving → noneWaits →
        ∃ r : State, exec (.streamerRequestTimeout t q.id) s = .next r ∧
          r.page h = some { p with tier := p.backTier, cancelled := some s.pages.turn } ∧
          r.streams = (s.streams.erase q).filter fun x => decide (x.kind ≠ .spill h)) ∧
      (∀ h p, q.kind = .fetch h → s.page h = some p → q.sent < 2 →
        let j := (s.nextEpmond q.port).getD q.port
        ∃ r : State, exec (.streamerRequestTimeout t q.id) s = .next (r.toStreamer j (s.fetchWords p)) ∧
          r = { u with streamTurn := j, streams := s.streams.map fun x =>
            if x.id = q.id then { x with port := j, since := u.clk.now, sent := 2 } else x }) ∧
      (∀ tensor, q.kind = .snap tensor → s.snapStatus = 2 →
        ∃ r : State, exec (.streamerRequestTimeout t q.id) s = .next r ∧ r.reg 0x7301 5 = 5 ∧ (r.reg 0x1110 0).getLsbD 10 = true))

/-- PAGE_MANAGER_TURN, ROUND_START, CALL_END and PREFETCH_ARRIVAL (06 R238-R246, R251): a lane's tokens enter its sequence,
one for each turn, or a chunk of its prompt; with the pages of round 0 resident the turn ends and is counted; a round's
arrays are written and the next round is in turn; a call ends, once its open pages are put away, and what it releases is
gone; a page whose words have come is resident. -/
def Obligations.PagesTurn : Prop :=
  ∀ (s : State) (t : Time) (pool : Pool),
    s.pages.pool = some pool →
    let u := s.advance t
    (∀ l x out, s.pages.turning = false → s.pages.ending = false → s.pages.call = [l] → l.active = true → s.seq l.seq = some x →
      let toks := s.turnTokens l x.pos
      (∃ r : State, exec (.pageManagerTurn t [out]) s = .next r ∧
        r.seq l.seq = some { x with pos := x.pos + toks.length, tokens := x.tokens ++ toks }) ∧
      (l.prompt = [] → toks = [l.intok]) ∧
      (s.pages.adopts = [] → s.pages.blocks = [] → l.prompt = [] → (x.pos + 1) % 64 ≠ 0 → x.pos < 2 ^ 48 - 1 →
        (∀ p ∈ s.pages.pages, p.resident = true) →
        ∃ r : State, exec (.pageManagerTurn t [out]) s = .next r ∧
          r.pages.call = [{ l with prompt := [], intok := out, left := l.left - 1
                                   active := !(decide (l.left - 1 = 0) || (decide (l.stop ≠ 0xFFFFFFFF) && decide (out = l.stop))) }] ∧
          r.pages.turning = false ∧ r.pages.turn = s.pages.turn + 1 ∧ r.reg 0x6022 10 = holdAdd (s.reg 0x6022 10) 1)) ∧
    (pool.roundMb ≠ pool.turnMb → s.pages.call ≠ [] → (∀ p ∈ s.roundPages s.pages.round, p.resident = true) →
      ∃ r : State, exec (.roundStart t) s = .next r ∧ r.pages.round = s.pages.round + 1 ∧ r.pages.call = s.pages.call ∧
        r.pages.seqs = s.pages.seqs) ∧
    (s.pages.turning = false → s.pages.starting = false → s.pages.ending = false → s.pages.call ≠ [] →
      exec (.callEnd t) s =
        .next ({ u with pages := { s.pages with ending := true, stores := s.openStores pool } } : State).endGoOn ∧
      (s.openStores pool = [] → s.pages.waiting = [] →
        ∃ r : State, exec (.callEnd t) s = .next r ∧ r.pages.call = [] ∧ r.pages.ending = false ∧
          ∀ l ∈ s.pages.call, l.release = true → r.seq l.seq = none)) ∧
    (∀ (h : BitVec 48) p, s.page h.toNat = some p → p.tier = .arriving → p.landed = true → s.pages.turning = false →
      s.pages.starting = false → s.pages.ending = false → s.pages.wanted = [] → (∀ x ∈ s.pages.pages, x.refs ≠ 0) →
      ∃ r : State, exec (.prefetchArrival t h) s = .next r ∧ r.page h.toNat = some { p with tier := p.backTier, landed := false } ∧
        r.reg 0x6022 7 = holdAdd (s.reg 0x6022 7) 1)

/-- MASK_EXPAND: the cox reads the class map and every bitmap, then writes block 0, the causal one, and a block for each
EXPLICIT tile from its bitmap, counts the expansion and meets the request (06 R221-R224); a descriptor with a reserved bit
set is discarded (R5), and without a request nothing is done. SNAPSHOT_COPY_END: SNAP_TAKEN or failed, bit 10, and the
fills held back take effect (08 R321-R323). -/
def Obligations.MasksSnapshots : Prop :=
  ∀ (s : State) (t : Time),
    let u := s.advance t
    (s.regN 0x6023 1 = 0 ∨ s.pages.maskRise = 0 → exec (.maskExpand t) s = .next u) ∧
    (s.regN 0x6023 1 ≠ 0 → s.pages.maskRise ≠ 0 → ∀ w v ms bits,
      let desc := u.coxWords (s.regN 0x6023 1) 2
      let nq := fld v 0 15 + 1
      let nk := fld v 16 15 + 1
      let map := desc.1.coxWords (fld w 64 56) (nq * ceilDiv nk 128)
      let n := explicitTiles ms nq nk
      let bitmaps := map.1.coxWords (fld w 128 56) (64 * n)
      let bias := fld w 192 56
      let stop := bias + 16384 * (n + 1)
      desc.2 = some [w, v] →
      (maskClean w v = false → exec (.maskExpand t) s = .next { desc.1 with pages := { s.pages with maskRise := 0 } }) ∧
      (maskClean w v = true → map.2 = some ms → bitmaps.2 = some bits →
        (∀ e ∈ s.cores, e.2.todo = []) → (∀ e ∈ s.nb, e.2.running = none) →
        (∀ j < 512 * (n + 1), s.inReach true [bias + 32 * j] = true) →
        (∀ im m, s.image = some im → m ∈ im.mbs → m.id = fld v 32 10 → m.kind = 1 → m.watch + 32 ≤ bias ∨ stop ≤ m.watch) →
        ∃ r : State, exec (.maskExpand t) s = .next r ∧ r.pages = { s.pages with maskRise := 0 } ∧
          r.reg 0x6023 2 = holdAdd (s.reg 0x6023 2) 1 ∧ readBytes r.mem bias 16384 = causalBlock ∧
          ∀ k < n, readBytes r.mem (bias + 16384 * (k + 1)) 16384 =
            bitmapBlock (((bytesOfWords bits).drop (2048 * k)).take 2048))) ∧
    (s.snapStatus = 2 →
      let ends := fun (ok : Bool) (code : BitVec 64) =>
        ∃ r : State, exec (.snapshotCopyEnd t ok) s = .next r ∧ r.reg 0x7301 5 = code ∧ (r.reg 0x1110 0).getLsbD 10 = true ∧
          r.reg 0x7301 7 = holdAdd (s.reg 0x7301 7) 1 ∧ r.snap = SnapState.idle ∧
          (ok = true → r.reg 0x7301 6 = BitVec.ofNat 64 (s.snap.step.getD 0)) ∧
          ∀ m, r.mailbox m = s.mailbox m + BitVec.ofNat 64 (s.snap.heldFills.count m)
      ends false 5 ∧ (s.snap.todo = [] → (∀ q ∈ s.streams, q.kind.isSnap = false) → ends true 4))

/-! ### The dictionary and the field network (10 R376-R403) -/

/-- READ, READ_ALL and SEG_READ answer the value of the object, in the states and up to the length that R385 and R396
allow, a WO subindex as zeros; a value that changes between segments ends the transfer with 0x0404. -/
def Obligations.DictReads : Prop :=
  ∀ (s : State) (t : Time) (src : Source) (idx : BitVec 16) (sub : BitVec 8) (off : BitVec 32) (len : BitVec 16),
    Heard (s.advance t) src → (s.st = .safeStop → safeStopReads idx.toNat = true) →
    let u := received (s.advance t) src
    let n := srcNum src
    let read := exec (.dictRead t src idx sub) s
    let all := exec (.dictReadAll t src idx) s
    let seg := exec (.segRead t src idx sub off len) s
    (objRows idx.toNat = [] →
      read = .next (aborted src idx.toNat sub.toNat 0x0201 u) ∧
      all = .next (aborted src idx.toNat (if isField src then 0 else 0xFF) 0x0201 u) ∧
      seg = .next (aborted src idx.toNat sub.toNat 0x0201 u)) ∧
    (objRows idx.toNat ≠ [] → objRow idx.toNat sub.toNat = none → read = .next (aborted src idx.toNat sub.toNat 0x0202 u)) ∧
    (objRows idx.toNat ≠ [] →
      let v := u.allValues idx.toNat
      (isField src = false ∨ v.length ≤ 1024 → all = .next (granted src u v false)) ∧
      (isField src = true → 1024 < v.length → all = .next (aborted src idx.toNat 0 0x0103 u))) ∧
    ∀ r, objRow idx.toNat sub.toNat = some r →
      let v := u.value idx.toNat sub.toNat r
      let piece := (v.drop off.toNat).take (min len.toNat 1024)
      let last := decide (v.length ≤ off.toNat + piece.length)
      let others := s.dict.reads.filter fun q => !q.is n idx.toNat sub.toNat
      (r.acc = .wo → v = List.replicate r.size 0) ∧
      (isField src = false ∨ v.length ≤ 1024 → read = .next (granted src u v false)) ∧
      (isField src = true → 1024 < v.length → read = .next (aborted src idx.toNat sub.toNat 0x0103 u)) ∧
      (r.kind ≠ .dom → seg = .next (aborted src idx.toNat sub.toNat 0x0303 u)) ∧
      (r.kind = .dom →
        (off = 0 → seg = .next (granted src
          { u with dict := { u.dict with reads := ⟨n, idx.toNat, sub.toNat, v⟩ :: others } } piece last)) ∧
        (off ≠ 0 → s.dict.reads.find? (fun q => q.is n idx.toNat sub.toNat) = none →
          seg = .next (granted src u piece last)) ∧
        (off ≠ 0 → ∀ q, s.dict.reads.find? (fun q => q.is n idx.toNat sub.toNat) = some q →
          (q.value = v → seg = .next (granted src u piece last)) ∧
          (q.value ≠ v → seg = .next (aborted src idx.toNat sub.toNat 0x0404
            { u with dict := { u.dict with reads := others } }))))

/-- WRITE stores a value in its range and aborts one beyond it; an object or subindex that is not there, or RO, aborts
(10 R390); a 0 in 6021h.02 empties the directory too (06 R252). SEG_WRITE gathers a DOMAIN by its offsets, and with LAST
commits it; SEG_ABORT discards it, and so does a gap of more than 50 ms (10 R382-R384). -/
def Obligations.DictWrites : Prop :=
  ∀ (s : State) (t : Time) (src : Source),
    Heard (s.advance t) src → s.st = .ready →
    let u := received (s.advance t) src
    (∀ (idx : BitVec 16) (sub : BitVec 8) (data : List Byte),
      let write := exec (.dictWrite t src idx sub data) s
      let abort := fun code => Host.Outcome.next (aborted src idx.toNat sub.toNat code u)
      (objRows idx.toNat = [] → write = abort 0x0201) ∧
      (objRows idx.toNat ≠ [] → objRow idx.toNat sub.toNat = none → write = abort 0x0202) ∧
      (∀ r, objRow idx.toNat sub.toNat = some r → r.acc = .ro → write = abort 0x0301) ∧
      ∀ o k size lo hi code, (o, k, size, lo, hi, code) ∈
          [(0x1020, 2, 1, 1, 32, 0x0501), (0x1020, 3, 1, 32, 255, 0x0501), (0x2000, 0, 1, 0, 1, 0x0502),
           (0x3030, 2, 1, 1, 30, 0x0501), (0x5221, 1, 1, 1, 168, 0x0501), (0x7010, 1, 2, 0, 4095, 0x0501),
           (0x7010, 2, 2, 1, 4096, 0x0501), (0x7200, 2, 1, 0, 1, 0x0502)] →
        idx.toNat = o → sub.toNat = k →
        (data.length ≠ size → write = abort 0x0303) ∧
        (data.length = size →
          (lo ≤ leNat data → leNat data ≤ hi →
            write = .next (granted src (u.setReg o k (BitVec.ofNat 64 (leNat data))) [] false)) ∧
          (leNat data < lo ∨ hi < leNat data → write = abort code))) ∧
    (∀ v : Byte,
      let write := exec (.dictWrite t src 0x6021 2 [v]) s
      (v = 1 → write = .next (granted src (u.setReg 0x6021 2 1) [] false)) ∧
      (v = 0 → write = .next (granted src (u.clearDir.setReg 0x6021 2 0) [] false)) ∧
      (v ≠ 0 → v ≠ 1 → write = .next (aborted src 0x6021 2 0x0502 u))) ∧
    ∀ (idx : BitVec 16) (sub : BitVec 8) (data : List Byte) (off : BitVec 32),
      0x7011 ≤ idx.toNat → idx.toNat ≤ 0x710F → sub = 2 ∨ sub = 4 →
      let mine := fun w : SegWrite => w.is (srcNum src) idx.toNat sub.toNat
      let rest := s.dict.writes.filter fun w => !mine w
      let opened := fun b => ({ source := srcNum src, idx := idx.toNat, sub := sub.toNat, bytes := b,
                                last := u.clk.now, expired := false } : SegWrite)
      let holding := fun ws => ({ u with dict := { u.dict with writes := ws } } : State)
      let len := s.regN idx.toNat (sub.toNat - 1)
      (u.segBusy (srcNum src) idx.toNat sub.toNat = false →
        exec (.segWrite t src idx sub 0 false data) s = .next (granted src (holding (opened data :: rest)) [] false)) ∧
      (off ≠ 0 → ∀ w, s.dict.writes.find? mine = some w → w.expired = false → u.clk.now ≤ w.last + 50 * msUnits →
        (off.toNat = w.bytes.length →
          exec (.segWrite t src idx sub off false data) s =
            .next (granted src (holding (opened (w.bytes ++ data) :: rest)) [] false) ∧
          (w.bytes.length + data.length = len →
            exec (.segWrite t src idx sub off true data) s =
              .next (granted src ((holding rest).setDom idx.toNat sub.toNat (w.bytes ++ data)) [] false)) ∧
          (w.bytes.length + data.length ≠ len →
            exec (.segWrite t src idx sub off true data) s = .next (aborted src idx.toNat sub.toNat 0x0303 (holding rest)))) ∧
        (off.toNat ≠ w.bytes.length →
          exec (.segWrite t src idx sub off false data) s = .next (aborted src idx.toNat sub.toNat 0x0602 (holding rest)))) ∧
      exec (.segAbort t src idx sub) s = .next (granted src
        ({ u with dict := { u.dict with
            writes := rest, reads := s.dict.reads.filter fun q => !q.is (srcNum src) idx.toNat sub.toNat } } : State) [] false) ∧
      ∀ (client : Nat) (w : SegWrite), s.dict.writes = [w] → w.is client idx.toNat sub.toNat = true →
        w.last + 50 * msUnits < (s.advance t).clk.now →
        exec (.segmentGapTimeout t client idx sub) s =
          .next { s.advance t with dict := { s.dict with writes := [{ w with bytes := [], expired := true }] } }

/-- Below the dictionary (10 R377-R380): a malformed frame is dropped and answered with 0x0101, one of another VERSION is
answered with 0x0102, a response is dropped; a datagram with a bad checksum, to another port, or beyond the queue is
dropped; drops are counted; a solicitation and an echo request to the module's address are answered. -/
def Obligations.FieldNetwork : Prop :=
  ∀ (s : State) (t : Time),
    s.dictHears = true →
    let u := s.advance t
    let dropped := u.setReg 0x1020 8 (holdAdd (s.reg 0x1020 8) 1)
    (∀ (client : Nat) (txn : BitVec 16) (idx : BitVec 16) (sub : BitVec 8),
      let src : Source := .field client txn
      let answered := fun (r : State) (code : Nat) =>
        Host.Outcome.next ((r.recordAbort src idx.toNat sub.toNat code).send (.response src (BitVec.ofNat 16 code) [] false))
      exec (.dictFrameInvalid t client txn .malformed idx sub) s = answered dropped 0x0101 ∧
      exec (.dictFrameInvalid t client txn .version idx sub) s = answered u 0x0102 ∧
      exec (.dictFrameInvalid t client txn .response idx sub) s = .next dropped) ∧
    (∀ why, exec (.udpDatagramDrop t why) s = .next dropped) ∧
    (∀ target, exec (.neighbourDiscovery t target) s =
      .next (if target = ownAddress then { u with outbox := s.outbox ++ [.advertisement target] } else u)) ∧
    ∀ dest data, exec (.icmpv6Echo t dest data) s =
      .next (if dest = ownAddress then { u with outbox := s.outbox ++ [.echoReply dest data] } else u)

/-! ### Programs: load, start and control (04 R149-R154; 10 R397-R402) -/

/-- LOAD_TRIGGER discards the image and begins a load; LOAD_END reports the first failing check in 6005h and leaves READY,
or loads the image and enters LOADED; PROGRAM_START begins the checks and fixes the boundary of stroke 0; START_CHECK_END
reports a failure, or starts the program with its counters at zero, those of every crew too (04 R131, R149, R152, R154; 07
R258; 10 R397). -/
def Obligations.LoadsAndStarts : Prop :=
  ∀ (s : State) (t : Time) (src : Source),
    let u := received (s.advance t) src
    let reported := fun (r : State) (v : Bad) =>
      r.reg 0x6005 1 = BitVec.ofNat 64 v.code ∧ r.reg 0x6005 2 = BitVec.ofNat 64 v.unit ∧ r.reg 0x6005 3 = BitVec.ofNat 64 v.index ∧
      r.reg 0x6005 4 = BitVec.ofNat 64 v.stroke ∧ r.reg 0x6005 5 = BitVec.ofNat 64 v.ac ∧
      r.reg 0x6005 6 = holdAdd (s.reg 0x6005 6) 1
    (Heard (s.advance t) src → s.loading = .none →
      (s.st = .ready ∨ s.st = .loaded → s.sec.lc ≠ 4 →
        ∃ r : State, exec (.loadTrigger t src [1]) s = .next (granted src r [] false) ∧ r.loading = .load ∧ r.image = none ∧
          r.opStores = [] ∧ r.routeStores = [] ∧ r.reg 0x6005 1 = 0xFF ∧ r.st = s.st ∧
          (s.pages.pages = [] → r.mem = s.mem)) ∧
      (s.st = .loaded →
        ∃ r : State, exec (.programStart t src [1]) s = .next (granted src r [] false) ∧ r.loading = .start ∧ r.st = .loaded ∧
          r.reg 0x6005 1 = 0xFF ∧ r.umpire = { s.umpire with zeroAc := (acNow u.clk / 1024 + 16) * 1024 } ∧ r.image = s.image)) ∧
    (s.loading = .load →
      let read := (s.advance t).checkImage.1
      (∀ v, (s.advance t).checkImage.2 = .error v → s.st = .ready ∨ s.st = .loaded →
        ∃ r : State, exec (.loadEnd t) s = .next r ∧ reported r v ∧ r.loading = .none ∧ r.st = .ready ∧ r.image = s.image ∧
          r.crews = [] ∧ r.mem = read.mem) ∧
      (∀ l, (s.advance t).checkImage.2 = .ok l →
        ∃ r : State, exec (.loadEnd t) s = .next r ∧ r.reg 0x6005 1 = 0 ∧ r.reg 0x6005 6 = holdAdd (s.reg 0x6005 6) 1 ∧
          r.loading = .none ∧ r.st = .loaded ∧ r.image = some l.image ∧ r.reg 0x1001 4 = 3 ∧ r.stateTab = l.tab ∧
          r.pages.pool = l.pool ∧ r.umpire.mailboxes = s.umpire.mailboxes ∧ (s.pages.pages = [] → r.mem = read.mem))) ∧
    (∀ im, s.loading = .start → s.image = some im →
      (∀ v, firstFailing ((s.advance t).startBads im) = some v →
        ∃ r : State, exec (.startCheckEnd t) s = .next r ∧ r = { s.advance t with loading := .none, regs := r.regs } ∧ reported r v) ∧
      (firstFailing ((s.advance t).startBads im) = none →
        ∃ r : State, exec (.startCheckEnd t) s = .next r ∧ r.st = .running ∧ r.loading = .none ∧ r.reg 0x1001 4 = 5 ∧
          r.reg 0x6001 2 = holdAdd (s.reg 0x6001 2) 1 ∧ r.umpire = { Umpire.idle with
            startPending := true, zeroAc := s.umpire.zeroAc, moved := s.umpire.moved } ∧
          (∀ k, 1 ≤ k → k ≤ 5 → r.reg 0x5200 k = 0) ∧ (∀ k, 1 ≤ k → k ≤ 7 → r.reg 0x5210 k = 0) ∧
          (∀ k, 1 ≤ k → k ≤ 3 → r.reg 0x5230 k = 0 ∧ r.reg 0x6003 k = 0) ∧
          (∀ c k, 1 ≤ c → c ≤ 255 → 7 ≤ k → k ≤ 12 → r.reg (0x7010 + c) k = 0) ∧ r.mem = s.mem))

/-- ABORT in RUNNING has the module halt with cause 0x0B at the next boundary; CLEAR takes HELD to LOADED, UNLOAD takes
LOADED or HELD to READY without an image; each aborts with 0x0401 elsewhere (10 R399). RESET answers and begins a bring-up
with cause 0x17 that wipes the module (10 R393; 14 R500). EVENT_FLAGS_CLEAR clears the bits named, but those that are
set in its cycle, which are set and counted even where the clear is refused (10 R394, 00 R6). -/
def Obligations.ControlCommands : Prop :=
  ∀ (s : State) (t : Time) (src : Source),
    Heard (s.advance t) src → served s →
    let u := received (s.advance t) src
    let bad := Host.Outcome.next (aborted src 0x6002 1 0x0401 u)
    (s.st = .running → exec (.abort t src) s = .next (granted src { u with halting := s.halting ++ [0x0B] } [] false)) ∧
    (s.st ≠ .running → exec (.abort t src) s = bad) ∧
    (s.st = .held → ∃ r : State, exec (.clear t src) s = .next (granted src r [] false) ∧
      r = { u with st := .loaded, regs := r.regs, umpire := { s.umpire with leftAt := none } } ∧ r.reg 0x1001 4 = 0x10 ∧ r.reg 0x1001 3 = 5 ∧
      r.reg 0x1001 2 = holdAdd (s.reg 0x1001 2) 1 ∧ (r.reg 0x1110 0).getLsbD 0 = true) ∧
    (s.st ≠ .held → exec (.clear t src) s = bad) ∧
    (s.st = .loaded ∨ s.st = .held → ∃ r : State, exec (.unload t src) s = .next (granted src r [] false) ∧ r.st = .ready ∧
      r.image = none ∧ r.crews = [] ∧ r.opStores = [] ∧ r.reg 0x1001 4 = 0x11 ∧ (s.pages.pages = [] → r.mem = s.mem)) ∧
    (s.st = .ready ∨ s.st = .running → exec (.unload t src) s = bad) ∧
    (s.st ≠ .running → s.pins.flowOk = true →
      ∃ r : State, exec (.reset t src (leBytes 4 0x5A5A)) s = .next r ∧ r.st = .bringup ∧ r.mem = [] ∧ r.ecc = [] ∧ r.stamps = [] ∧
        r.image = none ∧ r.reg 0x1001 4 = 0x17 ∧ r.outbox = (granted src u [] false).outbox ∧ r.cfg = s.cfg ∧
        r.sec.lc = s.sec.lc ∧ r.sec.token = none ∧
        ∀ k, regKept k = false → tblGet (regReset k) r.regs k = regReset k) ∧
    ∀ (mask : List Byte) (setNow : BitVec 16),
      let e := received ((s.advance t).events setNow.toNat) src
      (mask.length = 4 → leNat mask < 2 ^ 16 →
        ∃ r : State, exec (.eventFlagsClear t src mask setNow) s = .next (granted src r [] false) ∧ r = { u with regs := r.regs } ∧
          r.reg 0x1110 0 = (s.reg 0x1110 0 &&& ~~~ (BitVec.ofNat 64 (leNat mask))) ||| setNow.setWidth 64 ∧
          ∀ k < 16, r.reg 0x1111 (k + 1) =
            (if setNow.getLsbD k then holdAdd (s.reg 0x1111 (k + 1)) 1 else s.reg 0x1111 (k + 1))) ∧
      (mask.length = 4 → 2 ^ 16 ≤ leNat mask →
        exec (.eventFlagsClear t src mask setNow) s = .next (aborted src 0x1110 0 0x0502 e)) ∧
      (mask.length ≠ 4 → exec (.eventFlagsClear t src mask setNow) s = .next (aborted src 0x1110 0 0x0303 e)) ∧
      (e.reg 0x1110 0 = s.reg 0x1110 0 ||| setNow.setWidth 64 ∧ ∀ k < 16, setNow.getLsbD k = true →
        e.reg 0x1111 (k + 1) = holdAdd (s.reg 0x1111 (k + 1)) 1)

/-- RUN_STAGE and COPY_CHOICE in a host-driven bring-up start the stage that waits, or let a readable copy rule (13 R465,
R473); PREFIX_KEY sets the key and turns sharing on, PREFETCH_SEQ begins the prefetch of a sequence (06 R246, R252); SNAP_ARM arms, and
SNAP_RELEASE ends the hold of a waiting snapshot (08 R320, R321); FI_CLEAR sets every rate to zero (09 R369). -/
def Obligations.NamedWrites : Prop :=
  ∀ (s : State) (t : Time) (src : Source),
    Heard (s.advance t) src →
    let u := received (s.advance t) src
    (∀ v : Byte, s.st = .bringup → s.boot.running = false → s.regN 0x2001 3 = v.toNat → v ≠ 0xFF →
      ∃ r : State, exec (.runStage t src [v]) s = .next (granted src r [] false) ∧
        r = { u with regs := r.regs, doms := r.doms
                     boot := { s.boot with stage := v.toNat, running := true, since := u.clk.now } } ∧
        r.reg 0x2001 1 = BitVec.ofNat 64 v.toNat ∧ r.reg 0x2001 3 = 0xFF ∧ r.reg 0x2002 1 = BitVec.ofNat 64 v.toNat) ∧
    (∀ (v : Byte) c, s.st = .bringup → s.boot.held = true → v.toNat ≤ 2 → s.cfg.copies[v.toNat]? = some c →
      (c.validity = 0 →
        ∃ r : State, exec (.copyChoice t src [v]) s = .next (granted src r [] false) ∧ r.cfg = { s.cfg with ruling := c } ∧
          r.boot.held = false ∧ r.boot.chosen = true ∧ r.boot.ended = 4 ∧ r.reg 0x2001 2 = BitVec.ofNat 64 v.toNat ∧
          r.reg 0x2003 4 = 2 ∧ r.reg 0x2003 5 = c.gen) ∧
      (c.validity ≠ 0 → exec (.copyChoice t src [v]) s = .next (aborted src 0x2001 2 0x0502 u))) ∧
    (∀ key : List Byte, s.st = .ready ∨ s.st = .loaded → key.length = 16 →
      ∃ r : State, exec (.prefixKey t src key) s = .next (granted src r [] false) ∧ r.dom 0x6021 1 = key ∧ r.reg 0x6021 4 = 1 ∧
        r.pages.dir = [] ∧ (∀ p ∈ r.pages.pages, p.inDir = false ∧ (p.seqs ≠ [] ∨ p.moving = true))) ∧
    (∀ v : List Byte, served s → s.image ≠ none → v.length = 4 →
      ∃ r : State, exec (.prefetchSeq t src v) s = .next (granted src r [] false) ∧ r.pages.seqs = s.pages.seqs ∧
        r.pages.dir = s.pages.dir ∧ ((∀ p ∈ s.pages.pages, leNat v ∈ p.seqs → p.slot ≠ none) → r = u)) ∧
    (s.st = .loaded ∨ s.st = .running → s.snapStatus = 0 →
      (s.regN 0x7301 2 = 0xFFFFFFFF ∨ s.stepSealed (s.regN 0x7301 2) = false →
        exec (.snapArm t src [1]) s = .next (granted src ({ u.setReg 0x7301 5 1 with snap := { SnapState.idle with
          step := if s.regN 0x7301 2 = 0xFFFFFFFF then none else some (s.regN 0x7301 2) } } : State) [] false)) ∧
      (s.regN 0x7301 2 ≠ 0xFFFFFFFF → s.stepSealed (s.regN 0x7301 2) = true →
        exec (.snapArm t src [1]) s = .next (aborted src 0x7301 3 0x0501 u))) ∧
    (served s →
      (s.snapStatus = 3 →
        ∃ r : State, exec (.snapRelease t src [1]) s = .next (granted src r [] false) ∧ r.reg 0x7301 5 = 4 ∧
          r.reg 0x7301 6 = BitVec.ofNat 64 (s.snap.step.getD 0) ∧ r.snap = SnapState.idle ∧
          ∀ m, r.mailbox m = s.mailbox m + BitVec.ofNat 64 (s.snap.heldFills.count m)) ∧
      (s.snapStatus ≠ 3 → exec (.snapRelease t src [1]) s = .next (granted src u [] false))) ∧
    (served s → s.fiAllowed = true →
      ∃ r : State, exec (.fiClear t src [1]) s = .next (granted src r [] false) ∧ r = { u with regs := r.regs } ∧
        ∀ i < 31, ∀ k, 1 ≤ k → k ≤ 3 → r.reg (0x7410 + i) k = 0)

/-- The security engine (14 R496-R507): a record that passes its checks comes into force and 8000h.0C reads 0, one that
fails aborts with 0x0402, and the nonce is new either way; LC_REQUEST changes the state that Table 14.3 permits and a
bring-up follows; an install is checked and written to the slot not booted; a report is formed and signed, or failed; a
token lapses at its end or on request, and every fault-injection rate with it (09 R369). -/
def Obligations.SecurityEngine : Prop :=
  ∀ (s : State) (t : Time) (src : Source),
    let w := s.advance t
    let u := received w src
    let judged := fun (r q : State) (code : BitVec 64) =>
      r.sec.drawn = s.sec.drawn + 1 ∧ r.dom 0x8000 3 = leBytes 48 (Config.entropy s.sec.drawn).toNat ∧
      r.reg 0x8000 12 = code ∧ r.reg 0x8000 13 = holdAdd (s.reg 0x8000 13) 1 ∧ r.mem = q.mem ∧ r.st = q.st
    (Heard w src → s.st = .ready ∨ s.st = .loaded ∨ s.st = .held →
      (∀ rec : List Byte, s.sec.install = none → rec.length = s.regN 0x8000 4 →
        (s.recordPasses rec = true → natAt rec 1 1 ≠ 3 →
          ∃ r : State, exec (.authData t src rec) s = .next (granted src r [] false) ∧ judged r s 0 ∧
            r.sec.authKind = some (natAt rec 1 1)) ∧
        (s.recordPasses rec = false ∨ natAt rec 1 1 = 3 →
          ∃ r : State, exec (.authData t src rec) s = .next (aborted src 0x8000 5 0x0402 r) ∧ judged r s 0x0402 ∧
            r.sec.authKind = s.sec.authKind)) ∧
      (∀ rec : List Byte, rec.length = s.regN 0x8020 1 →
        (s.recordPasses rec = true → natAt rec 1 1 = 3 → s.sec.lc ≠ 4 →
          ∃ r : State, exec (.tokenData t src rec) s = .next (granted src r [] false) ∧ judged r s 0 ∧ r.reg 0x8020 3 = 1 ∧
            r.sec.token = some (u.clk.now + natAt rec 60 4 * msUnits, decide (natAt rec 64 1 % 2 = 1))) ∧
        (s.recordPasses rec = false ∨ natAt rec 1 1 ≠ 3 ∨ s.sec.lc = 4 →
          ∃ r : State, exec (.tokenData t src rec) s = .next (aborted src 0x8020 2 0x0402 r) ∧ judged r s 0x0402 ∧
            r.sec.token = s.sec.token)) ∧
      (∀ v : Byte, s.sec.install = none →
        (v.toNat ≤ 4 → s.lcPermits v.toNat = true → s.pins.flowOk = true →
          ∃ r : State, exec (.lcRequest t src [v]) s = .next r ∧ r.sec.lc = v.toNat ∧ r.st = .bringup ∧ r.mem = [] ∧
            r.sec.debugEntries = s.sec.debugEntries + (if v = 3 then 1 else 0) ∧ r.reg 0x1001 4 = 0x18) ∧
        (v.toNat ≤ 4 → s.lcPermits v.toNat = false →
          exec (.lcRequest t src [v]) s =
            .next (aborted src 0x8000 2 0x0402 { u with sec := { s.sec with authKind := none } })) ∧
        (4 < v.toNat → exec (.lcRequest t src [v]) s =
          .next (aborted src 0x8000 2 0x0501 { u with sec := { s.sec with authKind := none } }))) ∧
      (s.sec.install = none → s.sec.lc ≠ 4 →
        exec (.installStart t src [1]) s = .next (granted src
          { u with sec := { s.sec with install := some (s.regN 0x8000 9, s.regN 0x8000 10) } } [] false)) ∧
      (s.regN 0x8010 3 ≠ 1 →
        exec (.attRequest t src [1]) s = .next (granted src
          (({ u with sec := { s.sec with attNonce := some (s.dom 0x8010 1) } } : State).setReg 0x8010 3 1) [] false)) ∧
      (∀ k, s.sec.token = some k →
        ∃ r : State, exec (.tokenClear t src [1]) s = .next (granted src r [] false) ∧ r = { u with sec := r.sec, regs := r.regs } ∧
          r.sec.token = none ∧ r.reg 0x8020 3 = 2 ∧ ∀ i < 31, ∀ j, 1 ≤ j → j ≤ 3 → r.reg (0x7410 + i) j = 0)) ∧
    (∀ k, s.sec.token = some k → k.1 ≤ w.clk.now →
      ∃ r : State, exec (.tokenLapse t) s = .next r ∧ r = { w with sec := { s.sec with token := none }, regs := r.regs } ∧
        r.reg 0x8020 3 = 2 ∧ ∀ i < 31, ∀ j, 1 ≤ j → j ≤ 3 → r.reg (0x7410 + i) j = 0) ∧
    (∀ a len as, s.sec.install = some (a, len) →
      let q : State := { w with sec := { s.sec with install := none } }
      q.copyAddrs a (len / 32) = some as →
      ∃ r : State, exec (.installEnd t) s = .next r ∧ r.sec.install = none ∧ r.reg 0x8000 13 = holdAdd (s.reg 0x8000 13) 1 ∧
        (∀ b, (q.coxRead as).2 = .ok b →
          (s.firmwareValid b = true → r.reg 0x8000 12 = 0 ∧ tblFind r.sec.slots (1 - s.sec.booted) =
            some { version := BitVec.ofNat 32 (natAt b 4 4), sec := BitVec.ofNat 32 (natAt b 8 4),
                   digest := BitVec.ofNat 384 (natAt b 32 48) }) ∧
          (s.firmwareValid b = false → r.reg 0x8000 12 = 0x0402 ∧ r.sec.slots = s.sec.slots)) ∧
        (∀ x, (q.coxRead as).2 = .error x → r.reg 0x8000 12 = 0x0402 ∧ r.sec.slots = s.sec.slots)) ∧
    ∀ nonce entropyOk signerOk, s.sec.attNonce = some nonce →
      ∃ r : State, exec (.attReportReady t entropyOk signerOk) s = .next r ∧ r.sec = { s.sec with attNonce := none } ∧
        r.reg 0x8010 6 = holdAdd (s.reg 0x8010 6) 1 ∧
        (entropyOk = true → signerOk = true → s.sec.lc ≠ 0 → r.reg 0x8010 3 = 2 ∧
          r.dom 0x8010 4 = w.reportBody nonce ++ Config.deviceSign (w.reportBody nonce)) ∧
        (entropyOk = false → r.reg 0x8010 3 = 3 ∧ r.doms = s.doms)

/-! ### Tray, heat, power and bring-up (10 R401; 11; 12; 13; 16) -/

/-- The signals of the tray (16 R528-R535; 10 Table 10.14): ENABLE high or input good begins a bring-up from OFF, ENABLE
low or input loss leads to OFF at once by a transition like any other (10 R401), a lost reference is held over; FLOW_OK low
begins SAFE_STOP, which its recovery leaves for HELD and its expiry for OFF (11 R428-R430, Table 11.5). -/
def Obligations.TraySignals : Prop :=
  ∀ (s : State) (t : Time),
    let u := s.advance t
    let fresh := fun (r : State) => r.st = .bringup ∧ r.mem = [] ∧ r.image = none ∧ r.cfg = s.cfg ∧ r.pins.flowOk = true ∧
      r.boot.stage = 0 ∧ r.boot.running = true
    let dark := fun (r : State) => r.st = .off ∧ r.clk.d01 = false ∧ r.nb = [] ∧ r.mem = s.mem ∧ r.halting = [] ∧
      (s.st = .off → r.regs = s.regs) ∧
      (s.st ≠ .off → r.reg 0x1001 2 = holdAdd (s.reg 0x1001 2) 1 ∧ r.reg 0x1001 3 = BitVec.ofNat 64 (modCode s.st) ∧
        r.reg 0x1001 4 = s.reg 0x1001 4 ∧ (r.reg 0x1110 0).getLsbD 0 = true) ∧
      (s.st = .running → r.reg 0x6002 3 = holdAdd (s.reg 0x6002 3) 1 ∧ r.reg 0x6002 2 = s.reg 0x6002 2)
    (s.st = .off → s.pins.inputGood = true → ∃ r : State, exec (.enableHigh t) s = .next r ∧ fresh r ∧ r.pins.enable = true) ∧
    (s.st = .off → s.pins.enable = true → ∃ r : State, exec (.inputGoodReturn t) s = .next r ∧ fresh r ∧ r.pins.inputGood = true) ∧
    (∃ r : State, exec (.enableLow t) s = .next r ∧ dark r ∧
      r.pins = { s.pins with enable := false, thermTrip := false, fellAt := some u.clk.now }) ∧
    (∃ r : State, exec (.inputGoodLoss t) s = .next r ∧ dark r ∧
      r.pins = { s.pins with inputGood := false, thermTrip := false }) ∧
    (s.st ≠ .off → exec (.refclkLoss t) s = .next { u with pins := { s.pins with refclk := false, holdOver := true } }) ∧
    (s.st = .ready ∨ s.st = .loaded ∨ s.st = .held →
      ∃ r : State, exec (.flowOkLow t) s = .next r ∧ r.st = .safeStop ∧ r.pins = { s.pins with flowOk := false } ∧
        r.stop = some { since := u.clk.now, recovering := false } ∧ r.clk.d01 = false ∧ r.nb = [] ∧ r.mem = s.mem ∧
        r.reg 0x1001 4 = 0x12 ∧ r.sec.token = none ∧ (∀ i < 30, s.linkState i ≠ 4 → r.linkState i = 0)) ∧
    ∀ h, s.stop = some h → s.st = .safeStop →
      (h.recovering = false → h.since + 2 * msUnits ≤ u.clk.now → 800 ≤ u.flow →
        exec (.safeStopRecoveryStart t) s =
          .next { u with pins := { s.pins with flowOk := true }, stop := some { h with recovering := true } }) ∧
      (h.recovering = true →
        ∃ r : State, exec (.safeStopRecoveryEnd t []) s = .next r ∧ r.st = .held ∧ r.stop = none ∧ r.clk.d01 = true ∧
          r.reg 0x1001 4 = 0x13 ∧ r.image = s.image ∧ r.stamps = s.stamps ∧
          (∀ a, a < 2 ^ 52 → readByte r.mem a = readByte s.mem a) ∧ ∀ a, 2 ^ 52 ≤ a → readByte r.mem a = 0) ∧
      (h.recovering = false → s.pins.flowOk = false → h.since + 2000 * msUnits ≤ u.clk.now →
        ∃ r : State, exec (.safeStopHoldExpiry t) s = .next r ∧ r.st = .off ∧ r.reg 0x1001 4 = 0x14)

/-- Heat (11 R406-R427): a sample is kept or fails its sensor, and the third in a row above the trip limit leads to FAULT
with THERM_TRIP; the model's estimates and predictions follow from each node's capacity, power and conductances to its
neighbours, and a prediction above its limit sets the thermal limit; a solve lowers budgets at once and raises none above its
result; a low-flow stop halts a program after 1 s. How the heat of a node is integrated is uninterpreted (log 9). -/
def Obligations.HeatGuarded : Prop :=
  ∀ (s : State) (t : Time),
    let u := s.advance t
    s.st ≠ .off →
    (∀ (x : Sample) (c : CoolantSample), x.id < 4680 →
      let old := s.heat.sensor x.id
      let l := sensorLayer (x.id % 13)
      let jump := ∃ p, old.last = some p ∧ (x.reading - p).natAbs > 800
      ∃ r : State, exec (.sensorSample t [x] c) s = .next r ∧ r.heat.samples = s.heat.samples + 1 ∧
        (old.failed = true → (r.heat.sensor x.id).failed = true) ∧
        (old.failed = false → x.bad = true ∨ x.reading < -4000 ∨ x.reading > 15000 ∨ jump → (r.heat.sensor x.id).failed = true) ∧
        (old.failed = false → ¬ (x.bad = true ∨ x.reading < -4000 ∨ x.reading > 15000 ∨ jump) →
          (r.heat.sensor x.id).failed = false ∧ (r.heat.sensor x.id).last = some x.reading ∧
          (2 ≤ old.above → x.reading > tripLimit l → s.st = .ready ∨ s.st = .loaded ∨ s.st = .held →
            r.st = .fault ∧ r.pins.thermTrip = true ∧ r.reg 0x1001 4 = 0x16))) ∧
    (∃ r : State, exec (.thermalModelUpdate t) s = .next r ∧ r.heat.updates = s.heat.updates + 1 ∧
      (∀ w l, w < 360 → l < 7 →
        let lg := u.runningLedger
        let n := u.heatNode lg w l
        n.capacity = Config.heatCapacity (regionOfNum w) l ∧
        (∀ v ∈ nearRegions w, (Config.conductSide (regionOfNum w) (regionOfNum v) l, s.heat.inUse v l) ∈ n.joins) ∧
        (l < 6 → (Config.conductUp (regionOfNum w) l, s.heat.inUse w (l + 1)) ∈ n.joins) ∧
        (r.heat.layer w l).est = Config.nodeEstimate n (s.heat.layer w l).est ∧
        (r.heat.layer w l).pred = Config.nodePrediction n (s.heat.inUse w l) (u.windowPowers lg w l)) ∧
      (r.heat.predictedHot = true →
        r.heat.limit = some (Config.thermalLimit r.heat.updates) ∧ r.reg 0x4000 9 = BitVec.ofNat 64 (Config.thermalLimit r.heat.updates))) ∧
    (∃ r : State, exec (.budgetSolve t) s = .next r ∧
      (s.heat.solves ≠ [] → ∀ k < 12600,
        let old := tblGet 0 s.heat.budgets k
        let new := tblGet 0 u.solved k
        (new ≤ old → tblGet 0 r.heat.budgets k = new) ∧
        (old < new → old ≤ tblGet 0 r.heat.budgets k ∧ tblGet 0 r.heat.budgets k ≤ new)) ∧
      r.heat.gen = s.heat.gen + (if r.heat.budgets = s.heat.budgets ∨ u.budgetsZero = true then 0 else 1)) ∧
    ∀ d, s.heat.stopBy = some d → s.st = .running → d ≤ u.clk.now →
      let n := min (s.regN 0x4020 6 + 1) (2 ^ 32 - 1)
      exec (.lowFlowHalt t) s = .next
        { (u.setReg 0x4020 6 (BitVec.ofNat 64 n)) with
          heat := { s.heat with stopBy := none }, halting := s.halting ++ [0x0F] }

/-- Power and supply (12 R436-R457): a tick shows what it measured and its means, and holds one sixteenth more of the
strokes while the input limit is exceeded; a phase is isolated and counted, the third loss has its region retired, at once
or within 1 s, and a retired region with fewer than three phases in a domain trips; a region that trips loses its contents,
ballast stops and the module halts; a brick is counted out. -/
def Obligations.PowerGuarded : Prop :=
  ∀ (s : State) (t : Time),
    let u := s.advance t
    s.st ≠ .off →
    (∀ m : PowerSample,
      let p10 := meanOf ((m.watts :: s.power.samples).take 10)
      ∃ r : State, exec (.powerControlTick t m) s = .next r ∧ r.mem = s.mem ∧ r.reg 0x3000 1 = BitVec.ofNat 64 m.mV ∧
        r.reg 0x3000 2 = BitVec.ofNat 64 m.mA ∧ r.reg 0x3000 3 = BitVec.ofNat 64 m.watts ∧ r.reg 0x3000 4 = BitVec.ofNat 64 p10 ∧
        r.reg 0x3020 0 = holdAdd (s.reg 0x3020 0) m.mJ ∧ r.power.samples = (m.watts :: s.power.samples).take 30000 ∧
        r.reg 0x3000 8 = BitVec.ofNat 64 r.power.k ∧ (25000 < p10 → r.power.k = min 15 (s.power.k + 1))) ∧
    (∀ (w : RegionId) (d : Domain),
      let n := s.phasesLost w (domainCode d)
      let region := fun (r : State) => tblGet 0 r.supply.region w.num
      (s.regionLost w = true ∨ 8 ≤ n → exec (.phaseFailure t w d) s = .next u) ∧
      (s.regionLost w = false → n < 8 →
        ∃ r : State, exec (.phaseFailure t w d) s = .next r ∧ r.phasesLost w (domainCode d) = n + 1 ∧
          r.reg 0x3050 3 = holdAdd (s.reg 0x3050 3) 1 ∧ (r.reg 0x1110 0).getLsbD 12 = true ∧
          (region s = 2 → (n < 5 → region r = 2 ∧ r.mem = s.mem) ∧ (5 ≤ n → region r = 3)) ∧
          (region s ≠ 2 → (n < 2 → region r = region s ∧ r.mem = s.mem) ∧
            (2 ≤ n → s.st ≠ .running → 2 ≤ region r ∧ r.reg 0x3050 4 = holdAdd (s.reg 0x3050 4) 1) ∧
            (2 ≤ n → s.st = .running → region r = region s ∧ r.mem = s.mem ∧ (tblFind s.supply.retireBy w.num = none →
              tblFind r.supply.retireBy w.num = some (u.clk.now + 1000 * msUnits)))))) ∧
    (∀ (w : RegionId) (due : Time), tblFind s.supply.retireBy w.num = some due → s.st ≠ .running ∨ due ≤ u.clk.now →
      let poor := ∃ d < 4, 5 < s.phasesLost w d
      ∃ r : State, exec (.regionRetire t w) s = .next r ∧ tblFind r.supply.retireBy w.num = none ∧
        r.reg 0x3050 4 = holdAdd (s.reg 0x3050 4) 1 ∧ (poor → r.regionLost w = true) ∧
        (¬ poor → tblGet 0 r.supply.region w.num = 2 ∧ r.mem = s.mem ∧
          (s.work.usable (offRegion w) = true → r.work.unitState (offRegion w) = 1) ∧
          r.halting = s.halting ++ (if s.st = .running then [0x0C] else []))) ∧
    (∀ (w : RegionId) (d : Domain), s.regionLost w = false →
      ∃ r : State, exec (.regionShort t w d) s = .next r ∧ r.regionLost w = true ∧ r.work.unitState (offRegion w) = 2 ∧
        r.reg 0x3000 12 = 0 ∧
        r.reg 0x3050 5 = holdAdd (s.reg 0x3050 5) 1 ∧ r.reg 0x3050 6 = holdAdd (s.reg 0x3050 6) 1 ∧
        (∀ a, readByte r.mem a = if inRegion w a then 0 else readByte s.mem a) ∧
        r.halting = s.halting ++ (if s.st = .running then [0x0D] else [])) ∧
    ∀ k : Fin 12, 2 ≤ bricksLeft s k.val →
      ∃ r : State, exec (.brickLoss t k) s = .next r ∧ r = { u with regs := r.regs, supply := r.supply } ∧
        bricksLeft r k.val = bricksLeft s k.val - 1 ∧ (r.reg 0x1110 0).getLsbD 12 = true

/-- Losses in service and bring-up: a link that lost more wires than its spares is dead (04 R109); the lead cox's watchdog
leads to FAULT and ends the dictionary, another cox's loses its regions (01 R12, 15 R518); the changes of a stroke are
published with one advance of 2011h (13 R487) and kept in three copies (13 R489); a stage reports and the next follows,
ST9, once no port trains or its 25 s have passed, leads to READY, and ST0 with a lead cox that fails or does not boot, ST2
without its reference or ST3 without a copy to FAULT (01 R12; 13 R464, R466, R469, R472, R480-R482); the test port
takes an instruction as far as Table 14.2 permits (14 R495). -/
def Obligations.BringupAndLosses : Prop :=
  ∀ (s : State) (t : Time),
    let u := s.advance t
    s.st ≠ .off →
    (∀ (r : ColId) (dir : RPort) (lost : Nat),
      let b := s.work.byte (offLink r) ||| BitVec.ofNat 8 (2 ^ portCode dir)
      exec (.linkCheckingFail t r dir lost) s = .next (if 16 < lost ∧ (neighbour r dir).isSome then
        { u with work := { s.work with units := tblSet 0 s.work.units (offLink r) b } } else u)) ∧
    (s.st ≠ .running → ∃ r : State, exec (.leadCoxWatchdog t) s = .next r ∧ r.st = .fault ∧ r.coxDark = true ∧ r.dictHears = false ∧
      r.reg 0x1001 4 = 0x15 ∧ r.mem = s.mem) ∧
    (∀ k : Fin 12, k.val ≠ 0 →
      ∃ r : State, exec (.coxWatchdog t k) s = .next r ∧
        r = { u with work := r.work, supply := { s.supply with region := r.supply.region }
                     halting := s.halting ++ (if s.st = .running then [0x0C] else []) } ∧
        ∀ w : RegionId, w.num / 30 = k.val → r.work.unitState (offRegion w) = 2 ∧ r.regionLost w = true) ∧
    (s.work ≠ s.plan → s.st ≠ .bringup →
      ∃ r : State, exec (.floorPlanPublish t) s = .next r ∧ r.plan = { s.work with gen := s.plan.gen + 1 } ∧ r.work = r.plan ∧
        r.reg 0x2011 0 = s.plan.gen + 1 ∧ (r.reg 0x1110 0).getLsbD 1 = true ∧ r.cfg.copies = s.cfg.copies) ∧
    (s.work = s.plan ∨ s.st = .bringup → exec (.floorPlanPublish t) s = .next u) ∧
    (s.st = .bringup → s.boot.ended < 4 → ∀ n, exec (.configWrite t n) s = .next u) ∧
    (s.st ≠ .bringup ∨ 4 ≤ s.boot.ended → ∀ n, s.cfg.copies.length = 3 →
      let top := s.cfg.copies.foldl (fun m c => max m c.gen.toNat) 0
      ∃ (r : State) (c : ConfigCopy), exec (.configWrite t n) s = .next r ∧ r = { u with cfg := r.cfg } ∧ r.cfg.ruling = c ∧
        c.gen = BitVec.ofNat 64 (top + 1) ∧ c.validity = 0 ∧ c.dead = s.work.units.filter (fun e => e.2 ≠ 0) ∧
        (3 ≤ n → r.cfg.copies = [c, c, c])) ∧
    (∀ ir : TestIr,
      (s.testPortFull = true → (∀ code, ir ≠ .priv code) → exec (.testPortInstruction t ir) s = .next { u with testIr := ir }) ∧
      (s.testPortFull = false →
        exec (.testPortInstruction t ir) s = .next { u with testIr :=
          if ir = .bypass ∨ ir = .idcode ∨ ir = .samplePreload then ir else .bypass })) ∧
    ∀ f : StageFindings, s.st = .bringup → s.boot.running = true →
      (s.boot.stage = 0 ∨ s.boot.stage = 1 ∨ s.boot.stage = 4 ∨ s.boot.stage = 5 ∨ s.boot.stage = 6 → s.boot.hostMode = false →
        (s.boot.stage = 0 → f.fatal = false ∧ s.sec.slotFound = true) →
        ∃ r : State, exec (.bringupStageEnd t f) s = .next r ∧ r.st = .bringup ∧
          r.boot = { s.boot with stage := s.boot.stage + 1, running := true, since := u.clk.now, ended := s.boot.stage + 1 } ∧
          r.reg 0x2001 1 = BitVec.ofNat 64 (s.boot.stage + 1) ∧ r.reg 0x2002 2 = holdAdd (s.reg 0x2002 2) 1 ∧
          r.work = (u.stageFindings f).work) ∧
      (s.boot.stage = 0 → f.fatal = true ∨ s.sec.slotFound = false →
        ∃ r : State, exec (.bringupStageEnd t f) s = .next r ∧ r.st = .fault ∧ r.reg 0x1001 4 = 0x15 ∧ r.coxDark = true) ∧
      (s.boot.stage = 2 → s.pins.refclk = false →
        ∃ r : State, exec (.bringupStageEnd t f) s = .next r ∧ r.st = .fault ∧ r.reg 0x1001 4 = 2) ∧
      (s.boot.stage = 3 → (∀ c ∈ s.cfg.copies, c.validity ≠ 0) →
        ∃ r : State, exec (.bringupStageEnd t f) s = .next r ∧ r.st = .fault ∧ r.reg 0x1001 4 = 2 ∧ r.reg 0x2003 4 = 4) ∧
      (u.portsWait = true → exec (.bringupStageEnd t f) s = .next u) ∧
      (s.boot.stage = 9 → u.portsWait = false →
        ∃ r : State, exec (.bringupStageEnd t f) s = .next r ∧ r.st = .ready ∧ r.reg 0x1001 4 = 1 ∧ r.reg 0x2002 1 = 0x0A)

/-! ### The whole block -/

/-- What reset leaves: a bring-up from OFF at stage ST0 with an empty queue, no program, storage that reads zero with good
check bits (05 R191), cores and routers as at stroke 0 (03 R69, 04 R118), and every dictionary object at its reset value
(the values of log 3, log 5 and log 6 are the model's). -/
def Obligations.ResetLeaves : Prop :=
  State.reset.pending = [] ∧ State.reset.st = .bringup ∧ State.reset.boot.stage = 0 ∧ State.reset.boot.running = true ∧
    State.reset.clk.d01 = false ∧ State.reset.image = none ∧ State.reset.crews = [] ∧ State.reset.outbox = [] ∧
    (∀ a, readByte State.reset.mem a = 0 ∧ State.reset.eccOf a = 0 ∧ State.reset.stampOf a = 0) ∧
    (∀ c, State.reset.core c = CoreState.start ∧ State.reset.store (.core c) = []) ∧
    (∀ r, State.reset.router r = RouterState.start) ∧
    (∀ idx sub, State.reset.reg idx sub = regReset (regKey idx sub)) ∧ Stored State.reset ∧ RegsRise State.reset

/-- An invariant of every step: memory, check states and stamps keep their canonical form, whatever the command. -/
def Obligations.StepKeepsStored : Prop :=
  ∀ s t : State, Stored s → step s = .next t → Stored t

/-- Every command answers a next state in every state, but two: a flit command whose flit has not 244 payload bytes, which
is no flit, and a private instruction of an open test port, whose effect the spec does not give (14 R495). -/
def Obligations.WhereCommandsStop : Prop :=
  ∀ (c : Instr) (s : State),
    (∃ t : State, exec c s = .next t) ∨
    (exec c s = .fault .badOperand ∧ ∃ time port lane f, f.payload.length ≠ 244 ∧
      (c = .dataFlitReceive time port lane f ∨ c = .fillFlitReceive time port lane f)) ∨
    (exec c s = .refused .privateTestInstruction ∧ s.st ≠ .off ∧ s.testPortFull = true ∧
      ∃ time code, c = .testPortInstruction time (.priv code))
end

