-- ==== Sys2Proof/Laws/Table.lean ====
section
/-! SUPPORT. Laws of sparse tables: a read after a write, other entries, and the canonical form. -/

namespace Sys2Proof.Machine

variable {α : Type}

@[simp] theorem tblFind_nil (q : Nat) : tblFind ([] : Tbl α) q = none := rfl

@[simp] theorem tblGet_nil (d : α) (q : Nat) : tblGet d [] q = d := rfl

theorem tblFind_put_same (t : Tbl α) (q : Nat) (v : α) : tblFind (tblPut t q v) q = some v := by
  induction t with
  | nil => simp [tblPut, tblFind]
  | cons e t ih =>
    simp only [tblPut]
    split
    · simp [tblFind]
    · split
      · simp [tblFind]
      · rename_i h; simp [tblFind, h, ih]

theorem tblFind_put_ne (t : Tbl α) {q r : Nat} (v : α) (h : r ≠ q) : tblFind (tblPut t q v) r = tblFind t r := by
  induction t with
  | nil => simp [tblPut, tblFind, h]
  | cons e t ih =>
    simp only [tblPut]
    split
    · simp [tblFind, h]
    · split
      · rename_i h'; simp [tblFind, h, ← h']
      · simp [tblFind, ih]

theorem tblFind_del_same (t : Tbl α) (q : Nat) : tblFind (tblDel t q) q = none := by
  induction t with
  | nil => rfl
  | cons e t ih =>
    simp only [tblDel]
    split
    · exact ih
    · rename_i h; simp [tblFind, h, ih]

theorem tblFind_del_ne (t : Tbl α) {q r : Nat} (h : r ≠ q) : tblFind (tblDel t q) r = tblFind t r := by
  induction t with
  | nil => rfl
  | cons e t ih =>
    simp only [tblDel]
    split
    · rename_i h'; simp [tblFind, ← h', h, ih]
    · simp [tblFind, ih]

/-- A read after a write gives the value written. -/
@[simp] theorem tblGet_set_same [DecidableEq α] (d : α) (t : Tbl α) (q : Nat) (v : α) : tblGet d (tblSet d t q v) q = v := by
  unfold tblSet tblGet
  split
  · rename_i h; simp [tblFind_del_same, h]
  · simp [tblFind_put_same]

theorem tblFind_set_ne [DecidableEq α] (d : α) (t : Tbl α) {q r : Nat} (v : α) (h : r ≠ q) :
    tblFind (tblSet d t q v) r = tblFind t r := by
  unfold tblSet
  split
  · exact tblFind_del_ne _ h
  · exact tblFind_put_ne _ _ h

/-- A write leaves every other entry alone. -/
theorem tblGet_set_ne [DecidableEq α] (d : α) (t : Tbl α) {q r : Nat} (v : α) (h : r ≠ q) :
    tblGet d (tblSet d t q v) r = tblGet d t r := by
  simp [tblGet, tblFind_set_ne d t v h]

/-- Both at once. -/
theorem tblGet_set [DecidableEq α] (d : α) (t : Tbl α) (q r : Nat) (v : α) :
    tblGet d (tblSet d t q v) r = if r = q then v else tblGet d t r := by
  split
  · rename_i h; simp [h]
  · rename_i h; exact tblGet_set_ne d t v h

/-! ### The canonical form -/

theorem tblRising_put (t : Tbl α) (lo : Option Nat) (q : Nat) (v : α) (hq : ∀ b, lo = some b → b < q)
    (h : tblRising lo t = true) : tblRising lo (tblPut t q v) = true := by
  induction t generalizing lo with
  | nil => cases lo <;> simp_all [tblPut, tblRising]
  | cons e t ih =>
    simp only [tblRising, Bool.and_eq_true] at h
    simp only [tblPut]
    split
    · rename_i h1; cases lo <;> simp_all [tblRising]
    · split
      · rename_i h1; subst h1; simp [tblRising, h.1, h.2]
      · rename_i h1 h2
        simp only [tblRising, Bool.and_eq_true]
        exact ⟨h.1, ih _ (fun b hb => by cases hb; omega) h.2⟩

/-- Dropping entries keeps the keys rising. -/
theorem tblRising_tail (t : Tbl α) {lo : Option Nat} {k : Nat} (hk : ∀ b, lo = some b → b < k)
    (h : tblRising (some k) t = true) : tblRising lo t = true := by
  cases t with
  | nil => cases lo <;> rfl
  | cons e t =>
    simp only [tblRising, Bool.and_eq_true, decide_eq_true_eq] at h ⊢
    refine ⟨?_, h.2⟩
    cases lo with
    | none => rfl
    | some b => simpa using Nat.lt_trans (hk b rfl) h.1

theorem tblRising_filter (p : Nat × α → Bool) (t : Tbl α) (lo : Option Nat) (h : tblRising lo t = true) :
    tblRising lo (t.filter p) = true := by
  induction t generalizing lo with
  | nil => simpa using h
  | cons e t ih =>
    have h' := h
    simp only [tblRising, Bool.and_eq_true] at h
    cases hp : p e with
    | true =>
      rw [List.filter_cons_of_pos (by simpa using hp)]
      simp only [tblRising, Bool.and_eq_true]
      exact ⟨h.1, ih _ h.2⟩
    | false =>
      rw [List.filter_cons_of_neg (by simp [hp])]
      refine ih _ (tblRising_tail t (fun b hb => ?_) h.2)
      subst hb; simpa using h.1

theorem tblDel_eq_filter (t : Tbl α) (q : Nat) : tblDel t q = t.filter fun e => decide (e.1 ≠ q) := by
  induction t with
  | nil => rfl
  | cons e t ih =>
    simp only [tblDel]
    split
    · rename_i h; subst h; simpa using ih
    · rename_i h
      rw [List.filter_cons_of_pos (by simpa using fun h' => h h'.symm), ih]

theorem tblMem_put {t : Tbl α} {q : Nat} {v : α} {e : Nat × α} (h : e ∈ tblPut t q v) : e = (q, v) ∨ e ∈ t := by
  induction t with
  | nil => simpa [tblPut] using h
  | cons f t ih =>
    simp only [tblPut] at h
    split at h
    · simpa using h
    · split at h
      · rcases List.mem_cons.1 h with h | h
        · exact .inl h
        · exact .inr (.tail _ h)
      · rcases List.mem_cons.1 h with h | h
        · exact .inr (h ▸ .head _)
        · exact (ih h).imp id (.tail _)

/-- A filter keeps the canonical form. -/
theorem tblWf_filter [DecidableEq α] (d : α) (p : Nat × α → Bool) {t : Tbl α} (h : tblWf d t = true) : tblWf d (t.filter p) = true := by
  simp only [tblWf, Bool.and_eq_true, List.all_eq_true] at h ⊢
  exact ⟨tblRising_filter p t _ h.1, fun e he => h.2 e (List.mem_filter.1 he).1⟩

/-- Entering a value that is not the default keeps the canonical form. -/
theorem tblWf_put [DecidableEq α] (d : α) {t : Tbl α} (q : Nat) {v : α} (hv : v ≠ d) (h : tblWf d t = true) :
    tblWf d (tblPut t q v) = true := by
  simp only [tblWf, Bool.and_eq_true, List.all_eq_true] at h ⊢
  refine ⟨tblRising_put t _ q v (fun b hb => by cases hb) h.1, fun e he => ?_⟩
  rcases tblMem_put he with rfl | he
  · simpa using hv
  · exact h.2 e he

/-- A write keeps the canonical form. -/
theorem tblWf_set [DecidableEq α] (d : α) {t : Tbl α} (q : Nat) (v : α) (h : tblWf d t = true) : tblWf d (tblSet d t q v) = true := by
  unfold tblSet
  split
  · rw [tblDel_eq_filter]; exact tblWf_filter d _ h
  · rename_i hv; exact tblWf_put d q hv h

@[simp] theorem tblWf_nil [DecidableEq α] (d : α) : tblWf d ([] : Tbl α) = true := rfl

end Sys2Proof.Machine
end

