-- ==== Sys2Proof/Laws/State.lean ====
section
/-! SUPPORT. Laws of the updates of the state: one lemma for each field of each update, and what the
accessors read after them. -/

namespace Sys2Proof.Machine

/-! ### advance -/

@[simp] theorem State.advance_pending (s : State) (t : Time) : (s.advance t).pending = s.pending := rfl
@[simp] theorem State.advance_fresh (s : State) (t : Time) : (s.advance t).fresh = s.fresh := rfl
@[simp] theorem State.advance_clk (s : State) (t : Time) : (s.advance t).clk = { s.clk with now := max s.clk.now t } := rfl
@[simp] theorem State.advance_st (s : State) (t : Time) : (s.advance t).st = s.st := rfl
@[simp] theorem State.advance_halting (s : State) (t : Time) : (s.advance t).halting = s.halting := rfl
@[simp] theorem State.advance_regs (s : State) (t : Time) : (s.advance t).regs = s.regs := rfl
@[simp] theorem State.advance_mem (s : State) (t : Time) : (s.advance t).mem = s.mem := rfl
@[simp] theorem State.advance_ecc (s : State) (t : Time) : (s.advance t).ecc = s.ecc := rfl
@[simp] theorem State.advance_stamps (s : State) (t : Time) : (s.advance t).stamps = s.stamps := rfl
@[simp] theorem State.advance_opStores (s : State) (t : Time) : (s.advance t).opStores = s.opStores := rfl
@[simp] theorem State.advance_routeStores (s : State) (t : Time) : (s.advance t).routeStores = s.routeStores := rfl
@[simp] theorem State.advance_cores (s : State) (t : Time) : (s.advance t).cores = s.cores := rfl
@[simp] theorem State.advance_routers (s : State) (t : Time) : (s.advance t).routers = s.routers := rfl
@[simp] theorem State.advance_flits (s : State) (t : Time) : (s.advance t).flits = s.flits := rfl
@[simp] theorem State.advance_sinks (s : State) (t : Time) : (s.advance t).sinks = s.sinks := rfl
@[simp] theorem State.advance_openQ (s : State) (t : Time) : (s.advance t).openQ = s.openQ := rfl
@[simp] theorem State.advance_openUsed (s : State) (t : Time) : (s.advance t).openUsed = s.openUsed := rfl
@[simp] theorem State.advance_engineIn (s : State) (t : Time) : (s.advance t).engineIn = s.engineIn := rfl
@[simp] theorem State.advance_wells (s : State) (t : Time) : (s.advance t).wells = s.wells := rfl
@[simp] theorem State.advance_nb (s : State) (t : Time) : (s.advance t).nb = s.nb := rfl
@[simp] theorem State.advance_vaults (s : State) (t : Time) : (s.advance t).vaults = s.vaults := rfl
@[simp] theorem State.advance_scrub (s : State) (t : Time) : (s.advance t).scrub = s.scrub := rfl
@[simp] theorem State.advance_umpire (s : State) (t : Time) : (s.advance t).umpire = s.umpire := rfl
@[simp] theorem State.advance_gathered (s : State) (t : Time) : (s.advance t).gathered = s.gathered := rfl
@[simp] theorem State.advance_image (s : State) (t : Time) : (s.advance t).image = s.image := rfl
@[simp] theorem State.advance_plan (s : State) (t : Time) : (s.advance t).plan = s.plan := rfl
@[simp] theorem State.advance_work (s : State) (t : Time) : (s.advance t).work = s.work := rfl
@[simp] theorem State.advance_doms (s : State) (t : Time) : (s.advance t).doms = s.doms := rfl
@[simp] theorem State.advance_latestSeal (s : State) (t : Time) : (s.advance t).latestSeal = s.latestSeal := rfl
@[simp] theorem State.advance_startStep (s : State) (t : Time) : (s.advance t).startStep = s.startStep := rfl
@[simp] theorem State.advance_heat (s : State) (t : Time) : (s.advance t).heat = s.heat := rfl
@[simp] theorem State.advance_power (s : State) (t : Time) : (s.advance t).power = s.power := rfl
@[simp] theorem State.advance_supply (s : State) (t : Time) : (s.advance t).supply = s.supply := rfl
@[simp] theorem State.advance_crews (s : State) (t : Time) : (s.advance t).crews = s.crews := rfl
@[simp] theorem State.advance_outbox (s : State) (t : Time) : (s.advance t).outbox = s.outbox := rfl
@[simp] theorem State.advance_pins (s : State) (t : Time) : (s.advance t).pins = s.pins := rfl
@[simp] theorem State.advance_stop (s : State) (t : Time) : (s.advance t).stop = s.stop := rfl
@[simp] theorem State.advance_coxDark (s : State) (t : Time) : (s.advance t).coxDark = s.coxDark := rfl
@[simp] theorem State.advance_boot (s : State) (t : Time) : (s.advance t).boot = s.boot := rfl
@[simp] theorem State.advance_cfg (s : State) (t : Time) : (s.advance t).cfg = s.cfg := rfl
@[simp] theorem State.advance_sec (s : State) (t : Time) : (s.advance t).sec = s.sec := rfl
@[simp] theorem State.advance_ports (s : State) (t : Time) : (s.advance t).ports = s.ports := rfl
@[simp] theorem State.advance_hostTags (s : State) (t : Time) : (s.advance t).hostTags = s.hostTags := rfl
@[simp] theorem State.advance_copies (s : State) (t : Time) : (s.advance t).copies = s.copies := rfl
@[simp] theorem State.advance_streams (s : State) (t : Time) : (s.advance t).streams = s.streams := rfl
@[simp] theorem State.advance_nextReq (s : State) (t : Time) : (s.advance t).nextReq = s.nextReq := rfl
@[simp] theorem State.advance_streamTurn (s : State) (t : Time) : (s.advance t).streamTurn = s.streamTurn := rfl
@[simp] theorem State.advance_dict (s : State) (t : Time) : (s.advance t).dict = s.dict := rfl
@[simp] theorem State.advance_pages (s : State) (t : Time) : (s.advance t).pages = s.pages := rfl
@[simp] theorem State.advance_loading (s : State) (t : Time) : (s.advance t).loading = s.loading := rfl
@[simp] theorem State.advance_stateTab (s : State) (t : Time) : (s.advance t).stateTab = s.stateTab := rfl
@[simp] theorem State.advance_snap (s : State) (t : Time) : (s.advance t).snap = s.snap := rfl
@[simp] theorem State.advance_testIr (s : State) (t : Time) : (s.advance t).testIr = s.testIr := rfl

/-! ### setReg -/

@[simp] theorem State.setReg_pending (s : State) (i j : Nat) (v : BitVec 64) : (s.setReg i j v).pending = s.pending := rfl
@[simp] theorem State.setReg_fresh (s : State) (i j : Nat) (v : BitVec 64) : (s.setReg i j v).fresh = s.fresh := rfl
@[simp] theorem State.setReg_clk (s : State) (i j : Nat) (v : BitVec 64) : (s.setReg i j v).clk = s.clk := rfl
@[simp] theorem State.setReg_st (s : State) (i j : Nat) (v : BitVec 64) : (s.setReg i j v).st = s.st := rfl
@[simp] theorem State.setReg_halting (s : State) (i j : Nat) (v : BitVec 64) : (s.setReg i j v).halting = s.halting := rfl
@[simp] theorem State.setReg_regs (s : State) (i j : Nat) (v : BitVec 64) : (s.setReg i j v).regs = tblSet (regReset (regKey i j)) s.regs (regKey i j) v := rfl
@[simp] theorem State.setReg_mem (s : State) (i j : Nat) (v : BitVec 64) : (s.setReg i j v).mem = s.mem := rfl
@[simp] theorem State.setReg_ecc (s : State) (i j : Nat) (v : BitVec 64) : (s.setReg i j v).ecc = s.ecc := rfl
@[simp] theorem State.setReg_stamps (s : State) (i j : Nat) (v : BitVec 64) : (s.setReg i j v).stamps = s.stamps := rfl
@[simp] theorem State.setReg_opStores (s : State) (i j : Nat) (v : BitVec 64) : (s.setReg i j v).opStores = s.opStores := rfl
@[simp] theorem State.setReg_routeStores (s : State) (i j : Nat) (v : BitVec 64) : (s.setReg i j v).routeStores = s.routeStores := rfl
@[simp] theorem State.setReg_cores (s : State) (i j : Nat) (v : BitVec 64) : (s.setReg i j v).cores = s.cores := rfl
@[simp] theorem State.setReg_routers (s : State) (i j : Nat) (v : BitVec 64) : (s.setReg i j v).routers = s.routers := rfl
@[simp] theorem State.setReg_flits (s : State) (i j : Nat) (v : BitVec 64) : (s.setReg i j v).flits = s.flits := rfl
@[simp] theorem State.setReg_sinks (s : State) (i j : Nat) (v : BitVec 64) : (s.setReg i j v).sinks = s.sinks := rfl
@[simp] theorem State.setReg_openQ (s : State) (i j : Nat) (v : BitVec 64) : (s.setReg i j v).openQ = s.openQ := rfl
@[simp] theorem State.setReg_openUsed (s : State) (i j : Nat) (v : BitVec 64) : (s.setReg i j v).openUsed = s.openUsed := rfl
@[simp] theorem State.setReg_engineIn (s : State) (i j : Nat) (v : BitVec 64) : (s.setReg i j v).engineIn = s.engineIn := rfl
@[simp] theorem State.setReg_wells (s : State) (i j : Nat) (v : BitVec 64) : (s.setReg i j v).wells = s.wells := rfl
@[simp] theorem State.setReg_nb (s : State) (i j : Nat) (v : BitVec 64) : (s.setReg i j v).nb = s.nb := rfl
@[simp] theorem State.setReg_vaults (s : State) (i j : Nat) (v : BitVec 64) : (s.setReg i j v).vaults = s.vaults := rfl
@[simp] theorem State.setReg_scrub (s : State) (i j : Nat) (v : BitVec 64) : (s.setReg i j v).scrub = s.scrub := rfl
@[simp] theorem State.setReg_umpire (s : State) (i j : Nat) (v : BitVec 64) : (s.setReg i j v).umpire = s.umpire := rfl
@[simp] theorem State.setReg_gathered (s : State) (i j : Nat) (v : BitVec 64) : (s.setReg i j v).gathered = s.gathered := rfl
@[simp] theorem State.setReg_image (s : State) (i j : Nat) (v : BitVec 64) : (s.setReg i j v).image = s.image := rfl
@[simp] theorem State.setReg_plan (s : State) (i j : Nat) (v : BitVec 64) : (s.setReg i j v).plan = s.plan := rfl
@[simp] theorem State.setReg_work (s : State) (i j : Nat) (v : BitVec 64) : (s.setReg i j v).work = s.work := rfl
@[simp] theorem State.setReg_doms (s : State) (i j : Nat) (v : BitVec 64) : (s.setReg i j v).doms = s.doms := rfl
@[simp] theorem State.setReg_latestSeal (s : State) (i j : Nat) (v : BitVec 64) : (s.setReg i j v).latestSeal = s.latestSeal := rfl
@[simp] theorem State.setReg_startStep (s : State) (i j : Nat) (v : BitVec 64) : (s.setReg i j v).startStep = s.startStep := rfl
@[simp] theorem State.setReg_heat (s : State) (i j : Nat) (v : BitVec 64) : (s.setReg i j v).heat = s.heat := rfl
@[simp] theorem State.setReg_power (s : State) (i j : Nat) (v : BitVec 64) : (s.setReg i j v).power = s.power := rfl
@[simp] theorem State.setReg_supply (s : State) (i j : Nat) (v : BitVec 64) : (s.setReg i j v).supply = s.supply := rfl
@[simp] theorem State.setReg_crews (s : State) (i j : Nat) (v : BitVec 64) : (s.setReg i j v).crews = s.crews := rfl
@[simp] theorem State.setReg_outbox (s : State) (i j : Nat) (v : BitVec 64) : (s.setReg i j v).outbox = s.outbox := rfl
@[simp] theorem State.setReg_pins (s : State) (i j : Nat) (v : BitVec 64) : (s.setReg i j v).pins = s.pins := rfl
@[simp] theorem State.setReg_stop (s : State) (i j : Nat) (v : BitVec 64) : (s.setReg i j v).stop = s.stop := rfl
@[simp] theorem State.setReg_coxDark (s : State) (i j : Nat) (v : BitVec 64) : (s.setReg i j v).coxDark = s.coxDark := rfl
@[simp] theorem State.setReg_boot (s : State) (i j : Nat) (v : BitVec 64) : (s.setReg i j v).boot = s.boot := rfl
@[simp] theorem State.setReg_cfg (s : State) (i j : Nat) (v : BitVec 64) : (s.setReg i j v).cfg = s.cfg := rfl
@[simp] theorem State.setReg_sec (s : State) (i j : Nat) (v : BitVec 64) : (s.setReg i j v).sec = s.sec := rfl
@[simp] theorem State.setReg_ports (s : State) (i j : Nat) (v : BitVec 64) : (s.setReg i j v).ports = s.ports := rfl
@[simp] theorem State.setReg_hostTags (s : State) (i j : Nat) (v : BitVec 64) : (s.setReg i j v).hostTags = s.hostTags := rfl
@[simp] theorem State.setReg_copies (s : State) (i j : Nat) (v : BitVec 64) : (s.setReg i j v).copies = s.copies := rfl
@[simp] theorem State.setReg_streams (s : State) (i j : Nat) (v : BitVec 64) : (s.setReg i j v).streams = s.streams := rfl
@[simp] theorem State.setReg_nextReq (s : State) (i j : Nat) (v : BitVec 64) : (s.setReg i j v).nextReq = s.nextReq := rfl
@[simp] theorem State.setReg_streamTurn (s : State) (i j : Nat) (v : BitVec 64) : (s.setReg i j v).streamTurn = s.streamTurn := rfl
@[simp] theorem State.setReg_dict (s : State) (i j : Nat) (v : BitVec 64) : (s.setReg i j v).dict = s.dict := rfl
@[simp] theorem State.setReg_pages (s : State) (i j : Nat) (v : BitVec 64) : (s.setReg i j v).pages = s.pages := rfl
@[simp] theorem State.setReg_loading (s : State) (i j : Nat) (v : BitVec 64) : (s.setReg i j v).loading = s.loading := rfl
@[simp] theorem State.setReg_stateTab (s : State) (i j : Nat) (v : BitVec 64) : (s.setReg i j v).stateTab = s.stateTab := rfl
@[simp] theorem State.setReg_snap (s : State) (i j : Nat) (v : BitVec 64) : (s.setReg i j v).snap = s.snap := rfl
@[simp] theorem State.setReg_testIr (s : State) (i j : Nat) (v : BitVec 64) : (s.setReg i j v).testIr = s.testIr := rfl

/-! ### setDom -/

@[simp] theorem State.setDom_pending (s : State) (i j : Nat) (v : List Byte) : (s.setDom i j v).pending = s.pending := rfl
@[simp] theorem State.setDom_fresh (s : State) (i j : Nat) (v : List Byte) : (s.setDom i j v).fresh = s.fresh := rfl
@[simp] theorem State.setDom_clk (s : State) (i j : Nat) (v : List Byte) : (s.setDom i j v).clk = s.clk := rfl
@[simp] theorem State.setDom_st (s : State) (i j : Nat) (v : List Byte) : (s.setDom i j v).st = s.st := rfl
@[simp] theorem State.setDom_halting (s : State) (i j : Nat) (v : List Byte) : (s.setDom i j v).halting = s.halting := rfl
@[simp] theorem State.setDom_regs (s : State) (i j : Nat) (v : List Byte) : (s.setDom i j v).regs = s.regs := rfl
@[simp] theorem State.setDom_mem (s : State) (i j : Nat) (v : List Byte) : (s.setDom i j v).mem = s.mem := rfl
@[simp] theorem State.setDom_ecc (s : State) (i j : Nat) (v : List Byte) : (s.setDom i j v).ecc = s.ecc := rfl
@[simp] theorem State.setDom_stamps (s : State) (i j : Nat) (v : List Byte) : (s.setDom i j v).stamps = s.stamps := rfl
@[simp] theorem State.setDom_opStores (s : State) (i j : Nat) (v : List Byte) : (s.setDom i j v).opStores = s.opStores := rfl
@[simp] theorem State.setDom_routeStores (s : State) (i j : Nat) (v : List Byte) : (s.setDom i j v).routeStores = s.routeStores := rfl
@[simp] theorem State.setDom_cores (s : State) (i j : Nat) (v : List Byte) : (s.setDom i j v).cores = s.cores := rfl
@[simp] theorem State.setDom_routers (s : State) (i j : Nat) (v : List Byte) : (s.setDom i j v).routers = s.routers := rfl
@[simp] theorem State.setDom_flits (s : State) (i j : Nat) (v : List Byte) : (s.setDom i j v).flits = s.flits := rfl
@[simp] theorem State.setDom_sinks (s : State) (i j : Nat) (v : List Byte) : (s.setDom i j v).sinks = s.sinks := rfl
@[simp] theorem State.setDom_openQ (s : State) (i j : Nat) (v : List Byte) : (s.setDom i j v).openQ = s.openQ := rfl
@[simp] theorem State.setDom_openUsed (s : State) (i j : Nat) (v : List Byte) : (s.setDom i j v).openUsed = s.openUsed := rfl
@[simp] theorem State.setDom_engineIn (s : State) (i j : Nat) (v : List Byte) : (s.setDom i j v).engineIn = s.engineIn := rfl
@[simp] theorem State.setDom_wells (s : State) (i j : Nat) (v : List Byte) : (s.setDom i j v).wells = s.wells := rfl
@[simp] theorem State.setDom_nb (s : State) (i j : Nat) (v : List Byte) : (s.setDom i j v).nb = s.nb := rfl
@[simp] theorem State.setDom_vaults (s : State) (i j : Nat) (v : List Byte) : (s.setDom i j v).vaults = s.vaults := rfl
@[simp] theorem State.setDom_scrub (s : State) (i j : Nat) (v : List Byte) : (s.setDom i j v).scrub = s.scrub := rfl
@[simp] theorem State.setDom_umpire (s : State) (i j : Nat) (v : List Byte) : (s.setDom i j v).umpire = s.umpire := rfl
@[simp] theorem State.setDom_gathered (s : State) (i j : Nat) (v : List Byte) : (s.setDom i j v).gathered = s.gathered := rfl
@[simp] theorem State.setDom_image (s : State) (i j : Nat) (v : List Byte) : (s.setDom i j v).image = s.image := rfl
@[simp] theorem State.setDom_plan (s : State) (i j : Nat) (v : List Byte) : (s.setDom i j v).plan = s.plan := rfl
@[simp] theorem State.setDom_work (s : State) (i j : Nat) (v : List Byte) : (s.setDom i j v).work = s.work := rfl
@[simp] theorem State.setDom_doms (s : State) (i j : Nat) (v : List Byte) : (s.setDom i j v).doms = tblSet [] s.doms (regKey i j) v := rfl
@[simp] theorem State.setDom_latestSeal (s : State) (i j : Nat) (v : List Byte) : (s.setDom i j v).latestSeal = s.latestSeal := rfl
@[simp] theorem State.setDom_startStep (s : State) (i j : Nat) (v : List Byte) : (s.setDom i j v).startStep = s.startStep := rfl
@[simp] theorem State.setDom_heat (s : State) (i j : Nat) (v : List Byte) : (s.setDom i j v).heat = s.heat := rfl
@[simp] theorem State.setDom_power (s : State) (i j : Nat) (v : List Byte) : (s.setDom i j v).power = s.power := rfl
@[simp] theorem State.setDom_supply (s : State) (i j : Nat) (v : List Byte) : (s.setDom i j v).supply = s.supply := rfl
@[simp] theorem State.setDom_crews (s : State) (i j : Nat) (v : List Byte) : (s.setDom i j v).crews = s.crews := rfl
@[simp] theorem State.setDom_outbox (s : State) (i j : Nat) (v : List Byte) : (s.setDom i j v).outbox = s.outbox := rfl
@[simp] theorem State.setDom_pins (s : State) (i j : Nat) (v : List Byte) : (s.setDom i j v).pins = s.pins := rfl
@[simp] theorem State.setDom_stop (s : State) (i j : Nat) (v : List Byte) : (s.setDom i j v).stop = s.stop := rfl
@[simp] theorem State.setDom_coxDark (s : State) (i j : Nat) (v : List Byte) : (s.setDom i j v).coxDark = s.coxDark := rfl
@[simp] theorem State.setDom_boot (s : State) (i j : Nat) (v : List Byte) : (s.setDom i j v).boot = s.boot := rfl
@[simp] theorem State.setDom_cfg (s : State) (i j : Nat) (v : List Byte) : (s.setDom i j v).cfg = s.cfg := rfl
@[simp] theorem State.setDom_sec (s : State) (i j : Nat) (v : List Byte) : (s.setDom i j v).sec = s.sec := rfl
@[simp] theorem State.setDom_ports (s : State) (i j : Nat) (v : List Byte) : (s.setDom i j v).ports = s.ports := rfl
@[simp] theorem State.setDom_hostTags (s : State) (i j : Nat) (v : List Byte) : (s.setDom i j v).hostTags = s.hostTags := rfl
@[simp] theorem State.setDom_copies (s : State) (i j : Nat) (v : List Byte) : (s.setDom i j v).copies = s.copies := rfl
@[simp] theorem State.setDom_streams (s : State) (i j : Nat) (v : List Byte) : (s.setDom i j v).streams = s.streams := rfl
@[simp] theorem State.setDom_nextReq (s : State) (i j : Nat) (v : List Byte) : (s.setDom i j v).nextReq = s.nextReq := rfl
@[simp] theorem State.setDom_streamTurn (s : State) (i j : Nat) (v : List Byte) : (s.setDom i j v).streamTurn = s.streamTurn := rfl
@[simp] theorem State.setDom_dict (s : State) (i j : Nat) (v : List Byte) : (s.setDom i j v).dict = s.dict := rfl
@[simp] theorem State.setDom_pages (s : State) (i j : Nat) (v : List Byte) : (s.setDom i j v).pages = s.pages := rfl
@[simp] theorem State.setDom_loading (s : State) (i j : Nat) (v : List Byte) : (s.setDom i j v).loading = s.loading := rfl
@[simp] theorem State.setDom_stateTab (s : State) (i j : Nat) (v : List Byte) : (s.setDom i j v).stateTab = s.stateTab := rfl
@[simp] theorem State.setDom_snap (s : State) (i j : Nat) (v : List Byte) : (s.setDom i j v).snap = s.snap := rfl
@[simp] theorem State.setDom_testIr (s : State) (i j : Nat) (v : List Byte) : (s.setDom i j v).testIr = s.testIr := rfl

/-! ### putWord -/

@[simp] theorem State.putWord_pending (s : State) (a : Nat) (v : EccWord) : (s.putWord a v).pending = s.pending := rfl
@[simp] theorem State.putWord_fresh (s : State) (a : Nat) (v : EccWord) : (s.putWord a v).fresh = s.fresh := rfl
@[simp] theorem State.putWord_clk (s : State) (a : Nat) (v : EccWord) : (s.putWord a v).clk = s.clk := rfl
@[simp] theorem State.putWord_st (s : State) (a : Nat) (v : EccWord) : (s.putWord a v).st = s.st := rfl
@[simp] theorem State.putWord_halting (s : State) (a : Nat) (v : EccWord) : (s.putWord a v).halting = s.halting := rfl
@[simp] theorem State.putWord_regs (s : State) (a : Nat) (v : EccWord) : (s.putWord a v).regs = s.regs := rfl
@[simp] theorem State.putWord_mem (s : State) (a : Nat) (v : EccWord) : (s.putWord a v).mem = writeBytes s.mem a (bytesOfWord v) := rfl
@[simp] theorem State.putWord_ecc (s : State) (a : Nat) (v : EccWord) : (s.putWord a v).ecc = tblSet 0 s.ecc (a / 32) 0 := rfl
@[simp] theorem State.putWord_stamps (s : State) (a : Nat) (v : EccWord) : (s.putWord a v).stamps = s.stamps := rfl
@[simp] theorem State.putWord_opStores (s : State) (a : Nat) (v : EccWord) : (s.putWord a v).opStores = s.opStores := rfl
@[simp] theorem State.putWord_routeStores (s : State) (a : Nat) (v : EccWord) : (s.putWord a v).routeStores = s.routeStores := rfl
@[simp] theorem State.putWord_cores (s : State) (a : Nat) (v : EccWord) : (s.putWord a v).cores = s.cores := rfl
@[simp] theorem State.putWord_routers (s : State) (a : Nat) (v : EccWord) : (s.putWord a v).routers = s.routers := rfl
@[simp] theorem State.putWord_flits (s : State) (a : Nat) (v : EccWord) : (s.putWord a v).flits = s.flits := rfl
@[simp] theorem State.putWord_sinks (s : State) (a : Nat) (v : EccWord) : (s.putWord a v).sinks = s.sinks := rfl
@[simp] theorem State.putWord_openQ (s : State) (a : Nat) (v : EccWord) : (s.putWord a v).openQ = s.openQ := rfl
@[simp] theorem State.putWord_openUsed (s : State) (a : Nat) (v : EccWord) : (s.putWord a v).openUsed = s.openUsed := rfl
@[simp] theorem State.putWord_engineIn (s : State) (a : Nat) (v : EccWord) : (s.putWord a v).engineIn = s.engineIn := rfl
@[simp] theorem State.putWord_wells (s : State) (a : Nat) (v : EccWord) : (s.putWord a v).wells = s.wells := rfl
@[simp] theorem State.putWord_nb (s : State) (a : Nat) (v : EccWord) : (s.putWord a v).nb = s.nb := rfl
@[simp] theorem State.putWord_vaults (s : State) (a : Nat) (v : EccWord) : (s.putWord a v).vaults = s.vaults := rfl
@[simp] theorem State.putWord_scrub (s : State) (a : Nat) (v : EccWord) : (s.putWord a v).scrub = s.scrub := rfl
@[simp] theorem State.putWord_umpire (s : State) (a : Nat) (v : EccWord) : (s.putWord a v).umpire = s.umpire := rfl
@[simp] theorem State.putWord_gathered (s : State) (a : Nat) (v : EccWord) : (s.putWord a v).gathered = s.gathered := rfl
@[simp] theorem State.putWord_image (s : State) (a : Nat) (v : EccWord) : (s.putWord a v).image = s.image := rfl
@[simp] theorem State.putWord_plan (s : State) (a : Nat) (v : EccWord) : (s.putWord a v).plan = s.plan := rfl
@[simp] theorem State.putWord_work (s : State) (a : Nat) (v : EccWord) : (s.putWord a v).work = s.work := rfl
@[simp] theorem State.putWord_doms (s : State) (a : Nat) (v : EccWord) : (s.putWord a v).doms = s.doms := rfl
@[simp] theorem State.putWord_latestSeal (s : State) (a : Nat) (v : EccWord) : (s.putWord a v).latestSeal = s.latestSeal := rfl
@[simp] theorem State.putWord_startStep (s : State) (a : Nat) (v : EccWord) : (s.putWord a v).startStep = s.startStep := rfl
@[simp] theorem State.putWord_heat (s : State) (a : Nat) (v : EccWord) : (s.putWord a v).heat = s.heat := rfl
@[simp] theorem State.putWord_power (s : State) (a : Nat) (v : EccWord) : (s.putWord a v).power = s.power := rfl
@[simp] theorem State.putWord_supply (s : State) (a : Nat) (v : EccWord) : (s.putWord a v).supply = s.supply := rfl
@[simp] theorem State.putWord_crews (s : State) (a : Nat) (v : EccWord) : (s.putWord a v).crews = s.crews := rfl
@[simp] theorem State.putWord_outbox (s : State) (a : Nat) (v : EccWord) : (s.putWord a v).outbox = s.outbox := rfl
@[simp] theorem State.putWord_pins (s : State) (a : Nat) (v : EccWord) : (s.putWord a v).pins = s.pins := rfl
@[simp] theorem State.putWord_stop (s : State) (a : Nat) (v : EccWord) : (s.putWord a v).stop = s.stop := rfl
@[simp] theorem State.putWord_coxDark (s : State) (a : Nat) (v : EccWord) : (s.putWord a v).coxDark = s.coxDark := rfl
@[simp] theorem State.putWord_boot (s : State) (a : Nat) (v : EccWord) : (s.putWord a v).boot = s.boot := rfl
@[simp] theorem State.putWord_cfg (s : State) (a : Nat) (v : EccWord) : (s.putWord a v).cfg = s.cfg := rfl
@[simp] theorem State.putWord_sec (s : State) (a : Nat) (v : EccWord) : (s.putWord a v).sec = s.sec := rfl
@[simp] theorem State.putWord_ports (s : State) (a : Nat) (v : EccWord) : (s.putWord a v).ports = s.ports := rfl
@[simp] theorem State.putWord_hostTags (s : State) (a : Nat) (v : EccWord) : (s.putWord a v).hostTags = s.hostTags := rfl
@[simp] theorem State.putWord_copies (s : State) (a : Nat) (v : EccWord) : (s.putWord a v).copies = s.copies := rfl
@[simp] theorem State.putWord_streams (s : State) (a : Nat) (v : EccWord) : (s.putWord a v).streams = s.streams := rfl
@[simp] theorem State.putWord_nextReq (s : State) (a : Nat) (v : EccWord) : (s.putWord a v).nextReq = s.nextReq := rfl
@[simp] theorem State.putWord_streamTurn (s : State) (a : Nat) (v : EccWord) : (s.putWord a v).streamTurn = s.streamTurn := rfl
@[simp] theorem State.putWord_dict (s : State) (a : Nat) (v : EccWord) : (s.putWord a v).dict = s.dict := rfl
@[simp] theorem State.putWord_pages (s : State) (a : Nat) (v : EccWord) : (s.putWord a v).pages = s.pages := rfl
@[simp] theorem State.putWord_loading (s : State) (a : Nat) (v : EccWord) : (s.putWord a v).loading = s.loading := rfl
@[simp] theorem State.putWord_stateTab (s : State) (a : Nat) (v : EccWord) : (s.putWord a v).stateTab = s.stateTab := rfl
@[simp] theorem State.putWord_snap (s : State) (a : Nat) (v : EccWord) : (s.putWord a v).snap = s.snap := rfl
@[simp] theorem State.putWord_testIr (s : State) (a : Nat) (v : EccWord) : (s.putWord a v).testIr = s.testIr := rfl

/-! ### setStamp -/

@[simp] theorem State.setStamp_pending (s : State) (a n : Nat) (v : BitVec 32) : (s.setStamp a n v).pending = s.pending := rfl
@[simp] theorem State.setStamp_fresh (s : State) (a n : Nat) (v : BitVec 32) : (s.setStamp a n v).fresh = s.fresh := rfl
@[simp] theorem State.setStamp_clk (s : State) (a n : Nat) (v : BitVec 32) : (s.setStamp a n v).clk = s.clk := rfl
@[simp] theorem State.setStamp_st (s : State) (a n : Nat) (v : BitVec 32) : (s.setStamp a n v).st = s.st := rfl
@[simp] theorem State.setStamp_halting (s : State) (a n : Nat) (v : BitVec 32) : (s.setStamp a n v).halting = s.halting := rfl
@[simp] theorem State.setStamp_regs (s : State) (a n : Nat) (v : BitVec 32) : (s.setStamp a n v).regs = s.regs := rfl
@[simp] theorem State.setStamp_mem (s : State) (a n : Nat) (v : BitVec 32) : (s.setStamp a n v).mem = s.mem := rfl
@[simp] theorem State.setStamp_ecc (s : State) (a n : Nat) (v : BitVec 32) : (s.setStamp a n v).ecc = s.ecc := rfl
@[simp] theorem State.setStamp_stamps (s : State) (a n : Nat) (v : BitVec 32) : (s.setStamp a n v).stamps = tblSet 0 s.stamps (a / 32) (BitVec.ofNat 34 (2 ^ 32 * n + v.toNat)) := rfl
@[simp] theorem State.setStamp_opStores (s : State) (a n : Nat) (v : BitVec 32) : (s.setStamp a n v).opStores = s.opStores := rfl
@[simp] theorem State.setStamp_routeStores (s : State) (a n : Nat) (v : BitVec 32) : (s.setStamp a n v).routeStores = s.routeStores := rfl
@[simp] theorem State.setStamp_cores (s : State) (a n : Nat) (v : BitVec 32) : (s.setStamp a n v).cores = s.cores := rfl
@[simp] theorem State.setStamp_routers (s : State) (a n : Nat) (v : BitVec 32) : (s.setStamp a n v).routers = s.routers := rfl
@[simp] theorem State.setStamp_flits (s : State) (a n : Nat) (v : BitVec 32) : (s.setStamp a n v).flits = s.flits := rfl
@[simp] theorem State.setStamp_sinks (s : State) (a n : Nat) (v : BitVec 32) : (s.setStamp a n v).sinks = s.sinks := rfl
@[simp] theorem State.setStamp_openQ (s : State) (a n : Nat) (v : BitVec 32) : (s.setStamp a n v).openQ = s.openQ := rfl
@[simp] theorem State.setStamp_openUsed (s : State) (a n : Nat) (v : BitVec 32) : (s.setStamp a n v).openUsed = s.openUsed := rfl
@[simp] theorem State.setStamp_engineIn (s : State) (a n : Nat) (v : BitVec 32) : (s.setStamp a n v).engineIn = s.engineIn := rfl
@[simp] theorem State.setStamp_wells (s : State) (a n : Nat) (v : BitVec 32) : (s.setStamp a n v).wells = s.wells := rfl
@[simp] theorem State.setStamp_nb (s : State) (a n : Nat) (v : BitVec 32) : (s.setStamp a n v).nb = s.nb := rfl
@[simp] theorem State.setStamp_vaults (s : State) (a n : Nat) (v : BitVec 32) : (s.setStamp a n v).vaults = s.vaults := rfl
@[simp] theorem State.setStamp_scrub (s : State) (a n : Nat) (v : BitVec 32) : (s.setStamp a n v).scrub = s.scrub := rfl
@[simp] theorem State.setStamp_umpire (s : State) (a n : Nat) (v : BitVec 32) : (s.setStamp a n v).umpire = s.umpire := rfl
@[simp] theorem State.setStamp_gathered (s : State) (a n : Nat) (v : BitVec 32) : (s.setStamp a n v).gathered = s.gathered := rfl
@[simp] theorem State.setStamp_image (s : State) (a n : Nat) (v : BitVec 32) : (s.setStamp a n v).image = s.image := rfl
@[simp] theorem State.setStamp_plan (s : State) (a n : Nat) (v : BitVec 32) : (s.setStamp a n v).plan = s.plan := rfl
@[simp] theorem State.setStamp_work (s : State) (a n : Nat) (v : BitVec 32) : (s.setStamp a n v).work = s.work := rfl
@[simp] theorem State.setStamp_doms (s : State) (a n : Nat) (v : BitVec 32) : (s.setStamp a n v).doms = s.doms := rfl
@[simp] theorem State.setStamp_latestSeal (s : State) (a n : Nat) (v : BitVec 32) : (s.setStamp a n v).latestSeal = s.latestSeal := rfl
@[simp] theorem State.setStamp_startStep (s : State) (a n : Nat) (v : BitVec 32) : (s.setStamp a n v).startStep = s.startStep := rfl
@[simp] theorem State.setStamp_heat (s : State) (a n : Nat) (v : BitVec 32) : (s.setStamp a n v).heat = s.heat := rfl
@[simp] theorem State.setStamp_power (s : State) (a n : Nat) (v : BitVec 32) : (s.setStamp a n v).power = s.power := rfl
@[simp] theorem State.setStamp_supply (s : State) (a n : Nat) (v : BitVec 32) : (s.setStamp a n v).supply = s.supply := rfl
@[simp] theorem State.setStamp_crews (s : State) (a n : Nat) (v : BitVec 32) : (s.setStamp a n v).crews = s.crews := rfl
@[simp] theorem State.setStamp_outbox (s : State) (a n : Nat) (v : BitVec 32) : (s.setStamp a n v).outbox = s.outbox := rfl
@[simp] theorem State.setStamp_pins (s : State) (a n : Nat) (v : BitVec 32) : (s.setStamp a n v).pins = s.pins := rfl
@[simp] theorem State.setStamp_stop (s : State) (a n : Nat) (v : BitVec 32) : (s.setStamp a n v).stop = s.stop := rfl
@[simp] theorem State.setStamp_coxDark (s : State) (a n : Nat) (v : BitVec 32) : (s.setStamp a n v).coxDark = s.coxDark := rfl
@[simp] theorem State.setStamp_boot (s : State) (a n : Nat) (v : BitVec 32) : (s.setStamp a n v).boot = s.boot := rfl
@[simp] theorem State.setStamp_cfg (s : State) (a n : Nat) (v : BitVec 32) : (s.setStamp a n v).cfg = s.cfg := rfl
@[simp] theorem State.setStamp_sec (s : State) (a n : Nat) (v : BitVec 32) : (s.setStamp a n v).sec = s.sec := rfl
@[simp] theorem State.setStamp_ports (s : State) (a n : Nat) (v : BitVec 32) : (s.setStamp a n v).ports = s.ports := rfl
@[simp] theorem State.setStamp_hostTags (s : State) (a n : Nat) (v : BitVec 32) : (s.setStamp a n v).hostTags = s.hostTags := rfl
@[simp] theorem State.setStamp_copies (s : State) (a n : Nat) (v : BitVec 32) : (s.setStamp a n v).copies = s.copies := rfl
@[simp] theorem State.setStamp_streams (s : State) (a n : Nat) (v : BitVec 32) : (s.setStamp a n v).streams = s.streams := rfl
@[simp] theorem State.setStamp_nextReq (s : State) (a n : Nat) (v : BitVec 32) : (s.setStamp a n v).nextReq = s.nextReq := rfl
@[simp] theorem State.setStamp_streamTurn (s : State) (a n : Nat) (v : BitVec 32) : (s.setStamp a n v).streamTurn = s.streamTurn := rfl
@[simp] theorem State.setStamp_dict (s : State) (a n : Nat) (v : BitVec 32) : (s.setStamp a n v).dict = s.dict := rfl
@[simp] theorem State.setStamp_pages (s : State) (a n : Nat) (v : BitVec 32) : (s.setStamp a n v).pages = s.pages := rfl
@[simp] theorem State.setStamp_loading (s : State) (a n : Nat) (v : BitVec 32) : (s.setStamp a n v).loading = s.loading := rfl
@[simp] theorem State.setStamp_stateTab (s : State) (a n : Nat) (v : BitVec 32) : (s.setStamp a n v).stateTab = s.stateTab := rfl
@[simp] theorem State.setStamp_snap (s : State) (a n : Nat) (v : BitVec 32) : (s.setStamp a n v).snap = s.snap := rfl
@[simp] theorem State.setStamp_testIr (s : State) (a n : Nat) (v : BitVec 32) : (s.setStamp a n v).testIr = s.testIr := rfl

/-! ### setScrub -/

@[simp] theorem State.setScrub_pending (s : State) (v : ScrubState) : (s.setScrub v).pending = s.pending := rfl
@[simp] theorem State.setScrub_fresh (s : State) (v : ScrubState) : (s.setScrub v).fresh = s.fresh := rfl
@[simp] theorem State.setScrub_clk (s : State) (v : ScrubState) : (s.setScrub v).clk = s.clk := rfl
@[simp] theorem State.setScrub_st (s : State) (v : ScrubState) : (s.setScrub v).st = s.st := rfl
@[simp] theorem State.setScrub_halting (s : State) (v : ScrubState) : (s.setScrub v).halting = s.halting := rfl
@[simp] theorem State.setScrub_regs (s : State) (v : ScrubState) : (s.setScrub v).regs = s.regs := rfl
@[simp] theorem State.setScrub_mem (s : State) (v : ScrubState) : (s.setScrub v).mem = s.mem := rfl
@[simp] theorem State.setScrub_ecc (s : State) (v : ScrubState) : (s.setScrub v).ecc = s.ecc := rfl
@[simp] theorem State.setScrub_stamps (s : State) (v : ScrubState) : (s.setScrub v).stamps = s.stamps := rfl
@[simp] theorem State.setScrub_opStores (s : State) (v : ScrubState) : (s.setScrub v).opStores = s.opStores := rfl
@[simp] theorem State.setScrub_routeStores (s : State) (v : ScrubState) : (s.setScrub v).routeStores = s.routeStores := rfl
@[simp] theorem State.setScrub_cores (s : State) (v : ScrubState) : (s.setScrub v).cores = s.cores := rfl
@[simp] theorem State.setScrub_routers (s : State) (v : ScrubState) : (s.setScrub v).routers = s.routers := rfl
@[simp] theorem State.setScrub_flits (s : State) (v : ScrubState) : (s.setScrub v).flits = s.flits := rfl
@[simp] theorem State.setScrub_sinks (s : State) (v : ScrubState) : (s.setScrub v).sinks = s.sinks := rfl
@[simp] theorem State.setScrub_openQ (s : State) (v : ScrubState) : (s.setScrub v).openQ = s.openQ := rfl
@[simp] theorem State.setScrub_openUsed (s : State) (v : ScrubState) : (s.setScrub v).openUsed = s.openUsed := rfl
@[simp] theorem State.setScrub_engineIn (s : State) (v : ScrubState) : (s.setScrub v).engineIn = s.engineIn := rfl
@[simp] theorem State.setScrub_wells (s : State) (v : ScrubState) : (s.setScrub v).wells = s.wells := rfl
@[simp] theorem State.setScrub_nb (s : State) (v : ScrubState) : (s.setScrub v).nb = s.nb := rfl
@[simp] theorem State.setScrub_vaults (s : State) (v : ScrubState) : (s.setScrub v).vaults = s.vaults := rfl
@[simp] theorem State.setScrub_scrub (s : State) (v : ScrubState) : (s.setScrub v).scrub = v := rfl
@[simp] theorem State.setScrub_umpire (s : State) (v : ScrubState) : (s.setScrub v).umpire = s.umpire := rfl
@[simp] theorem State.setScrub_gathered (s : State) (v : ScrubState) : (s.setScrub v).gathered = s.gathered := rfl
@[simp] theorem State.setScrub_image (s : State) (v : ScrubState) : (s.setScrub v).image = s.image := rfl
@[simp] theorem State.setScrub_plan (s : State) (v : ScrubState) : (s.setScrub v).plan = s.plan := rfl
@[simp] theorem State.setScrub_work (s : State) (v : ScrubState) : (s.setScrub v).work = s.work := rfl
@[simp] theorem State.setScrub_doms (s : State) (v : ScrubState) : (s.setScrub v).doms = s.doms := rfl
@[simp] theorem State.setScrub_latestSeal (s : State) (v : ScrubState) : (s.setScrub v).latestSeal = s.latestSeal := rfl
@[simp] theorem State.setScrub_startStep (s : State) (v : ScrubState) : (s.setScrub v).startStep = s.startStep := rfl
@[simp] theorem State.setScrub_heat (s : State) (v : ScrubState) : (s.setScrub v).heat = s.heat := rfl
@[simp] theorem State.setScrub_power (s : State) (v : ScrubState) : (s.setScrub v).power = s.power := rfl
@[simp] theorem State.setScrub_supply (s : State) (v : ScrubState) : (s.setScrub v).supply = s.supply := rfl
@[simp] theorem State.setScrub_crews (s : State) (v : ScrubState) : (s.setScrub v).crews = s.crews := rfl
@[simp] theorem State.setScrub_outbox (s : State) (v : ScrubState) : (s.setScrub v).outbox = s.outbox := rfl
@[simp] theorem State.setScrub_pins (s : State) (v : ScrubState) : (s.setScrub v).pins = s.pins := rfl
@[simp] theorem State.setScrub_stop (s : State) (v : ScrubState) : (s.setScrub v).stop = s.stop := rfl
@[simp] theorem State.setScrub_coxDark (s : State) (v : ScrubState) : (s.setScrub v).coxDark = s.coxDark := rfl
@[simp] theorem State.setScrub_boot (s : State) (v : ScrubState) : (s.setScrub v).boot = s.boot := rfl
@[simp] theorem State.setScrub_cfg (s : State) (v : ScrubState) : (s.setScrub v).cfg = s.cfg := rfl
@[simp] theorem State.setScrub_sec (s : State) (v : ScrubState) : (s.setScrub v).sec = s.sec := rfl
@[simp] theorem State.setScrub_ports (s : State) (v : ScrubState) : (s.setScrub v).ports = s.ports := rfl
@[simp] theorem State.setScrub_hostTags (s : State) (v : ScrubState) : (s.setScrub v).hostTags = s.hostTags := rfl
@[simp] theorem State.setScrub_copies (s : State) (v : ScrubState) : (s.setScrub v).copies = s.copies := rfl
@[simp] theorem State.setScrub_streams (s : State) (v : ScrubState) : (s.setScrub v).streams = s.streams := rfl
@[simp] theorem State.setScrub_nextReq (s : State) (v : ScrubState) : (s.setScrub v).nextReq = s.nextReq := rfl
@[simp] theorem State.setScrub_streamTurn (s : State) (v : ScrubState) : (s.setScrub v).streamTurn = s.streamTurn := rfl
@[simp] theorem State.setScrub_dict (s : State) (v : ScrubState) : (s.setScrub v).dict = s.dict := rfl
@[simp] theorem State.setScrub_pages (s : State) (v : ScrubState) : (s.setScrub v).pages = s.pages := rfl
@[simp] theorem State.setScrub_loading (s : State) (v : ScrubState) : (s.setScrub v).loading = s.loading := rfl
@[simp] theorem State.setScrub_stateTab (s : State) (v : ScrubState) : (s.setScrub v).stateTab = s.stateTab := rfl
@[simp] theorem State.setScrub_snap (s : State) (v : ScrubState) : (s.setScrub v).snap = s.snap := rfl
@[simp] theorem State.setScrub_testIr (s : State) (v : ScrubState) : (s.setScrub v).testIr = s.testIr := rfl

/-! ### haltSoon -/

@[simp] theorem State.haltSoon_pending (s : State) (n : Nat) : (s.haltSoon n).pending = s.pending := rfl
@[simp] theorem State.haltSoon_fresh (s : State) (n : Nat) : (s.haltSoon n).fresh = s.fresh := rfl
@[simp] theorem State.haltSoon_clk (s : State) (n : Nat) : (s.haltSoon n).clk = s.clk := rfl
@[simp] theorem State.haltSoon_st (s : State) (n : Nat) : (s.haltSoon n).st = s.st := rfl
@[simp] theorem State.haltSoon_halting (s : State) (n : Nat) : (s.haltSoon n).halting = s.halting ++ [n] := rfl
@[simp] theorem State.haltSoon_regs (s : State) (n : Nat) : (s.haltSoon n).regs = s.regs := rfl
@[simp] theorem State.haltSoon_mem (s : State) (n : Nat) : (s.haltSoon n).mem = s.mem := rfl
@[simp] theorem State.haltSoon_ecc (s : State) (n : Nat) : (s.haltSoon n).ecc = s.ecc := rfl
@[simp] theorem State.haltSoon_stamps (s : State) (n : Nat) : (s.haltSoon n).stamps = s.stamps := rfl
@[simp] theorem State.haltSoon_opStores (s : State) (n : Nat) : (s.haltSoon n).opStores = s.opStores := rfl
@[simp] theorem State.haltSoon_routeStores (s : State) (n : Nat) : (s.haltSoon n).routeStores = s.routeStores := rfl
@[simp] theorem State.haltSoon_cores (s : State) (n : Nat) : (s.haltSoon n).cores = s.cores := rfl
@[simp] theorem State.haltSoon_routers (s : State) (n : Nat) : (s.haltSoon n).routers = s.routers := rfl
@[simp] theorem State.haltSoon_flits (s : State) (n : Nat) : (s.haltSoon n).flits = s.flits := rfl
@[simp] theorem State.haltSoon_sinks (s : State) (n : Nat) : (s.haltSoon n).sinks = s.sinks := rfl
@[simp] theorem State.haltSoon_openQ (s : State) (n : Nat) : (s.haltSoon n).openQ = s.openQ := rfl
@[simp] theorem State.haltSoon_openUsed (s : State) (n : Nat) : (s.haltSoon n).openUsed = s.openUsed := rfl
@[simp] theorem State.haltSoon_engineIn (s : State) (n : Nat) : (s.haltSoon n).engineIn = s.engineIn := rfl
@[simp] theorem State.haltSoon_wells (s : State) (n : Nat) : (s.haltSoon n).wells = s.wells := rfl
@[simp] theorem State.haltSoon_nb (s : State) (n : Nat) : (s.haltSoon n).nb = s.nb := rfl
@[simp] theorem State.haltSoon_vaults (s : State) (n : Nat) : (s.haltSoon n).vaults = s.vaults := rfl
@[simp] theorem State.haltSoon_scrub (s : State) (n : Nat) : (s.haltSoon n).scrub = s.scrub := rfl
@[simp] theorem State.haltSoon_umpire (s : State) (n : Nat) : (s.haltSoon n).umpire = s.umpire := rfl
@[simp] theorem State.haltSoon_gathered (s : State) (n : Nat) : (s.haltSoon n).gathered = s.gathered := rfl
@[simp] theorem State.haltSoon_image (s : State) (n : Nat) : (s.haltSoon n).image = s.image := rfl
@[simp] theorem State.haltSoon_plan (s : State) (n : Nat) : (s.haltSoon n).plan = s.plan := rfl
@[simp] theorem State.haltSoon_work (s : State) (n : Nat) : (s.haltSoon n).work = s.work := rfl
@[simp] theorem State.haltSoon_doms (s : State) (n : Nat) : (s.haltSoon n).doms = s.doms := rfl
@[simp] theorem State.haltSoon_latestSeal (s : State) (n : Nat) : (s.haltSoon n).latestSeal = s.latestSeal := rfl
@[simp] theorem State.haltSoon_startStep (s : State) (n : Nat) : (s.haltSoon n).startStep = s.startStep := rfl
@[simp] theorem State.haltSoon_heat (s : State) (n : Nat) : (s.haltSoon n).heat = s.heat := rfl
@[simp] theorem State.haltSoon_power (s : State) (n : Nat) : (s.haltSoon n).power = s.power := rfl
@[simp] theorem State.haltSoon_supply (s : State) (n : Nat) : (s.haltSoon n).supply = s.supply := rfl
@[simp] theorem State.haltSoon_crews (s : State) (n : Nat) : (s.haltSoon n).crews = s.crews := rfl
@[simp] theorem State.haltSoon_outbox (s : State) (n : Nat) : (s.haltSoon n).outbox = s.outbox := rfl
@[simp] theorem State.haltSoon_pins (s : State) (n : Nat) : (s.haltSoon n).pins = s.pins := rfl
@[simp] theorem State.haltSoon_stop (s : State) (n : Nat) : (s.haltSoon n).stop = s.stop := rfl
@[simp] theorem State.haltSoon_coxDark (s : State) (n : Nat) : (s.haltSoon n).coxDark = s.coxDark := rfl
@[simp] theorem State.haltSoon_boot (s : State) (n : Nat) : (s.haltSoon n).boot = s.boot := rfl
@[simp] theorem State.haltSoon_cfg (s : State) (n : Nat) : (s.haltSoon n).cfg = s.cfg := rfl
@[simp] theorem State.haltSoon_sec (s : State) (n : Nat) : (s.haltSoon n).sec = s.sec := rfl
@[simp] theorem State.haltSoon_ports (s : State) (n : Nat) : (s.haltSoon n).ports = s.ports := rfl
@[simp] theorem State.haltSoon_hostTags (s : State) (n : Nat) : (s.haltSoon n).hostTags = s.hostTags := rfl
@[simp] theorem State.haltSoon_copies (s : State) (n : Nat) : (s.haltSoon n).copies = s.copies := rfl
@[simp] theorem State.haltSoon_streams (s : State) (n : Nat) : (s.haltSoon n).streams = s.streams := rfl
@[simp] theorem State.haltSoon_nextReq (s : State) (n : Nat) : (s.haltSoon n).nextReq = s.nextReq := rfl
@[simp] theorem State.haltSoon_streamTurn (s : State) (n : Nat) : (s.haltSoon n).streamTurn = s.streamTurn := rfl
@[simp] theorem State.haltSoon_dict (s : State) (n : Nat) : (s.haltSoon n).dict = s.dict := rfl
@[simp] theorem State.haltSoon_pages (s : State) (n : Nat) : (s.haltSoon n).pages = s.pages := rfl
@[simp] theorem State.haltSoon_loading (s : State) (n : Nat) : (s.haltSoon n).loading = s.loading := rfl
@[simp] theorem State.haltSoon_stateTab (s : State) (n : Nat) : (s.haltSoon n).stateTab = s.stateTab := rfl
@[simp] theorem State.haltSoon_snap (s : State) (n : Nat) : (s.haltSoon n).snap = s.snap := rfl
@[simp] theorem State.haltSoon_testIr (s : State) (n : Nat) : (s.haltSoon n).testIr = s.testIr := rfl

/-! ### fillMailbox -/

@[simp] theorem State.fillMailbox_pending (s : State) (m n : Nat) : (s.fillMailbox m n).pending = s.pending := rfl
@[simp] theorem State.fillMailbox_fresh (s : State) (m n : Nat) : (s.fillMailbox m n).fresh = s.fresh := rfl
@[simp] theorem State.fillMailbox_clk (s : State) (m n : Nat) : (s.fillMailbox m n).clk = s.clk := rfl
@[simp] theorem State.fillMailbox_st (s : State) (m n : Nat) : (s.fillMailbox m n).st = s.st := rfl
@[simp] theorem State.fillMailbox_halting (s : State) (m n : Nat) : (s.fillMailbox m n).halting = s.halting := rfl
@[simp] theorem State.fillMailbox_regs (s : State) (m n : Nat) : (s.fillMailbox m n).regs = s.regs := rfl
@[simp] theorem State.fillMailbox_mem (s : State) (m n : Nat) : (s.fillMailbox m n).mem = s.mem := rfl
@[simp] theorem State.fillMailbox_ecc (s : State) (m n : Nat) : (s.fillMailbox m n).ecc = s.ecc := rfl
@[simp] theorem State.fillMailbox_stamps (s : State) (m n : Nat) : (s.fillMailbox m n).stamps = s.stamps := rfl
@[simp] theorem State.fillMailbox_opStores (s : State) (m n : Nat) : (s.fillMailbox m n).opStores = s.opStores := rfl
@[simp] theorem State.fillMailbox_routeStores (s : State) (m n : Nat) : (s.fillMailbox m n).routeStores = s.routeStores := rfl
@[simp] theorem State.fillMailbox_cores (s : State) (m n : Nat) : (s.fillMailbox m n).cores = s.cores := rfl
@[simp] theorem State.fillMailbox_routers (s : State) (m n : Nat) : (s.fillMailbox m n).routers = s.routers := rfl
@[simp] theorem State.fillMailbox_flits (s : State) (m n : Nat) : (s.fillMailbox m n).flits = s.flits := rfl
@[simp] theorem State.fillMailbox_sinks (s : State) (m n : Nat) : (s.fillMailbox m n).sinks = s.sinks := rfl
@[simp] theorem State.fillMailbox_openQ (s : State) (m n : Nat) : (s.fillMailbox m n).openQ = s.openQ := rfl
@[simp] theorem State.fillMailbox_openUsed (s : State) (m n : Nat) : (s.fillMailbox m n).openUsed = s.openUsed := rfl
@[simp] theorem State.fillMailbox_engineIn (s : State) (m n : Nat) : (s.fillMailbox m n).engineIn = s.engineIn := rfl
@[simp] theorem State.fillMailbox_wells (s : State) (m n : Nat) : (s.fillMailbox m n).wells = s.wells := rfl
@[simp] theorem State.fillMailbox_nb (s : State) (m n : Nat) : (s.fillMailbox m n).nb = s.nb := rfl
@[simp] theorem State.fillMailbox_vaults (s : State) (m n : Nat) : (s.fillMailbox m n).vaults = s.vaults := rfl
@[simp] theorem State.fillMailbox_scrub (s : State) (m n : Nat) : (s.fillMailbox m n).scrub = s.scrub := rfl
@[simp] theorem State.fillMailbox_umpire (s : State) (m n : Nat) : (s.fillMailbox m n).umpire = { s.umpire with
      mailboxes := tblSet 0 s.umpire.mailboxes m (s.mailbox m + BitVec.ofNat 64 n) } := rfl
@[simp] theorem State.fillMailbox_gathered (s : State) (m n : Nat) : (s.fillMailbox m n).gathered = s.gathered := rfl
@[simp] theorem State.fillMailbox_image (s : State) (m n : Nat) : (s.fillMailbox m n).image = s.image := rfl
@[simp] theorem State.fillMailbox_plan (s : State) (m n : Nat) : (s.fillMailbox m n).plan = s.plan := rfl
@[simp] theorem State.fillMailbox_work (s : State) (m n : Nat) : (s.fillMailbox m n).work = s.work := rfl
@[simp] theorem State.fillMailbox_doms (s : State) (m n : Nat) : (s.fillMailbox m n).doms = s.doms := rfl
@[simp] theorem State.fillMailbox_latestSeal (s : State) (m n : Nat) : (s.fillMailbox m n).latestSeal = s.latestSeal := rfl
@[simp] theorem State.fillMailbox_startStep (s : State) (m n : Nat) : (s.fillMailbox m n).startStep = s.startStep := rfl
@[simp] theorem State.fillMailbox_heat (s : State) (m n : Nat) : (s.fillMailbox m n).heat = s.heat := rfl
@[simp] theorem State.fillMailbox_power (s : State) (m n : Nat) : (s.fillMailbox m n).power = s.power := rfl
@[simp] theorem State.fillMailbox_supply (s : State) (m n : Nat) : (s.fillMailbox m n).supply = s.supply := rfl
@[simp] theorem State.fillMailbox_crews (s : State) (m n : Nat) : (s.fillMailbox m n).crews = s.crews := rfl
@[simp] theorem State.fillMailbox_outbox (s : State) (m n : Nat) : (s.fillMailbox m n).outbox = s.outbox := rfl
@[simp] theorem State.fillMailbox_pins (s : State) (m n : Nat) : (s.fillMailbox m n).pins = s.pins := rfl
@[simp] theorem State.fillMailbox_stop (s : State) (m n : Nat) : (s.fillMailbox m n).stop = s.stop := rfl
@[simp] theorem State.fillMailbox_coxDark (s : State) (m n : Nat) : (s.fillMailbox m n).coxDark = s.coxDark := rfl
@[simp] theorem State.fillMailbox_boot (s : State) (m n : Nat) : (s.fillMailbox m n).boot = s.boot := rfl
@[simp] theorem State.fillMailbox_cfg (s : State) (m n : Nat) : (s.fillMailbox m n).cfg = s.cfg := rfl
@[simp] theorem State.fillMailbox_sec (s : State) (m n : Nat) : (s.fillMailbox m n).sec = s.sec := rfl
@[simp] theorem State.fillMailbox_ports (s : State) (m n : Nat) : (s.fillMailbox m n).ports = s.ports := rfl
@[simp] theorem State.fillMailbox_hostTags (s : State) (m n : Nat) : (s.fillMailbox m n).hostTags = s.hostTags := rfl
@[simp] theorem State.fillMailbox_copies (s : State) (m n : Nat) : (s.fillMailbox m n).copies = s.copies := rfl
@[simp] theorem State.fillMailbox_streams (s : State) (m n : Nat) : (s.fillMailbox m n).streams = s.streams := rfl
@[simp] theorem State.fillMailbox_nextReq (s : State) (m n : Nat) : (s.fillMailbox m n).nextReq = s.nextReq := rfl
@[simp] theorem State.fillMailbox_streamTurn (s : State) (m n : Nat) : (s.fillMailbox m n).streamTurn = s.streamTurn := rfl
@[simp] theorem State.fillMailbox_dict (s : State) (m n : Nat) : (s.fillMailbox m n).dict = s.dict := rfl
@[simp] theorem State.fillMailbox_pages (s : State) (m n : Nat) : (s.fillMailbox m n).pages = s.pages := rfl
@[simp] theorem State.fillMailbox_loading (s : State) (m n : Nat) : (s.fillMailbox m n).loading = s.loading := rfl
@[simp] theorem State.fillMailbox_stateTab (s : State) (m n : Nat) : (s.fillMailbox m n).stateTab = s.stateTab := rfl
@[simp] theorem State.fillMailbox_snap (s : State) (m n : Nat) : (s.fillMailbox m n).snap = s.snap := rfl
@[simp] theorem State.fillMailbox_testIr (s : State) (m n : Nat) : (s.fillMailbox m n).testIr = s.testIr := rfl

/-! ### setCore -/

@[simp] theorem State.setCore_pending (s : State) (c : CoreId) (v : CoreState) : (s.setCore c v).pending = s.pending := rfl
@[simp] theorem State.setCore_fresh (s : State) (c : CoreId) (v : CoreState) : (s.setCore c v).fresh = s.fresh := rfl
@[simp] theorem State.setCore_clk (s : State) (c : CoreId) (v : CoreState) : (s.setCore c v).clk = s.clk := rfl
@[simp] theorem State.setCore_st (s : State) (c : CoreId) (v : CoreState) : (s.setCore c v).st = s.st := rfl
@[simp] theorem State.setCore_halting (s : State) (c : CoreId) (v : CoreState) : (s.setCore c v).halting = s.halting := rfl
@[simp] theorem State.setCore_regs (s : State) (c : CoreId) (v : CoreState) : (s.setCore c v).regs = s.regs := rfl
@[simp] theorem State.setCore_mem (s : State) (c : CoreId) (v : CoreState) : (s.setCore c v).mem = s.mem := rfl
@[simp] theorem State.setCore_ecc (s : State) (c : CoreId) (v : CoreState) : (s.setCore c v).ecc = s.ecc := rfl
@[simp] theorem State.setCore_stamps (s : State) (c : CoreId) (v : CoreState) : (s.setCore c v).stamps = s.stamps := rfl
@[simp] theorem State.setCore_opStores (s : State) (c : CoreId) (v : CoreState) : (s.setCore c v).opStores = s.opStores := rfl
@[simp] theorem State.setCore_routeStores (s : State) (c : CoreId) (v : CoreState) : (s.setCore c v).routeStores = s.routeStores := rfl
@[simp] theorem State.setCore_cores (s : State) (c : CoreId) (v : CoreState) : (s.setCore c v).cores = tblSet CoreState.start s.cores c.num v := rfl
@[simp] theorem State.setCore_routers (s : State) (c : CoreId) (v : CoreState) : (s.setCore c v).routers = s.routers := rfl
@[simp] theorem State.setCore_flits (s : State) (c : CoreId) (v : CoreState) : (s.setCore c v).flits = s.flits := rfl
@[simp] theorem State.setCore_sinks (s : State) (c : CoreId) (v : CoreState) : (s.setCore c v).sinks = s.sinks := rfl
@[simp] theorem State.setCore_openQ (s : State) (c : CoreId) (v : CoreState) : (s.setCore c v).openQ = s.openQ := rfl
@[simp] theorem State.setCore_openUsed (s : State) (c : CoreId) (v : CoreState) : (s.setCore c v).openUsed = s.openUsed := rfl
@[simp] theorem State.setCore_engineIn (s : State) (c : CoreId) (v : CoreState) : (s.setCore c v).engineIn = s.engineIn := rfl
@[simp] theorem State.setCore_wells (s : State) (c : CoreId) (v : CoreState) : (s.setCore c v).wells = s.wells := rfl
@[simp] theorem State.setCore_nb (s : State) (c : CoreId) (v : CoreState) : (s.setCore c v).nb = s.nb := rfl
@[simp] theorem State.setCore_vaults (s : State) (c : CoreId) (v : CoreState) : (s.setCore c v).vaults = s.vaults := rfl
@[simp] theorem State.setCore_scrub (s : State) (c : CoreId) (v : CoreState) : (s.setCore c v).scrub = s.scrub := rfl
@[simp] theorem State.setCore_umpire (s : State) (c : CoreId) (v : CoreState) : (s.setCore c v).umpire = s.umpire := rfl
@[simp] theorem State.setCore_gathered (s : State) (c : CoreId) (v : CoreState) : (s.setCore c v).gathered = s.gathered := rfl
@[simp] theorem State.setCore_image (s : State) (c : CoreId) (v : CoreState) : (s.setCore c v).image = s.image := rfl
@[simp] theorem State.setCore_plan (s : State) (c : CoreId) (v : CoreState) : (s.setCore c v).plan = s.plan := rfl
@[simp] theorem State.setCore_work (s : State) (c : CoreId) (v : CoreState) : (s.setCore c v).work = s.work := rfl
@[simp] theorem State.setCore_doms (s : State) (c : CoreId) (v : CoreState) : (s.setCore c v).doms = s.doms := rfl
@[simp] theorem State.setCore_latestSeal (s : State) (c : CoreId) (v : CoreState) : (s.setCore c v).latestSeal = s.latestSeal := rfl
@[simp] theorem State.setCore_startStep (s : State) (c : CoreId) (v : CoreState) : (s.setCore c v).startStep = s.startStep := rfl
@[simp] theorem State.setCore_heat (s : State) (c : CoreId) (v : CoreState) : (s.setCore c v).heat = s.heat := rfl
@[simp] theorem State.setCore_power (s : State) (c : CoreId) (v : CoreState) : (s.setCore c v).power = s.power := rfl
@[simp] theorem State.setCore_supply (s : State) (c : CoreId) (v : CoreState) : (s.setCore c v).supply = s.supply := rfl
@[simp] theorem State.setCore_crews (s : State) (c : CoreId) (v : CoreState) : (s.setCore c v).crews = s.crews := rfl
@[simp] theorem State.setCore_outbox (s : State) (c : CoreId) (v : CoreState) : (s.setCore c v).outbox = s.outbox := rfl
@[simp] theorem State.setCore_pins (s : State) (c : CoreId) (v : CoreState) : (s.setCore c v).pins = s.pins := rfl
@[simp] theorem State.setCore_stop (s : State) (c : CoreId) (v : CoreState) : (s.setCore c v).stop = s.stop := rfl
@[simp] theorem State.setCore_coxDark (s : State) (c : CoreId) (v : CoreState) : (s.setCore c v).coxDark = s.coxDark := rfl
@[simp] theorem State.setCore_boot (s : State) (c : CoreId) (v : CoreState) : (s.setCore c v).boot = s.boot := rfl
@[simp] theorem State.setCore_cfg (s : State) (c : CoreId) (v : CoreState) : (s.setCore c v).cfg = s.cfg := rfl
@[simp] theorem State.setCore_sec (s : State) (c : CoreId) (v : CoreState) : (s.setCore c v).sec = s.sec := rfl
@[simp] theorem State.setCore_ports (s : State) (c : CoreId) (v : CoreState) : (s.setCore c v).ports = s.ports := rfl
@[simp] theorem State.setCore_hostTags (s : State) (c : CoreId) (v : CoreState) : (s.setCore c v).hostTags = s.hostTags := rfl
@[simp] theorem State.setCore_copies (s : State) (c : CoreId) (v : CoreState) : (s.setCore c v).copies = s.copies := rfl
@[simp] theorem State.setCore_streams (s : State) (c : CoreId) (v : CoreState) : (s.setCore c v).streams = s.streams := rfl
@[simp] theorem State.setCore_nextReq (s : State) (c : CoreId) (v : CoreState) : (s.setCore c v).nextReq = s.nextReq := rfl
@[simp] theorem State.setCore_streamTurn (s : State) (c : CoreId) (v : CoreState) : (s.setCore c v).streamTurn = s.streamTurn := rfl
@[simp] theorem State.setCore_dict (s : State) (c : CoreId) (v : CoreState) : (s.setCore c v).dict = s.dict := rfl
@[simp] theorem State.setCore_pages (s : State) (c : CoreId) (v : CoreState) : (s.setCore c v).pages = s.pages := rfl
@[simp] theorem State.setCore_loading (s : State) (c : CoreId) (v : CoreState) : (s.setCore c v).loading = s.loading := rfl
@[simp] theorem State.setCore_stateTab (s : State) (c : CoreId) (v : CoreState) : (s.setCore c v).stateTab = s.stateTab := rfl
@[simp] theorem State.setCore_snap (s : State) (c : CoreId) (v : CoreState) : (s.setCore c v).snap = s.snap := rfl
@[simp] theorem State.setCore_testIr (s : State) (c : CoreId) (v : CoreState) : (s.setCore c v).testIr = s.testIr := rfl

/-! ### setRouter -/

@[simp] theorem State.setRouter_pending (s : State) (r : ColId) (v : RouterState) : (s.setRouter r v).pending = s.pending := rfl
@[simp] theorem State.setRouter_fresh (s : State) (r : ColId) (v : RouterState) : (s.setRouter r v).fresh = s.fresh := rfl
@[simp] theorem State.setRouter_clk (s : State) (r : ColId) (v : RouterState) : (s.setRouter r v).clk = s.clk := rfl
@[simp] theorem State.setRouter_st (s : State) (r : ColId) (v : RouterState) : (s.setRouter r v).st = s.st := rfl
@[simp] theorem State.setRouter_halting (s : State) (r : ColId) (v : RouterState) : (s.setRouter r v).halting = s.halting := rfl
@[simp] theorem State.setRouter_regs (s : State) (r : ColId) (v : RouterState) : (s.setRouter r v).regs = s.regs := rfl
@[simp] theorem State.setRouter_mem (s : State) (r : ColId) (v : RouterState) : (s.setRouter r v).mem = s.mem := rfl
@[simp] theorem State.setRouter_ecc (s : State) (r : ColId) (v : RouterState) : (s.setRouter r v).ecc = s.ecc := rfl
@[simp] theorem State.setRouter_stamps (s : State) (r : ColId) (v : RouterState) : (s.setRouter r v).stamps = s.stamps := rfl
@[simp] theorem State.setRouter_opStores (s : State) (r : ColId) (v : RouterState) : (s.setRouter r v).opStores = s.opStores := rfl
@[simp] theorem State.setRouter_routeStores (s : State) (r : ColId) (v : RouterState) : (s.setRouter r v).routeStores = s.routeStores := rfl
@[simp] theorem State.setRouter_cores (s : State) (r : ColId) (v : RouterState) : (s.setRouter r v).cores = s.cores := rfl
@[simp] theorem State.setRouter_routers (s : State) (r : ColId) (v : RouterState) : (s.setRouter r v).routers = tblSet RouterState.start s.routers r.num v := rfl
@[simp] theorem State.setRouter_flits (s : State) (r : ColId) (v : RouterState) : (s.setRouter r v).flits = s.flits := rfl
@[simp] theorem State.setRouter_sinks (s : State) (r : ColId) (v : RouterState) : (s.setRouter r v).sinks = s.sinks := rfl
@[simp] theorem State.setRouter_openQ (s : State) (r : ColId) (v : RouterState) : (s.setRouter r v).openQ = s.openQ := rfl
@[simp] theorem State.setRouter_openUsed (s : State) (r : ColId) (v : RouterState) : (s.setRouter r v).openUsed = s.openUsed := rfl
@[simp] theorem State.setRouter_engineIn (s : State) (r : ColId) (v : RouterState) : (s.setRouter r v).engineIn = s.engineIn := rfl
@[simp] theorem State.setRouter_wells (s : State) (r : ColId) (v : RouterState) : (s.setRouter r v).wells = s.wells := rfl
@[simp] theorem State.setRouter_nb (s : State) (r : ColId) (v : RouterState) : (s.setRouter r v).nb = s.nb := rfl
@[simp] theorem State.setRouter_vaults (s : State) (r : ColId) (v : RouterState) : (s.setRouter r v).vaults = s.vaults := rfl
@[simp] theorem State.setRouter_scrub (s : State) (r : ColId) (v : RouterState) : (s.setRouter r v).scrub = s.scrub := rfl
@[simp] theorem State.setRouter_umpire (s : State) (r : ColId) (v : RouterState) : (s.setRouter r v).umpire = s.umpire := rfl
@[simp] theorem State.setRouter_gathered (s : State) (r : ColId) (v : RouterState) : (s.setRouter r v).gathered = s.gathered := rfl
@[simp] theorem State.setRouter_image (s : State) (r : ColId) (v : RouterState) : (s.setRouter r v).image = s.image := rfl
@[simp] theorem State.setRouter_plan (s : State) (r : ColId) (v : RouterState) : (s.setRouter r v).plan = s.plan := rfl
@[simp] theorem State.setRouter_work (s : State) (r : ColId) (v : RouterState) : (s.setRouter r v).work = s.work := rfl
@[simp] theorem State.setRouter_doms (s : State) (r : ColId) (v : RouterState) : (s.setRouter r v).doms = s.doms := rfl
@[simp] theorem State.setRouter_latestSeal (s : State) (r : ColId) (v : RouterState) : (s.setRouter r v).latestSeal = s.latestSeal := rfl
@[simp] theorem State.setRouter_startStep (s : State) (r : ColId) (v : RouterState) : (s.setRouter r v).startStep = s.startStep := rfl
@[simp] theorem State.setRouter_heat (s : State) (r : ColId) (v : RouterState) : (s.setRouter r v).heat = s.heat := rfl
@[simp] theorem State.setRouter_power (s : State) (r : ColId) (v : RouterState) : (s.setRouter r v).power = s.power := rfl
@[simp] theorem State.setRouter_supply (s : State) (r : ColId) (v : RouterState) : (s.setRouter r v).supply = s.supply := rfl
@[simp] theorem State.setRouter_crews (s : State) (r : ColId) (v : RouterState) : (s.setRouter r v).crews = s.crews := rfl
@[simp] theorem State.setRouter_outbox (s : State) (r : ColId) (v : RouterState) : (s.setRouter r v).outbox = s.outbox := rfl
@[simp] theorem State.setRouter_pins (s : State) (r : ColId) (v : RouterState) : (s.setRouter r v).pins = s.pins := rfl
@[simp] theorem State.setRouter_stop (s : State) (r : ColId) (v : RouterState) : (s.setRouter r v).stop = s.stop := rfl
@[simp] theorem State.setRouter_coxDark (s : State) (r : ColId) (v : RouterState) : (s.setRouter r v).coxDark = s.coxDark := rfl
@[simp] theorem State.setRouter_boot (s : State) (r : ColId) (v : RouterState) : (s.setRouter r v).boot = s.boot := rfl
@[simp] theorem State.setRouter_cfg (s : State) (r : ColId) (v : RouterState) : (s.setRouter r v).cfg = s.cfg := rfl
@[simp] theorem State.setRouter_sec (s : State) (r : ColId) (v : RouterState) : (s.setRouter r v).sec = s.sec := rfl
@[simp] theorem State.setRouter_ports (s : State) (r : ColId) (v : RouterState) : (s.setRouter r v).ports = s.ports := rfl
@[simp] theorem State.setRouter_hostTags (s : State) (r : ColId) (v : RouterState) : (s.setRouter r v).hostTags = s.hostTags := rfl
@[simp] theorem State.setRouter_copies (s : State) (r : ColId) (v : RouterState) : (s.setRouter r v).copies = s.copies := rfl
@[simp] theorem State.setRouter_streams (s : State) (r : ColId) (v : RouterState) : (s.setRouter r v).streams = s.streams := rfl
@[simp] theorem State.setRouter_nextReq (s : State) (r : ColId) (v : RouterState) : (s.setRouter r v).nextReq = s.nextReq := rfl
@[simp] theorem State.setRouter_streamTurn (s : State) (r : ColId) (v : RouterState) : (s.setRouter r v).streamTurn = s.streamTurn := rfl
@[simp] theorem State.setRouter_dict (s : State) (r : ColId) (v : RouterState) : (s.setRouter r v).dict = s.dict := rfl
@[simp] theorem State.setRouter_pages (s : State) (r : ColId) (v : RouterState) : (s.setRouter r v).pages = s.pages := rfl
@[simp] theorem State.setRouter_loading (s : State) (r : ColId) (v : RouterState) : (s.setRouter r v).loading = s.loading := rfl
@[simp] theorem State.setRouter_stateTab (s : State) (r : ColId) (v : RouterState) : (s.setRouter r v).stateTab = s.stateTab := rfl
@[simp] theorem State.setRouter_snap (s : State) (r : ColId) (v : RouterState) : (s.setRouter r v).snap = s.snap := rfl
@[simp] theorem State.setRouter_testIr (s : State) (r : ColId) (v : RouterState) : (s.setRouter r v).testIr = s.testIr := rfl

/-! ### setVault -/

@[simp] theorem State.setVault_pending (s : State) (c : CoreId) (v : VaultState) : (s.setVault c v).pending = s.pending := rfl
@[simp] theorem State.setVault_fresh (s : State) (c : CoreId) (v : VaultState) : (s.setVault c v).fresh = s.fresh := rfl
@[simp] theorem State.setVault_clk (s : State) (c : CoreId) (v : VaultState) : (s.setVault c v).clk = s.clk := rfl
@[simp] theorem State.setVault_st (s : State) (c : CoreId) (v : VaultState) : (s.setVault c v).st = s.st := rfl
@[simp] theorem State.setVault_halting (s : State) (c : CoreId) (v : VaultState) : (s.setVault c v).halting = s.halting := rfl
@[simp] theorem State.setVault_regs (s : State) (c : CoreId) (v : VaultState) : (s.setVault c v).regs = s.regs := rfl
@[simp] theorem State.setVault_mem (s : State) (c : CoreId) (v : VaultState) : (s.setVault c v).mem = s.mem := rfl
@[simp] theorem State.setVault_ecc (s : State) (c : CoreId) (v : VaultState) : (s.setVault c v).ecc = s.ecc := rfl
@[simp] theorem State.setVault_stamps (s : State) (c : CoreId) (v : VaultState) : (s.setVault c v).stamps = s.stamps := rfl
@[simp] theorem State.setVault_opStores (s : State) (c : CoreId) (v : VaultState) : (s.setVault c v).opStores = s.opStores := rfl
@[simp] theorem State.setVault_routeStores (s : State) (c : CoreId) (v : VaultState) : (s.setVault c v).routeStores = s.routeStores := rfl
@[simp] theorem State.setVault_cores (s : State) (c : CoreId) (v : VaultState) : (s.setVault c v).cores = s.cores := rfl
@[simp] theorem State.setVault_routers (s : State) (c : CoreId) (v : VaultState) : (s.setVault c v).routers = s.routers := rfl
@[simp] theorem State.setVault_flits (s : State) (c : CoreId) (v : VaultState) : (s.setVault c v).flits = s.flits := rfl
@[simp] theorem State.setVault_sinks (s : State) (c : CoreId) (v : VaultState) : (s.setVault c v).sinks = s.sinks := rfl
@[simp] theorem State.setVault_openQ (s : State) (c : CoreId) (v : VaultState) : (s.setVault c v).openQ = s.openQ := rfl
@[simp] theorem State.setVault_openUsed (s : State) (c : CoreId) (v : VaultState) : (s.setVault c v).openUsed = s.openUsed := rfl
@[simp] theorem State.setVault_engineIn (s : State) (c : CoreId) (v : VaultState) : (s.setVault c v).engineIn = s.engineIn := rfl
@[simp] theorem State.setVault_wells (s : State) (c : CoreId) (v : VaultState) : (s.setVault c v).wells = s.wells := rfl
@[simp] theorem State.setVault_nb (s : State) (c : CoreId) (v : VaultState) : (s.setVault c v).nb = s.nb := rfl
@[simp] theorem State.setVault_vaults (s : State) (c : CoreId) (v : VaultState) : (s.setVault c v).vaults = tblSet VaultState.idle s.vaults c.num v := rfl
@[simp] theorem State.setVault_scrub (s : State) (c : CoreId) (v : VaultState) : (s.setVault c v).scrub = s.scrub := rfl
@[simp] theorem State.setVault_umpire (s : State) (c : CoreId) (v : VaultState) : (s.setVault c v).umpire = s.umpire := rfl
@[simp] theorem State.setVault_gathered (s : State) (c : CoreId) (v : VaultState) : (s.setVault c v).gathered = s.gathered := rfl
@[simp] theorem State.setVault_image (s : State) (c : CoreId) (v : VaultState) : (s.setVault c v).image = s.image := rfl
@[simp] theorem State.setVault_plan (s : State) (c : CoreId) (v : VaultState) : (s.setVault c v).plan = s.plan := rfl
@[simp] theorem State.setVault_work (s : State) (c : CoreId) (v : VaultState) : (s.setVault c v).work = s.work := rfl
@[simp] theorem State.setVault_doms (s : State) (c : CoreId) (v : VaultState) : (s.setVault c v).doms = s.doms := rfl
@[simp] theorem State.setVault_latestSeal (s : State) (c : CoreId) (v : VaultState) : (s.setVault c v).latestSeal = s.latestSeal := rfl
@[simp] theorem State.setVault_startStep (s : State) (c : CoreId) (v : VaultState) : (s.setVault c v).startStep = s.startStep := rfl
@[simp] theorem State.setVault_heat (s : State) (c : CoreId) (v : VaultState) : (s.setVault c v).heat = s.heat := rfl
@[simp] theorem State.setVault_power (s : State) (c : CoreId) (v : VaultState) : (s.setVault c v).power = s.power := rfl
@[simp] theorem State.setVault_supply (s : State) (c : CoreId) (v : VaultState) : (s.setVault c v).supply = s.supply := rfl
@[simp] theorem State.setVault_crews (s : State) (c : CoreId) (v : VaultState) : (s.setVault c v).crews = s.crews := rfl
@[simp] theorem State.setVault_outbox (s : State) (c : CoreId) (v : VaultState) : (s.setVault c v).outbox = s.outbox := rfl
@[simp] theorem State.setVault_pins (s : State) (c : CoreId) (v : VaultState) : (s.setVault c v).pins = s.pins := rfl
@[simp] theorem State.setVault_stop (s : State) (c : CoreId) (v : VaultState) : (s.setVault c v).stop = s.stop := rfl
@[simp] theorem State.setVault_coxDark (s : State) (c : CoreId) (v : VaultState) : (s.setVault c v).coxDark = s.coxDark := rfl
@[simp] theorem State.setVault_boot (s : State) (c : CoreId) (v : VaultState) : (s.setVault c v).boot = s.boot := rfl
@[simp] theorem State.setVault_cfg (s : State) (c : CoreId) (v : VaultState) : (s.setVault c v).cfg = s.cfg := rfl
@[simp] theorem State.setVault_sec (s : State) (c : CoreId) (v : VaultState) : (s.setVault c v).sec = s.sec := rfl
@[simp] theorem State.setVault_ports (s : State) (c : CoreId) (v : VaultState) : (s.setVault c v).ports = s.ports := rfl
@[simp] theorem State.setVault_hostTags (s : State) (c : CoreId) (v : VaultState) : (s.setVault c v).hostTags = s.hostTags := rfl
@[simp] theorem State.setVault_copies (s : State) (c : CoreId) (v : VaultState) : (s.setVault c v).copies = s.copies := rfl
@[simp] theorem State.setVault_streams (s : State) (c : CoreId) (v : VaultState) : (s.setVault c v).streams = s.streams := rfl
@[simp] theorem State.setVault_nextReq (s : State) (c : CoreId) (v : VaultState) : (s.setVault c v).nextReq = s.nextReq := rfl
@[simp] theorem State.setVault_streamTurn (s : State) (c : CoreId) (v : VaultState) : (s.setVault c v).streamTurn = s.streamTurn := rfl
@[simp] theorem State.setVault_dict (s : State) (c : CoreId) (v : VaultState) : (s.setVault c v).dict = s.dict := rfl
@[simp] theorem State.setVault_pages (s : State) (c : CoreId) (v : VaultState) : (s.setVault c v).pages = s.pages := rfl
@[simp] theorem State.setVault_loading (s : State) (c : CoreId) (v : VaultState) : (s.setVault c v).loading = s.loading := rfl
@[simp] theorem State.setVault_stateTab (s : State) (c : CoreId) (v : VaultState) : (s.setVault c v).stateTab = s.stateTab := rfl
@[simp] theorem State.setVault_snap (s : State) (c : CoreId) (v : VaultState) : (s.setVault c v).snap = s.snap := rfl
@[simp] theorem State.setVault_testIr (s : State) (c : CoreId) (v : VaultState) : (s.setVault c v).testIr = s.testIr := rfl

/-! ### setWell -/

@[simp] theorem State.setWell_pending (s : State) (w : RegionId) (v : WellState) : (s.setWell w v).pending = s.pending := rfl
@[simp] theorem State.setWell_fresh (s : State) (w : RegionId) (v : WellState) : (s.setWell w v).fresh = s.fresh := rfl
@[simp] theorem State.setWell_clk (s : State) (w : RegionId) (v : WellState) : (s.setWell w v).clk = s.clk := rfl
@[simp] theorem State.setWell_st (s : State) (w : RegionId) (v : WellState) : (s.setWell w v).st = s.st := rfl
@[simp] theorem State.setWell_halting (s : State) (w : RegionId) (v : WellState) : (s.setWell w v).halting = s.halting := rfl
@[simp] theorem State.setWell_regs (s : State) (w : RegionId) (v : WellState) : (s.setWell w v).regs = s.regs := rfl
@[simp] theorem State.setWell_mem (s : State) (w : RegionId) (v : WellState) : (s.setWell w v).mem = s.mem := rfl
@[simp] theorem State.setWell_ecc (s : State) (w : RegionId) (v : WellState) : (s.setWell w v).ecc = s.ecc := rfl
@[simp] theorem State.setWell_stamps (s : State) (w : RegionId) (v : WellState) : (s.setWell w v).stamps = s.stamps := rfl
@[simp] theorem State.setWell_opStores (s : State) (w : RegionId) (v : WellState) : (s.setWell w v).opStores = s.opStores := rfl
@[simp] theorem State.setWell_routeStores (s : State) (w : RegionId) (v : WellState) : (s.setWell w v).routeStores = s.routeStores := rfl
@[simp] theorem State.setWell_cores (s : State) (w : RegionId) (v : WellState) : (s.setWell w v).cores = s.cores := rfl
@[simp] theorem State.setWell_routers (s : State) (w : RegionId) (v : WellState) : (s.setWell w v).routers = s.routers := rfl
@[simp] theorem State.setWell_flits (s : State) (w : RegionId) (v : WellState) : (s.setWell w v).flits = s.flits := rfl
@[simp] theorem State.setWell_sinks (s : State) (w : RegionId) (v : WellState) : (s.setWell w v).sinks = s.sinks := rfl
@[simp] theorem State.setWell_openQ (s : State) (w : RegionId) (v : WellState) : (s.setWell w v).openQ = s.openQ := rfl
@[simp] theorem State.setWell_openUsed (s : State) (w : RegionId) (v : WellState) : (s.setWell w v).openUsed = s.openUsed := rfl
@[simp] theorem State.setWell_engineIn (s : State) (w : RegionId) (v : WellState) : (s.setWell w v).engineIn = s.engineIn := rfl
@[simp] theorem State.setWell_wells (s : State) (w : RegionId) (v : WellState) : (s.setWell w v).wells = tblSet WellState.idle s.wells w.num v := rfl
@[simp] theorem State.setWell_nb (s : State) (w : RegionId) (v : WellState) : (s.setWell w v).nb = s.nb := rfl
@[simp] theorem State.setWell_vaults (s : State) (w : RegionId) (v : WellState) : (s.setWell w v).vaults = s.vaults := rfl
@[simp] theorem State.setWell_scrub (s : State) (w : RegionId) (v : WellState) : (s.setWell w v).scrub = s.scrub := rfl
@[simp] theorem State.setWell_umpire (s : State) (w : RegionId) (v : WellState) : (s.setWell w v).umpire = s.umpire := rfl
@[simp] theorem State.setWell_gathered (s : State) (w : RegionId) (v : WellState) : (s.setWell w v).gathered = s.gathered := rfl
@[simp] theorem State.setWell_image (s : State) (w : RegionId) (v : WellState) : (s.setWell w v).image = s.image := rfl
@[simp] theorem State.setWell_plan (s : State) (w : RegionId) (v : WellState) : (s.setWell w v).plan = s.plan := rfl
@[simp] theorem State.setWell_work (s : State) (w : RegionId) (v : WellState) : (s.setWell w v).work = s.work := rfl
@[simp] theorem State.setWell_doms (s : State) (w : RegionId) (v : WellState) : (s.setWell w v).doms = s.doms := rfl
@[simp] theorem State.setWell_latestSeal (s : State) (w : RegionId) (v : WellState) : (s.setWell w v).latestSeal = s.latestSeal := rfl
@[simp] theorem State.setWell_startStep (s : State) (w : RegionId) (v : WellState) : (s.setWell w v).startStep = s.startStep := rfl
@[simp] theorem State.setWell_heat (s : State) (w : RegionId) (v : WellState) : (s.setWell w v).heat = s.heat := rfl
@[simp] theorem State.setWell_power (s : State) (w : RegionId) (v : WellState) : (s.setWell w v).power = s.power := rfl
@[simp] theorem State.setWell_supply (s : State) (w : RegionId) (v : WellState) : (s.setWell w v).supply = s.supply := rfl
@[simp] theorem State.setWell_crews (s : State) (w : RegionId) (v : WellState) : (s.setWell w v).crews = s.crews := rfl
@[simp] theorem State.setWell_outbox (s : State) (w : RegionId) (v : WellState) : (s.setWell w v).outbox = s.outbox := rfl
@[simp] theorem State.setWell_pins (s : State) (w : RegionId) (v : WellState) : (s.setWell w v).pins = s.pins := rfl
@[simp] theorem State.setWell_stop (s : State) (w : RegionId) (v : WellState) : (s.setWell w v).stop = s.stop := rfl
@[simp] theorem State.setWell_coxDark (s : State) (w : RegionId) (v : WellState) : (s.setWell w v).coxDark = s.coxDark := rfl
@[simp] theorem State.setWell_boot (s : State) (w : RegionId) (v : WellState) : (s.setWell w v).boot = s.boot := rfl
@[simp] theorem State.setWell_cfg (s : State) (w : RegionId) (v : WellState) : (s.setWell w v).cfg = s.cfg := rfl
@[simp] theorem State.setWell_sec (s : State) (w : RegionId) (v : WellState) : (s.setWell w v).sec = s.sec := rfl
@[simp] theorem State.setWell_ports (s : State) (w : RegionId) (v : WellState) : (s.setWell w v).ports = s.ports := rfl
@[simp] theorem State.setWell_hostTags (s : State) (w : RegionId) (v : WellState) : (s.setWell w v).hostTags = s.hostTags := rfl
@[simp] theorem State.setWell_copies (s : State) (w : RegionId) (v : WellState) : (s.setWell w v).copies = s.copies := rfl
@[simp] theorem State.setWell_streams (s : State) (w : RegionId) (v : WellState) : (s.setWell w v).streams = s.streams := rfl
@[simp] theorem State.setWell_nextReq (s : State) (w : RegionId) (v : WellState) : (s.setWell w v).nextReq = s.nextReq := rfl
@[simp] theorem State.setWell_streamTurn (s : State) (w : RegionId) (v : WellState) : (s.setWell w v).streamTurn = s.streamTurn := rfl
@[simp] theorem State.setWell_dict (s : State) (w : RegionId) (v : WellState) : (s.setWell w v).dict = s.dict := rfl
@[simp] theorem State.setWell_pages (s : State) (w : RegionId) (v : WellState) : (s.setWell w v).pages = s.pages := rfl
@[simp] theorem State.setWell_loading (s : State) (w : RegionId) (v : WellState) : (s.setWell w v).loading = s.loading := rfl
@[simp] theorem State.setWell_stateTab (s : State) (w : RegionId) (v : WellState) : (s.setWell w v).stateTab = s.stateTab := rfl
@[simp] theorem State.setWell_snap (s : State) (w : RegionId) (v : WellState) : (s.setWell w v).snap = s.snap := rfl
@[simp] theorem State.setWell_testIr (s : State) (w : RegionId) (v : WellState) : (s.setWell w v).testIr = s.testIr := rfl

/-! ### setNb -/

@[simp] theorem State.setNb_pending (s : State) (c : CoreId) (m : Nat) (v : NbUnit) : (s.setNb c m v).pending = s.pending := rfl
@[simp] theorem State.setNb_fresh (s : State) (c : CoreId) (m : Nat) (v : NbUnit) : (s.setNb c m v).fresh = s.fresh := rfl
@[simp] theorem State.setNb_clk (s : State) (c : CoreId) (m : Nat) (v : NbUnit) : (s.setNb c m v).clk = s.clk := rfl
@[simp] theorem State.setNb_st (s : State) (c : CoreId) (m : Nat) (v : NbUnit) : (s.setNb c m v).st = s.st := rfl
@[simp] theorem State.setNb_halting (s : State) (c : CoreId) (m : Nat) (v : NbUnit) : (s.setNb c m v).halting = s.halting := rfl
@[simp] theorem State.setNb_regs (s : State) (c : CoreId) (m : Nat) (v : NbUnit) : (s.setNb c m v).regs = s.regs := rfl
@[simp] theorem State.setNb_mem (s : State) (c : CoreId) (m : Nat) (v : NbUnit) : (s.setNb c m v).mem = s.mem := rfl
@[simp] theorem State.setNb_ecc (s : State) (c : CoreId) (m : Nat) (v : NbUnit) : (s.setNb c m v).ecc = s.ecc := rfl
@[simp] theorem State.setNb_stamps (s : State) (c : CoreId) (m : Nat) (v : NbUnit) : (s.setNb c m v).stamps = s.stamps := rfl
@[simp] theorem State.setNb_opStores (s : State) (c : CoreId) (m : Nat) (v : NbUnit) : (s.setNb c m v).opStores = s.opStores := rfl
@[simp] theorem State.setNb_routeStores (s : State) (c : CoreId) (m : Nat) (v : NbUnit) : (s.setNb c m v).routeStores = s.routeStores := rfl
@[simp] theorem State.setNb_cores (s : State) (c : CoreId) (m : Nat) (v : NbUnit) : (s.setNb c m v).cores = s.cores := rfl
@[simp] theorem State.setNb_routers (s : State) (c : CoreId) (m : Nat) (v : NbUnit) : (s.setNb c m v).routers = s.routers := rfl
@[simp] theorem State.setNb_flits (s : State) (c : CoreId) (m : Nat) (v : NbUnit) : (s.setNb c m v).flits = s.flits := rfl
@[simp] theorem State.setNb_sinks (s : State) (c : CoreId) (m : Nat) (v : NbUnit) : (s.setNb c m v).sinks = s.sinks := rfl
@[simp] theorem State.setNb_openQ (s : State) (c : CoreId) (m : Nat) (v : NbUnit) : (s.setNb c m v).openQ = s.openQ := rfl
@[simp] theorem State.setNb_openUsed (s : State) (c : CoreId) (m : Nat) (v : NbUnit) : (s.setNb c m v).openUsed = s.openUsed := rfl
@[simp] theorem State.setNb_engineIn (s : State) (c : CoreId) (m : Nat) (v : NbUnit) : (s.setNb c m v).engineIn = s.engineIn := rfl
@[simp] theorem State.setNb_wells (s : State) (c : CoreId) (m : Nat) (v : NbUnit) : (s.setNb c m v).wells = s.wells := rfl
@[simp] theorem State.setNb_nb (s : State) (c : CoreId) (m : Nat) (v : NbUnit) : (s.setNb c m v).nb = tblSet NbUnit.idle s.nb (nbKey c m) v := rfl
@[simp] theorem State.setNb_vaults (s : State) (c : CoreId) (m : Nat) (v : NbUnit) : (s.setNb c m v).vaults = s.vaults := rfl
@[simp] theorem State.setNb_scrub (s : State) (c : CoreId) (m : Nat) (v : NbUnit) : (s.setNb c m v).scrub = s.scrub := rfl
@[simp] theorem State.setNb_umpire (s : State) (c : CoreId) (m : Nat) (v : NbUnit) : (s.setNb c m v).umpire = s.umpire := rfl
@[simp] theorem State.setNb_gathered (s : State) (c : CoreId) (m : Nat) (v : NbUnit) : (s.setNb c m v).gathered = s.gathered := rfl
@[simp] theorem State.setNb_image (s : State) (c : CoreId) (m : Nat) (v : NbUnit) : (s.setNb c m v).image = s.image := rfl
@[simp] theorem State.setNb_plan (s : State) (c : CoreId) (m : Nat) (v : NbUnit) : (s.setNb c m v).plan = s.plan := rfl
@[simp] theorem State.setNb_work (s : State) (c : CoreId) (m : Nat) (v : NbUnit) : (s.setNb c m v).work = s.work := rfl
@[simp] theorem State.setNb_doms (s : State) (c : CoreId) (m : Nat) (v : NbUnit) : (s.setNb c m v).doms = s.doms := rfl
@[simp] theorem State.setNb_latestSeal (s : State) (c : CoreId) (m : Nat) (v : NbUnit) : (s.setNb c m v).latestSeal = s.latestSeal := rfl
@[simp] theorem State.setNb_startStep (s : State) (c : CoreId) (m : Nat) (v : NbUnit) : (s.setNb c m v).startStep = s.startStep := rfl
@[simp] theorem State.setNb_heat (s : State) (c : CoreId) (m : Nat) (v : NbUnit) : (s.setNb c m v).heat = s.heat := rfl
@[simp] theorem State.setNb_power (s : State) (c : CoreId) (m : Nat) (v : NbUnit) : (s.setNb c m v).power = s.power := rfl
@[simp] theorem State.setNb_supply (s : State) (c : CoreId) (m : Nat) (v : NbUnit) : (s.setNb c m v).supply = s.supply := rfl
@[simp] theorem State.setNb_crews (s : State) (c : CoreId) (m : Nat) (v : NbUnit) : (s.setNb c m v).crews = s.crews := rfl
@[simp] theorem State.setNb_outbox (s : State) (c : CoreId) (m : Nat) (v : NbUnit) : (s.setNb c m v).outbox = s.outbox := rfl
@[simp] theorem State.setNb_pins (s : State) (c : CoreId) (m : Nat) (v : NbUnit) : (s.setNb c m v).pins = s.pins := rfl
@[simp] theorem State.setNb_stop (s : State) (c : CoreId) (m : Nat) (v : NbUnit) : (s.setNb c m v).stop = s.stop := rfl
@[simp] theorem State.setNb_coxDark (s : State) (c : CoreId) (m : Nat) (v : NbUnit) : (s.setNb c m v).coxDark = s.coxDark := rfl
@[simp] theorem State.setNb_boot (s : State) (c : CoreId) (m : Nat) (v : NbUnit) : (s.setNb c m v).boot = s.boot := rfl
@[simp] theorem State.setNb_cfg (s : State) (c : CoreId) (m : Nat) (v : NbUnit) : (s.setNb c m v).cfg = s.cfg := rfl
@[simp] theorem State.setNb_sec (s : State) (c : CoreId) (m : Nat) (v : NbUnit) : (s.setNb c m v).sec = s.sec := rfl
@[simp] theorem State.setNb_ports (s : State) (c : CoreId) (m : Nat) (v : NbUnit) : (s.setNb c m v).ports = s.ports := rfl
@[simp] theorem State.setNb_hostTags (s : State) (c : CoreId) (m : Nat) (v : NbUnit) : (s.setNb c m v).hostTags = s.hostTags := rfl
@[simp] theorem State.setNb_copies (s : State) (c : CoreId) (m : Nat) (v : NbUnit) : (s.setNb c m v).copies = s.copies := rfl
@[simp] theorem State.setNb_streams (s : State) (c : CoreId) (m : Nat) (v : NbUnit) : (s.setNb c m v).streams = s.streams := rfl
@[simp] theorem State.setNb_nextReq (s : State) (c : CoreId) (m : Nat) (v : NbUnit) : (s.setNb c m v).nextReq = s.nextReq := rfl
@[simp] theorem State.setNb_streamTurn (s : State) (c : CoreId) (m : Nat) (v : NbUnit) : (s.setNb c m v).streamTurn = s.streamTurn := rfl
@[simp] theorem State.setNb_dict (s : State) (c : CoreId) (m : Nat) (v : NbUnit) : (s.setNb c m v).dict = s.dict := rfl
@[simp] theorem State.setNb_pages (s : State) (c : CoreId) (m : Nat) (v : NbUnit) : (s.setNb c m v).pages = s.pages := rfl
@[simp] theorem State.setNb_loading (s : State) (c : CoreId) (m : Nat) (v : NbUnit) : (s.setNb c m v).loading = s.loading := rfl
@[simp] theorem State.setNb_stateTab (s : State) (c : CoreId) (m : Nat) (v : NbUnit) : (s.setNb c m v).stateTab = s.stateTab := rfl
@[simp] theorem State.setNb_snap (s : State) (c : CoreId) (m : Nat) (v : NbUnit) : (s.setNb c m v).snap = s.snap := rfl
@[simp] theorem State.setNb_testIr (s : State) (c : CoreId) (m : Nat) (v : NbUnit) : (s.setNb c m v).testIr = s.testIr := rfl

/-! ### Numbers and counters as registers -/

@[simp] theorem State.setRegN_eq (s : State) (i j n : Nat) : s.setRegN i j n = s.setReg i j (BitVec.ofNat 64 n) := rfl

@[simp] theorem State.bumpReg_eq (s : State) (i j n : Nat) :
    s.bumpReg i j n = s.setReg i j (holdAdd (s.reg i j) n) := rfl

/-! ### What the accessors read -/

@[simp] theorem State.reg_setReg_same (s : State) (i j : Nat) (v : BitVec 64) : (s.setReg i j v).reg i j = v := by
  simp [State.reg]

/-- A register of another object or subindex keeps its value. -/
theorem State.reg_setReg_ne (s : State) {i j i' j' : Nat} (v : BitVec 64) (h : regKey i' j' ≠ regKey i j) :
    (s.setReg i j v).reg i' j' = s.reg i' j' := by
  simp [State.reg, tblGet, tblFind_set_ne _ _ v h]

@[simp] theorem State.dom_setDom_same (s : State) (i j : Nat) (v : List Byte) : (s.setDom i j v).dom i j = v := by
  simp [State.dom]

theorem State.dom_setDom_ne (s : State) {i j i' j' : Nat} (v : List Byte) (h : regKey i' j' ≠ regKey i j) :
    (s.setDom i j v).dom i' j' = s.dom i' j' := by
  simp [State.dom, tblGet_set_ne _ _ v h]

@[simp] theorem State.core_setCore_same (s : State) (c : CoreId) (v : CoreState) : (s.setCore c v).core c = v := by
  simp [State.core]

theorem State.core_setCore_ne (s : State) {c d : CoreId} (v : CoreState) (h : d.num ≠ c.num) :
    (s.setCore c v).core d = s.core d := by
  simp [State.core, tblGet_set_ne _ _ v h]

@[simp] theorem State.router_setRouter_same (s : State) (r : ColId) (v : RouterState) :
    (s.setRouter r v).router r = v := by
  simp [State.router]

theorem State.router_setRouter_ne (s : State) {r q : ColId} (v : RouterState) (h : q.num ≠ r.num) :
    (s.setRouter r v).router q = s.router q := by
  simp [State.router, tblGet_set_ne _ _ v h]

@[simp] theorem State.vault_setVault_same (s : State) (c : CoreId) (v : VaultState) : (s.setVault c v).vault c = v := by
  simp [State.vault]

theorem State.vault_setVault_ne (s : State) {c d : CoreId} (v : VaultState) (h : d.num ≠ c.num) :
    (s.setVault c v).vault d = s.vault d := by
  simp [State.vault, tblGet_set_ne _ _ v h]

@[simp] theorem State.well_setWell_same (s : State) (w : RegionId) (v : WellState) : (s.setWell w v).well w = v := by
  simp [State.well]

theorem State.well_setWell_ne (s : State) {w x : RegionId} (v : WellState) (h : x.num ≠ w.num) :
    (s.setWell w v).well x = s.well x := by
  simp [State.well, tblGet_set_ne _ _ v h]

@[simp] theorem State.nbUnit_setNb_same (s : State) (c : CoreId) (b : Nat) (v : NbUnit) :
    (s.setNb c b v).nbUnit c b = v := by
  simp [State.nbUnit]

@[simp] theorem State.mailbox_fillMailbox_same (s : State) (m n : Nat) :
    (s.fillMailbox m n).mailbox m = s.mailbox m + BitVec.ofNat 64 n := by
  simp [State.mailbox]

theorem State.mailbox_fillMailbox_ne (s : State) {m q : Nat} (n : Nat) (h : q ≠ m) :
    (s.fillMailbox m n).mailbox q = s.mailbox q := by
  have h' := tblGet_set_ne (0 : BitVec 64) s.umpire.mailboxes (s.mailbox m + BitVec.ofNat 64 n) h
  simpa [State.mailbox] using h'

/-! ### Accessors that an update does not reach -/

@[simp] theorem State.core_advance (s : State) (t : Time) (d : CoreId) : (s.advance t).core d = s.core d := rfl
@[simp] theorem State.router_advance (s : State) (t : Time) (q : ColId) : (s.advance t).router q = s.router q := rfl
@[simp] theorem State.vault_advance (s : State) (t : Time) (d : CoreId) : (s.advance t).vault d = s.vault d := rfl
@[simp] theorem State.well_advance (s : State) (t : Time) (x : RegionId) : (s.advance t).well x = s.well x := rfl
@[simp] theorem State.reg_advance (s : State) (t : Time) (i' j' : Nat) : (s.advance t).reg i' j' = s.reg i' j' := rfl
@[simp] theorem State.dom_advance (s : State) (t : Time) (i' j' : Nat) : (s.advance t).dom i' j' = s.dom i' j' := rfl
@[simp] theorem State.mailbox_advance (s : State) (t : Time) (q : Nat) : (s.advance t).mailbox q = s.mailbox q := rfl
@[simp] theorem State.word_advance (s : State) (t : Time) (b : Nat) : (s.advance t).word b = s.word b := rfl
@[simp] theorem State.store_advance (s : State) (t : Time) (u : UnitId) : (s.advance t).store u = s.store u := by cases u <;> rfl
@[simp] theorem State.issue_advance (s : State) (t : Time) (u : UnitId) : (s.advance t).issue u = s.issue u := by cases u <;> rfl
@[simp] theorem State.nbUnit_advance (s : State) (t : Time) (d : CoreId) (k : Nat) : (s.advance t).nbUnit d k = s.nbUnit d k := rfl
@[simp] theorem State.eccOf_advance (s : State) (t : Time) (b : Nat) : (s.advance t).eccOf b = s.eccOf b := rfl
@[simp] theorem State.stampOf_advance (s : State) (t : Time) (b : Nat) : (s.advance t).stampOf b = s.stampOf b := rfl
@[simp] theorem State.core_setReg (s : State) (i j : Nat) (v : BitVec 64) (d : CoreId) : (s.setReg i j v).core d = s.core d := rfl
@[simp] theorem State.router_setReg (s : State) (i j : Nat) (v : BitVec 64) (q : ColId) : (s.setReg i j v).router q = s.router q := rfl
@[simp] theorem State.vault_setReg (s : State) (i j : Nat) (v : BitVec 64) (d : CoreId) : (s.setReg i j v).vault d = s.vault d := rfl
@[simp] theorem State.well_setReg (s : State) (i j : Nat) (v : BitVec 64) (x : RegionId) : (s.setReg i j v).well x = s.well x := rfl
@[simp] theorem State.dom_setReg (s : State) (i j : Nat) (v : BitVec 64) (i' j' : Nat) : (s.setReg i j v).dom i' j' = s.dom i' j' := rfl
@[simp] theorem State.mailbox_setReg (s : State) (i j : Nat) (v : BitVec 64) (q : Nat) : (s.setReg i j v).mailbox q = s.mailbox q := rfl
@[simp] theorem State.word_setReg (s : State) (i j : Nat) (v : BitVec 64) (b : Nat) : (s.setReg i j v).word b = s.word b := rfl
@[simp] theorem State.store_setReg (s : State) (i j : Nat) (v : BitVec 64) (u : UnitId) : (s.setReg i j v).store u = s.store u := by cases u <;> rfl
@[simp] theorem State.issue_setReg (s : State) (i j : Nat) (v : BitVec 64) (u : UnitId) : (s.setReg i j v).issue u = s.issue u := by cases u <;> rfl
@[simp] theorem State.nbUnit_setReg (s : State) (i j : Nat) (v : BitVec 64) (d : CoreId) (k : Nat) : (s.setReg i j v).nbUnit d k = s.nbUnit d k := rfl
@[simp] theorem State.eccOf_setReg (s : State) (i j : Nat) (v : BitVec 64) (b : Nat) : (s.setReg i j v).eccOf b = s.eccOf b := rfl
@[simp] theorem State.stampOf_setReg (s : State) (i j : Nat) (v : BitVec 64) (b : Nat) : (s.setReg i j v).stampOf b = s.stampOf b := rfl
@[simp] theorem State.core_setDom (s : State) (i j : Nat) (v : List Byte) (d : CoreId) : (s.setDom i j v).core d = s.core d := rfl
@[simp] theorem State.router_setDom (s : State) (i j : Nat) (v : List Byte) (q : ColId) : (s.setDom i j v).router q = s.router q := rfl
@[simp] theorem State.vault_setDom (s : State) (i j : Nat) (v : List Byte) (d : CoreId) : (s.setDom i j v).vault d = s.vault d := rfl
@[simp] theorem State.well_setDom (s : State) (i j : Nat) (v : List Byte) (x : RegionId) : (s.setDom i j v).well x = s.well x := rfl
@[simp] theorem State.reg_setDom (s : State) (i j : Nat) (v : List Byte) (i' j' : Nat) : (s.setDom i j v).reg i' j' = s.reg i' j' := rfl
@[simp] theorem State.mailbox_setDom (s : State) (i j : Nat) (v : List Byte) (q : Nat) : (s.setDom i j v).mailbox q = s.mailbox q := rfl
@[simp] theorem State.word_setDom (s : State) (i j : Nat) (v : List Byte) (b : Nat) : (s.setDom i j v).word b = s.word b := rfl
@[simp] theorem State.store_setDom (s : State) (i j : Nat) (v : List Byte) (u : UnitId) : (s.setDom i j v).store u = s.store u := by cases u <;> rfl
@[simp] theorem State.issue_setDom (s : State) (i j : Nat) (v : List Byte) (u : UnitId) : (s.setDom i j v).issue u = s.issue u := by cases u <;> rfl
@[simp] theorem State.nbUnit_setDom (s : State) (i j : Nat) (v : List Byte) (d : CoreId) (k : Nat) : (s.setDom i j v).nbUnit d k = s.nbUnit d k := rfl
@[simp] theorem State.eccOf_setDom (s : State) (i j : Nat) (v : List Byte) (b : Nat) : (s.setDom i j v).eccOf b = s.eccOf b := rfl
@[simp] theorem State.stampOf_setDom (s : State) (i j : Nat) (v : List Byte) (b : Nat) : (s.setDom i j v).stampOf b = s.stampOf b := rfl
@[simp] theorem State.core_putWord (s : State) (a : Nat) (v : EccWord) (d : CoreId) : (s.putWord a v).core d = s.core d := rfl
@[simp] theorem State.router_putWord (s : State) (a : Nat) (v : EccWord) (q : ColId) : (s.putWord a v).router q = s.router q := rfl
@[simp] theorem State.vault_putWord (s : State) (a : Nat) (v : EccWord) (d : CoreId) : (s.putWord a v).vault d = s.vault d := rfl
@[simp] theorem State.well_putWord (s : State) (a : Nat) (v : EccWord) (x : RegionId) : (s.putWord a v).well x = s.well x := rfl
@[simp] theorem State.reg_putWord (s : State) (a : Nat) (v : EccWord) (i' j' : Nat) : (s.putWord a v).reg i' j' = s.reg i' j' := rfl
@[simp] theorem State.dom_putWord (s : State) (a : Nat) (v : EccWord) (i' j' : Nat) : (s.putWord a v).dom i' j' = s.dom i' j' := rfl
@[simp] theorem State.mailbox_putWord (s : State) (a : Nat) (v : EccWord) (q : Nat) : (s.putWord a v).mailbox q = s.mailbox q := rfl
@[simp] theorem State.store_putWord (s : State) (a : Nat) (v : EccWord) (u : UnitId) : (s.putWord a v).store u = s.store u := by cases u <;> rfl
@[simp] theorem State.issue_putWord (s : State) (a : Nat) (v : EccWord) (u : UnitId) : (s.putWord a v).issue u = s.issue u := by cases u <;> rfl
@[simp] theorem State.nbUnit_putWord (s : State) (a : Nat) (v : EccWord) (d : CoreId) (k : Nat) : (s.putWord a v).nbUnit d k = s.nbUnit d k := rfl
@[simp] theorem State.stampOf_putWord (s : State) (a : Nat) (v : EccWord) (b : Nat) : (s.putWord a v).stampOf b = s.stampOf b := rfl
@[simp] theorem State.core_setStamp (s : State) (a n : Nat) (v : BitVec 32) (d : CoreId) : (s.setStamp a n v).core d = s.core d := rfl
@[simp] theorem State.router_setStamp (s : State) (a n : Nat) (v : BitVec 32) (q : ColId) : (s.setStamp a n v).router q = s.router q := rfl
@[simp] theorem State.vault_setStamp (s : State) (a n : Nat) (v : BitVec 32) (d : CoreId) : (s.setStamp a n v).vault d = s.vault d := rfl
@[simp] theorem State.well_setStamp (s : State) (a n : Nat) (v : BitVec 32) (x : RegionId) : (s.setStamp a n v).well x = s.well x := rfl
@[simp] theorem State.reg_setStamp (s : State) (a n : Nat) (v : BitVec 32) (i' j' : Nat) : (s.setStamp a n v).reg i' j' = s.reg i' j' := rfl
@[simp] theorem State.dom_setStamp (s : State) (a n : Nat) (v : BitVec 32) (i' j' : Nat) : (s.setStamp a n v).dom i' j' = s.dom i' j' := rfl
@[simp] theorem State.mailbox_setStamp (s : State) (a n : Nat) (v : BitVec 32) (q : Nat) : (s.setStamp a n v).mailbox q = s.mailbox q := rfl
@[simp] theorem State.word_setStamp (s : State) (a n : Nat) (v : BitVec 32) (b : Nat) : (s.setStamp a n v).word b = s.word b := rfl
@[simp] theorem State.store_setStamp (s : State) (a n : Nat) (v : BitVec 32) (u : UnitId) : (s.setStamp a n v).store u = s.store u := by cases u <;> rfl
@[simp] theorem State.issue_setStamp (s : State) (a n : Nat) (v : BitVec 32) (u : UnitId) : (s.setStamp a n v).issue u = s.issue u := by cases u <;> rfl
@[simp] theorem State.nbUnit_setStamp (s : State) (a n : Nat) (v : BitVec 32) (d : CoreId) (k : Nat) : (s.setStamp a n v).nbUnit d k = s.nbUnit d k := rfl
@[simp] theorem State.eccOf_setStamp (s : State) (a n : Nat) (v : BitVec 32) (b : Nat) : (s.setStamp a n v).eccOf b = s.eccOf b := rfl
@[simp] theorem State.core_setScrub (s : State) (v : ScrubState) (d : CoreId) : (s.setScrub v).core d = s.core d := rfl
@[simp] theorem State.router_setScrub (s : State) (v : ScrubState) (q : ColId) : (s.setScrub v).router q = s.router q := rfl
@[simp] theorem State.vault_setScrub (s : State) (v : ScrubState) (d : CoreId) : (s.setScrub v).vault d = s.vault d := rfl
@[simp] theorem State.well_setScrub (s : State) (v : ScrubState) (x : RegionId) : (s.setScrub v).well x = s.well x := rfl
@[simp] theorem State.reg_setScrub (s : State) (v : ScrubState) (i' j' : Nat) : (s.setScrub v).reg i' j' = s.reg i' j' := rfl
@[simp] theorem State.dom_setScrub (s : State) (v : ScrubState) (i' j' : Nat) : (s.setScrub v).dom i' j' = s.dom i' j' := rfl
@[simp] theorem State.mailbox_setScrub (s : State) (v : ScrubState) (q : Nat) : (s.setScrub v).mailbox q = s.mailbox q := rfl
@[simp] theorem State.word_setScrub (s : State) (v : ScrubState) (b : Nat) : (s.setScrub v).word b = s.word b := rfl
@[simp] theorem State.store_setScrub (s : State) (v : ScrubState) (u : UnitId) : (s.setScrub v).store u = s.store u := by cases u <;> rfl
@[simp] theorem State.issue_setScrub (s : State) (v : ScrubState) (u : UnitId) : (s.setScrub v).issue u = s.issue u := by cases u <;> rfl
@[simp] theorem State.nbUnit_setScrub (s : State) (v : ScrubState) (d : CoreId) (k : Nat) : (s.setScrub v).nbUnit d k = s.nbUnit d k := rfl
@[simp] theorem State.eccOf_setScrub (s : State) (v : ScrubState) (b : Nat) : (s.setScrub v).eccOf b = s.eccOf b := rfl
@[simp] theorem State.stampOf_setScrub (s : State) (v : ScrubState) (b : Nat) : (s.setScrub v).stampOf b = s.stampOf b := rfl
@[simp] theorem State.core_haltSoon (s : State) (n : Nat) (d : CoreId) : (s.haltSoon n).core d = s.core d := rfl
@[simp] theorem State.router_haltSoon (s : State) (n : Nat) (q : ColId) : (s.haltSoon n).router q = s.router q := rfl
@[simp] theorem State.vault_haltSoon (s : State) (n : Nat) (d : CoreId) : (s.haltSoon n).vault d = s.vault d := rfl
@[simp] theorem State.well_haltSoon (s : State) (n : Nat) (x : RegionId) : (s.haltSoon n).well x = s.well x := rfl
@[simp] theorem State.reg_haltSoon (s : State) (n : Nat) (i' j' : Nat) : (s.haltSoon n).reg i' j' = s.reg i' j' := rfl
@[simp] theorem State.dom_haltSoon (s : State) (n : Nat) (i' j' : Nat) : (s.haltSoon n).dom i' j' = s.dom i' j' := rfl
@[simp] theorem State.mailbox_haltSoon (s : State) (n : Nat) (q : Nat) : (s.haltSoon n).mailbox q = s.mailbox q := rfl
@[simp] theorem State.word_haltSoon (s : State) (n : Nat) (b : Nat) : (s.haltSoon n).word b = s.word b := rfl
@[simp] theorem State.store_haltSoon (s : State) (n : Nat) (u : UnitId) : (s.haltSoon n).store u = s.store u := by cases u <;> rfl
@[simp] theorem State.issue_haltSoon (s : State) (n : Nat) (u : UnitId) : (s.haltSoon n).issue u = s.issue u := by cases u <;> rfl
@[simp] theorem State.nbUnit_haltSoon (s : State) (n : Nat) (d : CoreId) (k : Nat) : (s.haltSoon n).nbUnit d k = s.nbUnit d k := rfl
@[simp] theorem State.eccOf_haltSoon (s : State) (n : Nat) (b : Nat) : (s.haltSoon n).eccOf b = s.eccOf b := rfl
@[simp] theorem State.stampOf_haltSoon (s : State) (n : Nat) (b : Nat) : (s.haltSoon n).stampOf b = s.stampOf b := rfl
@[simp] theorem State.core_fillMailbox (s : State) (m n : Nat) (d : CoreId) : (s.fillMailbox m n).core d = s.core d := rfl
@[simp] theorem State.router_fillMailbox (s : State) (m n : Nat) (q : ColId) : (s.fillMailbox m n).router q = s.router q := rfl
@[simp] theorem State.vault_fillMailbox (s : State) (m n : Nat) (d : CoreId) : (s.fillMailbox m n).vault d = s.vault d := rfl
@[simp] theorem State.well_fillMailbox (s : State) (m n : Nat) (x : RegionId) : (s.fillMailbox m n).well x = s.well x := rfl
@[simp] theorem State.reg_fillMailbox (s : State) (m n : Nat) (i' j' : Nat) : (s.fillMailbox m n).reg i' j' = s.reg i' j' := rfl
@[simp] theorem State.dom_fillMailbox (s : State) (m n : Nat) (i' j' : Nat) : (s.fillMailbox m n).dom i' j' = s.dom i' j' := rfl
@[simp] theorem State.word_fillMailbox (s : State) (m n : Nat) (b : Nat) : (s.fillMailbox m n).word b = s.word b := rfl
@[simp] theorem State.store_fillMailbox (s : State) (m n : Nat) (u : UnitId) : (s.fillMailbox m n).store u = s.store u := by cases u <;> rfl
@[simp] theorem State.issue_fillMailbox (s : State) (m n : Nat) (u : UnitId) : (s.fillMailbox m n).issue u = s.issue u := by cases u <;> rfl
@[simp] theorem State.nbUnit_fillMailbox (s : State) (m n : Nat) (d : CoreId) (k : Nat) : (s.fillMailbox m n).nbUnit d k = s.nbUnit d k := rfl
@[simp] theorem State.eccOf_fillMailbox (s : State) (m n : Nat) (b : Nat) : (s.fillMailbox m n).eccOf b = s.eccOf b := rfl
@[simp] theorem State.stampOf_fillMailbox (s : State) (m n : Nat) (b : Nat) : (s.fillMailbox m n).stampOf b = s.stampOf b := rfl
@[simp] theorem State.router_setCore (s : State) (c : CoreId) (v : CoreState) (q : ColId) : (s.setCore c v).router q = s.router q := rfl
@[simp] theorem State.vault_setCore (s : State) (c : CoreId) (v : CoreState) (d : CoreId) : (s.setCore c v).vault d = s.vault d := rfl
@[simp] theorem State.well_setCore (s : State) (c : CoreId) (v : CoreState) (x : RegionId) : (s.setCore c v).well x = s.well x := rfl
@[simp] theorem State.reg_setCore (s : State) (c : CoreId) (v : CoreState) (i' j' : Nat) : (s.setCore c v).reg i' j' = s.reg i' j' := rfl
@[simp] theorem State.dom_setCore (s : State) (c : CoreId) (v : CoreState) (i' j' : Nat) : (s.setCore c v).dom i' j' = s.dom i' j' := rfl
@[simp] theorem State.mailbox_setCore (s : State) (c : CoreId) (v : CoreState) (q : Nat) : (s.setCore c v).mailbox q = s.mailbox q := rfl
@[simp] theorem State.word_setCore (s : State) (c : CoreId) (v : CoreState) (b : Nat) : (s.setCore c v).word b = s.word b := rfl
@[simp] theorem State.store_setCore (s : State) (c : CoreId) (v : CoreState) (u : UnitId) : (s.setCore c v).store u = s.store u := by cases u <;> rfl
@[simp] theorem State.nbUnit_setCore (s : State) (c : CoreId) (v : CoreState) (d : CoreId) (k : Nat) : (s.setCore c v).nbUnit d k = s.nbUnit d k := rfl
@[simp] theorem State.eccOf_setCore (s : State) (c : CoreId) (v : CoreState) (b : Nat) : (s.setCore c v).eccOf b = s.eccOf b := rfl
@[simp] theorem State.stampOf_setCore (s : State) (c : CoreId) (v : CoreState) (b : Nat) : (s.setCore c v).stampOf b = s.stampOf b := rfl
@[simp] theorem State.core_setRouter (s : State) (r : ColId) (v : RouterState) (d : CoreId) : (s.setRouter r v).core d = s.core d := rfl
@[simp] theorem State.vault_setRouter (s : State) (r : ColId) (v : RouterState) (d : CoreId) : (s.setRouter r v).vault d = s.vault d := rfl
@[simp] theorem State.well_setRouter (s : State) (r : ColId) (v : RouterState) (x : RegionId) : (s.setRouter r v).well x = s.well x := rfl
@[simp] theorem State.reg_setRouter (s : State) (r : ColId) (v : RouterState) (i' j' : Nat) : (s.setRouter r v).reg i' j' = s.reg i' j' := rfl
@[simp] theorem State.dom_setRouter (s : State) (r : ColId) (v : RouterState) (i' j' : Nat) : (s.setRouter r v).dom i' j' = s.dom i' j' := rfl
@[simp] theorem State.mailbox_setRouter (s : State) (r : ColId) (v : RouterState) (q : Nat) : (s.setRouter r v).mailbox q = s.mailbox q := rfl
@[simp] theorem State.word_setRouter (s : State) (r : ColId) (v : RouterState) (b : Nat) : (s.setRouter r v).word b = s.word b := rfl
@[simp] theorem State.store_setRouter (s : State) (r : ColId) (v : RouterState) (u : UnitId) : (s.setRouter r v).store u = s.store u := by cases u <;> rfl
@[simp] theorem State.nbUnit_setRouter (s : State) (r : ColId) (v : RouterState) (d : CoreId) (k : Nat) : (s.setRouter r v).nbUnit d k = s.nbUnit d k := rfl
@[simp] theorem State.eccOf_setRouter (s : State) (r : ColId) (v : RouterState) (b : Nat) : (s.setRouter r v).eccOf b = s.eccOf b := rfl
@[simp] theorem State.stampOf_setRouter (s : State) (r : ColId) (v : RouterState) (b : Nat) : (s.setRouter r v).stampOf b = s.stampOf b := rfl
@[simp] theorem State.core_setVault (s : State) (c : CoreId) (v : VaultState) (d : CoreId) : (s.setVault c v).core d = s.core d := rfl
@[simp] theorem State.router_setVault (s : State) (c : CoreId) (v : VaultState) (q : ColId) : (s.setVault c v).router q = s.router q := rfl
@[simp] theorem State.well_setVault (s : State) (c : CoreId) (v : VaultState) (x : RegionId) : (s.setVault c v).well x = s.well x := rfl
@[simp] theorem State.reg_setVault (s : State) (c : CoreId) (v : VaultState) (i' j' : Nat) : (s.setVault c v).reg i' j' = s.reg i' j' := rfl
@[simp] theorem State.dom_setVault (s : State) (c : CoreId) (v : VaultState) (i' j' : Nat) : (s.setVault c v).dom i' j' = s.dom i' j' := rfl
@[simp] theorem State.mailbox_setVault (s : State) (c : CoreId) (v : VaultState) (q : Nat) : (s.setVault c v).mailbox q = s.mailbox q := rfl
@[simp] theorem State.word_setVault (s : State) (c : CoreId) (v : VaultState) (b : Nat) : (s.setVault c v).word b = s.word b := rfl
@[simp] theorem State.store_setVault (s : State) (c : CoreId) (v : VaultState) (u : UnitId) : (s.setVault c v).store u = s.store u := by cases u <;> rfl
@[simp] theorem State.issue_setVault (s : State) (c : CoreId) (v : VaultState) (u : UnitId) : (s.setVault c v).issue u = s.issue u := by cases u <;> rfl
@[simp] theorem State.nbUnit_setVault (s : State) (c : CoreId) (v : VaultState) (d : CoreId) (k : Nat) : (s.setVault c v).nbUnit d k = s.nbUnit d k := rfl
@[simp] theorem State.eccOf_setVault (s : State) (c : CoreId) (v : VaultState) (b : Nat) : (s.setVault c v).eccOf b = s.eccOf b := rfl
@[simp] theorem State.stampOf_setVault (s : State) (c : CoreId) (v : VaultState) (b : Nat) : (s.setVault c v).stampOf b = s.stampOf b := rfl
@[simp] theorem State.core_setWell (s : State) (w : RegionId) (v : WellState) (d : CoreId) : (s.setWell w v).core d = s.core d := rfl
@[simp] theorem State.router_setWell (s : State) (w : RegionId) (v : WellState) (q : ColId) : (s.setWell w v).router q = s.router q := rfl
@[simp] theorem State.vault_setWell (s : State) (w : RegionId) (v : WellState) (d : CoreId) : (s.setWell w v).vault d = s.vault d := rfl
@[simp] theorem State.reg_setWell (s : State) (w : RegionId) (v : WellState) (i' j' : Nat) : (s.setWell w v).reg i' j' = s.reg i' j' := rfl
@[simp] theorem State.dom_setWell (s : State) (w : RegionId) (v : WellState) (i' j' : Nat) : (s.setWell w v).dom i' j' = s.dom i' j' := rfl
@[simp] theorem State.mailbox_setWell (s : State) (w : RegionId) (v : WellState) (q : Nat) : (s.setWell w v).mailbox q = s.mailbox q := rfl
@[simp] theorem State.word_setWell (s : State) (w : RegionId) (v : WellState) (b : Nat) : (s.setWell w v).word b = s.word b := rfl
@[simp] theorem State.store_setWell (s : State) (w : RegionId) (v : WellState) (u : UnitId) : (s.setWell w v).store u = s.store u := by cases u <;> rfl
@[simp] theorem State.issue_setWell (s : State) (w : RegionId) (v : WellState) (u : UnitId) : (s.setWell w v).issue u = s.issue u := by cases u <;> rfl
@[simp] theorem State.nbUnit_setWell (s : State) (w : RegionId) (v : WellState) (d : CoreId) (k : Nat) : (s.setWell w v).nbUnit d k = s.nbUnit d k := rfl
@[simp] theorem State.eccOf_setWell (s : State) (w : RegionId) (v : WellState) (b : Nat) : (s.setWell w v).eccOf b = s.eccOf b := rfl
@[simp] theorem State.stampOf_setWell (s : State) (w : RegionId) (v : WellState) (b : Nat) : (s.setWell w v).stampOf b = s.stampOf b := rfl
@[simp] theorem State.core_setNb (s : State) (c : CoreId) (m : Nat) (v : NbUnit) (d : CoreId) : (s.setNb c m v).core d = s.core d := rfl
@[simp] theorem State.router_setNb (s : State) (c : CoreId) (m : Nat) (v : NbUnit) (q : ColId) : (s.setNb c m v).router q = s.router q := rfl
@[simp] theorem State.vault_setNb (s : State) (c : CoreId) (m : Nat) (v : NbUnit) (d : CoreId) : (s.setNb c m v).vault d = s.vault d := rfl
@[simp] theorem State.well_setNb (s : State) (c : CoreId) (m : Nat) (v : NbUnit) (x : RegionId) : (s.setNb c m v).well x = s.well x := rfl
@[simp] theorem State.reg_setNb (s : State) (c : CoreId) (m : Nat) (v : NbUnit) (i' j' : Nat) : (s.setNb c m v).reg i' j' = s.reg i' j' := rfl
@[simp] theorem State.dom_setNb (s : State) (c : CoreId) (m : Nat) (v : NbUnit) (i' j' : Nat) : (s.setNb c m v).dom i' j' = s.dom i' j' := rfl
@[simp] theorem State.mailbox_setNb (s : State) (c : CoreId) (m : Nat) (v : NbUnit) (q : Nat) : (s.setNb c m v).mailbox q = s.mailbox q := rfl
@[simp] theorem State.word_setNb (s : State) (c : CoreId) (m : Nat) (v : NbUnit) (b : Nat) : (s.setNb c m v).word b = s.word b := rfl
@[simp] theorem State.store_setNb (s : State) (c : CoreId) (m : Nat) (v : NbUnit) (u : UnitId) : (s.setNb c m v).store u = s.store u := by cases u <;> rfl
@[simp] theorem State.issue_setNb (s : State) (c : CoreId) (m : Nat) (v : NbUnit) (u : UnitId) : (s.setNb c m v).issue u = s.issue u := by cases u <;> rfl
@[simp] theorem State.eccOf_setNb (s : State) (c : CoreId) (m : Nat) (v : NbUnit) (b : Nat) : (s.setNb c m v).eccOf b = s.eccOf b := rfl
@[simp] theorem State.stampOf_setNb (s : State) (c : CoreId) (m : Nat) (v : NbUnit) (b : Nat) : (s.setNb c m v).stampOf b = s.stampOf b := rfl

/-! ### Issue states -/

@[simp] theorem State.issue_setIssue_same (s : State) (u : UnitId) (i : Issue) : (s.setIssue u i).issue u = i := by
  cases u <;> simp [State.setIssue, State.issue]

/-- Only the unit's own entry changes. -/
theorem State.setIssue_core (s : State) (c : CoreId) (i : Issue) :
    s.setIssue (.core c) i = s.setCore c { s.core c with iss := i } := rfl

theorem State.setIssue_router (s : State) (r : ColId) (i : Issue) :
    s.setIssue (.router r) i = s.setRouter r { s.router r with iss := i } := rfl

end Sys2Proof.Machine
end

