-- ==== Sys2Proof/Laws/Issue.lean ====
section
/-! SUPPORT. Laws of the issue of op words: what a fetch answers, and the three things a command for an op can do. -/

namespace Sys2Proof.Machine

open Sys2Proof.Safety

/-- A word that keeps every rule of its encoding has a unit and opcode that the tables name. -/
theorem unitNamed_of_ok {u : UnitId} {w : OpWord} (h : unitWordOk u w = true) :
    unitNamed u (opUnit w) (opCode w) = true := by
  cases u with
  | core c =>
    simp only [unitWordOk, coreWordOk, Bool.and_eq_true] at h
    have h2 := h.1.2
    unfold onlyNamed at h2
    unfold unitNamed
    cases hn : namedBits (opUnit w) (opCode w) with
    | none => simp [hn] at h2
    | some m => simp
  | router r =>
    simp only [unitWordOk, routeWordOk, Bool.and_eq_true] at h
    have h2 := h.1.2
    unfold onlyNamed at h2
    unfold unitNamed
    cases hn : routeNamedBits (opUnit w) (opCode w) with
    | none => simp [hn] at h2
    | some m => simp

/-- A word whose op issues is what the fetch answers, with its start sigma. -/
theorem State.fetch_of_issues {s : State} {u : UnitId} {unit code : Nat} {w : OpWord} (h : Issues s u unit code w) :
    s.fetch u unit code = .op w (opStart s u w) := by
  obtain ⟨h1, h2, h3, rfl, rfl, h6, h7, h8, h9, h10, -⟩ := h
  have hne : (s.store u).isEmpty = false := by
    cases hs : s.store u with
    | nil => simp [hs] at h3
    | cons a l => rfl
  have e1 : ¬ startSigma (s.issue u) w / 1024 > s.umpire.stroke := by omega
  have e2 : ¬ s.storeState u ≥ 2 := by omega
  have e3 : ¬ startSigma (s.issue u) w < (s.issue u).reached := by omega
  have e4 : ¬ startSigma (s.issue u) w < tblGet 0 (s.issue u).unitBusy (busyKey u w) := by omega
  unfold State.fetch
  simp only [h1, h2, hne, h3, e1, e2, unitNamed_of_ok h7, h7, e3, e4, Bool.not_true, Bool.or_self, Bool.false_eq_true,
    if_false, ne_eq, not_true_eq_false, decide_false, opStart]

/-- Such a command has its op's effect, in the state at its start. -/
theorem State.runOp_of_issues {s : State} {u : UnitId} {unit code : Nat} {w : OpWord} (h : Issues s u unit code w)
    (f : State → OpWord → Nat → State) :
    s.runOp u unit code f = f (startState s u w) w (opStart s u w) := by
  have h' : ((s.atStart u (opStart s u w)).issue u).live = true := h.stays
  simp only [State.runOp, s.fetch_of_issues h, h', if_true, startState]

/-- A fetch answers an op only where the issue logic finds every condition of its start met. -/
theorem State.op_of_fetch {s : State} {u : UnitId} {unit code : Nat} {w : OpWord} {sg : Nat}
    (h : s.fetch u unit code = .op w sg) :
    sg = opStart s u w ∧ (((s.atStart u sg).issue u).live = true → Issues s u unit code w) := by
  unfold State.fetch at h
  dsimp only at h
  by_cases h0 : (!s.issuing || !(s.issue u).live || (s.store u).isEmpty) = true
  · rw [if_pos h0] at h; cases h
  rw [if_neg h0] at h
  cases hw : (s.store u)[(s.issue u).idx]? with
  | none => rw [hw] at h; cases h
  | some w' =>
    rw [hw] at h
    dsimp only at h
    split at h
    · cases h
    rename_i h1
    split at h
    · cases h
    rename_i h2
    split at h
    · cases h
    split at h
    · cases h
    rename_i h4
    split at h
    · cases h
    rename_i h5
    split at h
    · cases h
    rename_i h6
    split at h
    · cases h
    rename_i h7
    cases h
    simp only [Bool.or_eq_true, Bool.not_eq_true', not_or, Bool.not_eq_false, decide_eq_true_eq, ne_eq,
      Decidable.not_not] at h0 h4 h5
    exact ⟨rfl, fun hl => ⟨h0.1.1, h0.1.2, hw, h4.1, h4.2, by omega, h5, by omega, by omega, by omega, hl⟩⟩

/-- Everything a command for an op can do: nothing; a fault of the unit's next word in the state at its start; work of
earlier ops alone, one of which stops the unit before that start; or the op's effect. -/
theorem State.runOp_cases (s : State) (u : UnitId) (unit code : Nat) (f : State → OpWord → Nat → State) :
    s.runOp u unit code f = s ∨
    (∃ c sg d, s.runOp u unit code f = ((s.atStart u sg).storeRead u).unitFault u c sg d) ∨
    (∃ sg, ((s.atStart u sg).issue u).live = false ∧ s.runOp u unit code f = s.atStart u sg) ∨
    (∃ w, Issues s u unit code w ∧ s.runOp u unit code f = f (startState s u w) w (opStart s u w)) := by
  unfold State.runOp
  cases h : s.fetch u unit code with
  | idle => exact .inl rfl
  | fault c sg d =>
    cases hl : ((s.atStart u sg).issue u).live with
    | false => exact .inr (.inr (.inl ⟨sg, hl, by simp [hl]⟩))
    | true => exact .inr (.inl ⟨c, sg, d, by simp [hl]⟩)
  | op w sg =>
    obtain ⟨rfl, h1⟩ := State.op_of_fetch h
    cases hl : ((s.atStart u (opStart s u w)).issue u).live with
    | false => exact .inr (.inr (.inl ⟨_, hl, by simp [hl]⟩))
    | true => exact .inr (.inr (.inr ⟨w, h1 hl, by simp [hl, startState]⟩))

/-! ### The clock at an op's start -/

@[simp] theorem State.issue_advanceSigma (s : State) (sg : Nat) (u : UnitId) : (s.advanceSigma sg).issue u = s.issue u := by
  cases u <;> rfl

@[simp] theorem State.core_advanceSigma (s : State) (sg : Nat) (c : CoreId) : (s.advanceSigma sg).core c = s.core c := rfl

@[simp] theorem State.router_advanceSigma (s : State) (sg : Nat) (r : ColId) : (s.advanceSigma sg).router r = s.router r := rfl

/-- Time alone goes on. -/
theorem State.advanceSigma_frame (s : State) (sg : Nat) : s.advanceSigma sg = { s with clk := (s.advanceSigma sg).clk } := rfl

/-- Time never goes back. -/
theorem State.le_advance (s : State) (t : Time) : s.clk.now ≤ (s.advance t).clk.now := Nat.le_max_left _ _

/-! ### Faults of a core or router -/

/-- Two states that differ in the registers at most. -/
def RegsOnly (s t : State) : Prop := ∃ r, t = { s with regs := r }

theorem RegsOnly.refl (s : State) : RegsOnly s s := ⟨s.regs, rfl⟩

theorem RegsOnly.setReg {s t : State} (h : RegsOnly s t) (i j : Nat) (v : BitVec 64) : RegsOnly s (t.setReg i j v) := by
  obtain ⟨r, rfl⟩ := h
  exact ⟨_, rfl⟩

theorem RegsOnly.setRegN {s t : State} (h : RegsOnly s t) (i j v : Nat) : RegsOnly s (t.setRegN i j v) :=
  h.setReg i j _

theorem RegsOnly.bumpReg {s t : State} (h : RegsOnly s t) (i j n : Nat) : RegsOnly s (t.bumpReg i j n) := h.setReg i j _

theorem RegsOnly.event {s t : State} (h : RegsOnly s t) (k : Nat) : RegsOnly s (t.event k) :=
  (h.setReg _ _ _).bumpReg _ _ _

theorem RegsOnly.ite {s t t' : State} (c : Prop) [Decidable c] (h : RegsOnly s t) (h' : RegsOnly s t') :
    RegsOnly s (if c then t else t') := by
  split
  · exact h
  · exact h'

/-- Recording a fault reaches the registers and the halt that is due. -/
theorem State.recordFault_frame (s : State) (code uid sg op detail : Nat) :
    ∃ r, s.recordFault code uid sg op detail = { s with regs := r, halting := s.halting ++ [0x07] } := by
  have h : ∀ t, RegsOnly s t → ∃ r, t.haltSoon 0x07 = { s with regs := r, halting := s.halting ++ [0x07] } := by
    rintro t ⟨r, rfl⟩
    exact ⟨r, rfl⟩
  exact h _ (((RegsOnly.refl s |>.setRegN _ _ _ |>.setRegN _ _ _ |>.setRegN _ _ _ |>.setRegN _ _ _ |>.setRegN _ _ _
    |>.setRegN _ _ _).ite _ (.refl s)).bumpReg _ _ _ |>.event _)

/-- A unit that faults stops. -/
theorem State.unitFault_stopped (s : State) (u : UnitId) (code sg detail : Nat) :
    ((s.unitFault u code sg detail).issue u).stopped = true := by
  unfold State.unitFault
  dsimp only
  obtain ⟨r, hr⟩ := State.recordFault_frame (s.setIssue u { s.issue u with stopped := true }) code (unitUid u) sg
    (s.issue u).idx detail
  rw [hr]
  have h := State.issue_setIssue_same s u { s.issue u with stopped := true }
  cases u <;> (simp only [State.issue, State.core, State.router] at h ⊢; rw [h])

/-- What a fault of a core records, for a state that differs from s0 in neither registers, umpire nor halts due. -/
theorem State.unitFault_stops {s s0 : State} (c : CoreId) (code sg detail : Nat) (hh : s.halting = s0.halting)
    (hr : s.regs = s0.regs) (hu : s.umpire = s0.umpire) :
    Stops s0 c (s.core c).iss.idx code sg detail (s.unitFault (.core c) code sg detail) := by
  have hreg : ∀ i j, s.reg i j = s0.reg i j := by intro i j; simp [State.reg, hr]
  obtain ⟨r, h⟩ := State.recordFault_frame (s.setIssue (.core c) { s.issue (.core c) with stopped := true }) code
    (unitUid (.core c)) sg (s.issue (.core c)).idx detail
  have hf : s.unitFault (.core c) code sg detail = _ := h
  have hs : (s.setIssue (.core c) { s.issue (.core c) with stopped := true }).reg = s.reg := rfl
  refine ⟨?_, ?_, ?_, ?_, ?_⟩
  · exact State.unitFault_stopped s (.core c) code sg detail
  · rw [hf, ← hh]; rfl
  · unfold State.unitFault State.recordFault
    dsimp only
    rw [State.reg_haltSoon, State.event, State.bumpReg_eq, State.bumpReg_eq, State.reg_setReg_ne _ _ (by decide),
      State.reg_setReg_ne _ _ (by decide), State.reg_setReg_same]
    congr 1
    split
    · simp only [State.setRegN_eq]
      repeat rw [State.reg_setReg_ne _ _ (by decide)]
      exact hreg _ _
    · exact hreg _ _
  · unfold State.unitFault State.recordFault
    dsimp only
    rw [State.reg_haltSoon, State.event, State.bumpReg_eq, State.reg_setReg_ne _ _ (by decide), State.reg_setReg_same,
      BitVec.getLsbD_or, show (BitVec.ofNat 64 (2 ^ evCoreFault)).getLsbD 5 = true from by decide, Bool.or_true]
  · intro h0
    have h0' : (s.setIssue (.core c) { s.issue (.core c) with stopped := true }).regN 0x5210 7 = 0 := by
      show (s.reg 0x5210 7).toNat = 0
      rw [hreg, h0]; rfl
    unfold State.unitFault State.recordFault
    dsimp only
    rw [h0']
    simp only [decide_true, Bool.true_or, if_true, State.reg_haltSoon, State.event, State.bumpReg_eq, State.setRegN_eq]
    refine ⟨?_, ?_, ?_, ?_, ?_, ?_⟩ <;>
    · repeat (first | rw [State.reg_setReg_same] | rw [State.reg_setReg_ne _ _ (by decide)])
      all_goals first
        | rfl
        | simp only [State.placeOfSigma, State.setIssue, State.setCore_umpire, hu]

end Sys2Proof.Machine
end

