-- ==== Sys2Proof/Laws/Jobs.lean ====
section
/-! SUPPORT. Laws of work in flight: what doing the jobs of a core and the reads of a well can change, said once. -/

namespace Sys2Proof.Machine

/-- A state without what work in flight can change: cores, registers, DOMAINs, halts due, storage with its check states and
stamps, flits, near-bank units, wells and the events gathered. -/
def State.rest (s : State) : State :=
  { s with cores := [], regs := [], doms := [], halting := [], mem := [], ecc := [], stamps := [], flits := [], nb := []
           wells := [], gathered := Gathered.zero }

@[simp] theorem State.setCore_rest (s : State) (c : CoreId) (k : CoreState) : (s.setCore c k).rest = s.rest := rfl
@[simp] theorem State.setNb_rest (s : State) (c : CoreId) (b : Nat) (n : NbUnit) : (s.setNb c b n).rest = s.rest := rfl
@[simp] theorem State.setWell_rest (s : State) (w : RegionId) (k : WellState) : (s.setWell w k).rest = s.rest := rfl
@[simp] theorem State.setReg_rest (s : State) (i k : Nat) (v : BitVec 64) : (s.setReg i k v).rest = s.rest := rfl
@[simp] theorem State.setRegN_rest (s : State) (i k v : Nat) : (s.setRegN i k v).rest = s.rest := rfl
@[simp] theorem State.bumpReg_rest (s : State) (i k n : Nat) : (s.bumpReg i k n).rest = s.rest := rfl
@[simp] theorem State.setDom_rest (s : State) (i k : Nat) (v : List Byte) : (s.setDom i k v).rest = s.rest := rfl
@[simp] theorem State.event_rest (s : State) (k : Nat) : (s.event k).rest = s.rest := rfl
@[simp] theorem State.haltSoon_rest (s : State) (k : Nat) : (s.haltSoon k).rest = s.rest := rfl
@[simp] theorem State.putWord_rest (s : State) (a : Nat) (w : EccWord) : (s.putWord a w).rest = s.rest := rfl
@[simp] theorem State.setStamp_rest (s : State) (a k : Nat) (v : BitVec 32) : (s.setStamp a k v).rest = s.rest := rfl
@[simp] theorem State.gather_rest (s : State) (e : Ev) : (s.gather e).rest = s.rest := rfl
@[simp] theorem State.withFlits_rest (s : State) (l : List InFlight) : ({ s with flits := l } : State).rest = s.rest := rfl

@[simp] theorem State.unitWrite_rest (s : State) (a : Nat) (w : EccWord) : (s.unitWrite a w).rest = s.rest := by
  unfold State.unitWrite; dsimp only; split <;> rfl

@[simp] theorem State.recordFault_rest (s : State) (code uid sg op detail : Nat) :
    (s.recordFault code uid sg op detail).rest = s.rest := by
  simp only [State.recordFault, State.haltSoon_rest, State.event_rest, State.bumpReg_rest]
  split <;> simp

@[simp] theorem State.coreFaultAt_rest (s : State) (c : CoreId) (op code sg detail : Nat) :
    (s.coreFaultAt c op code sg detail).rest = s.rest := by simp [State.coreFaultAt, State.setIssue]

@[simp] theorem State.recordDamage_rest (s : State) (a : Nat) : (s.recordDamage a).rest = s.rest := by
  unfold State.recordDamage; dsimp only; split
  · rfl
  · split <;> rfl

@[simp] theorem State.countRead_rest (s : State) (a req : Nat) : (s.countRead a req).rest = s.rest := by
  unfold State.countRead; split <;> simp

@[simp] theorem State.countReads_rest (as : List Nat) (s : State) (req : Nat) : (s.countReads req as).1.rest = s.rest := by
  induction as generalizing s with
  | nil => rfl
  | cons a as ih => unfold State.countReads; split <;> simp [ih]

@[simp] theorem State.cancel_rest (s : State) (c : CoreId) (id : Nat) : (s.cancel c id).rest = s.rest := rfl

@[simp] theorem State.flightFault_rest (s : State) (c : CoreId) (f : Flight) (code sg d : Nat) :
    (s.flightFault c f code sg d).rest = s.rest := by simp [State.flightFault]

/-- A fold keeps the rest where each of its steps does. -/
theorem foldl_rest {α : Type} {f : State → α → State} (h : ∀ s x, (f s x).rest = s.rest) (l : List α) (s : State) :
    (l.foldl f s).rest = s.rest := by
  induction l generalizing s with
  | nil => rfl
  | cons x l ih => rw [List.foldl_cons, ih, h]

@[simp] theorem State.nbDrop_rest (s : State) (c : CoreId) (r : NbRun) : (s.nbDrop c r).rest = s.rest := by
  refine foldl_rest (fun s b => ?_) _ _
  dsimp only; split <;> simp

@[simp] theorem State.endNb_rest (s : State) (c : CoreId) (b : Nat) : (s.endNb c b).rest = s.rest := by
  unfold State.endNb; dsimp only; split
  · rfl
  · rw [State.setNb_rest]; exact foldl_rest (fun s p => by simp) _ _

theorem State.flightJob_rest (s : State) (c : CoreId) (f : Flight) (sg : Nat) (a : Act) :
    (s.flightJob c f sg a).rest = s.rest := by
  cases a with
  | read j a => unfold State.flightJob State.jobRead; dsimp only; split <;> simp
  | push q k v => unfold State.flightJob State.jobPush; dsimp only; split <;> simp
  | enter => unfold State.flightJob State.jobEnter; dsimp only; split <;> simp
  | drain i =>
    unfold State.flightJob State.jobDrain; dsimp only; split
    · simp
    · split <;> simp
  | _ => simp [State.flightJob, State.jobRow, State.jobSlot, State.jobPop, State.jobLoad, State.jobFlit]

theorem State.runJob_rest (s : State) (c : CoreId) (j : Job) : (s.runJob c j).rest = s.rest := by
  unfold State.runJob
  split
  · simp
  · simp
  · unfold State.jobWant; dsimp only; split
    · unfold State.expectFault; split <;> simp
    · rfl
  · unfold State.jobUnserved; dsimp only; split <;> simp
  · unfold State.jobNbRead; dsimp only; split
    · rfl
    · split <;> simp [State.nbStop]
  · unfold State.jobNbForm; dsimp only; split <;> simp
  · unfold State.jobNbEnd; split <;> simp
  · split
    · exact State.flightJob_rest ..
    · rfl

theorem State.runJobs_rest (c : CoreId) (sg n : Nat) (s : State) : (State.runJobs c sg n s).rest = s.rest := by
  induction n generalizing s with
  | zero => rfl
  | succ n ih =>
    unfold State.runJobs; split
    · rfl
    · split
      · rw [ih, State.runJob_rest, State.setCore_rest]
      · rfl

/-- Everything that doing a core's work can change is outside `rest`. -/
theorem State.catchUp_rest (s : State) (c : CoreId) (sg : Nat) : (s.catchUp c sg).rest = s.rest := by
  simp [State.catchUp, State.runJobs_rest]

theorem State.catchUpAll_rest (s : State) (sg : Nat) : (s.catchUpAll sg).rest = s.rest :=
  foldl_rest (fun s n => s.catchUp_rest (coreOfNum n) sg) _ s

theorem State.wellRead_rest (s : State) (w : RegionId) (r : WellRead) : (s.wellRead w r).rest = s.rest := by
  unfold State.wellRead; dsimp only; split
  · refine (foldl_rest (fun s c => by simp [State.wreadFault]) _ _).trans ?_
    rw [State.withFlits_rest, State.setWell_rest, State.countReads_rest]
  · rw [State.withFlits_rest, State.countReads_rest]

theorem State.wellsTo_rest (s : State) (sg : Nat) : (s.wellsTo sg).rest = s.rest := by
  have one : ∀ (w : RegionId) (n : Nat) (s : State), (State.wellRun w sg n s).rest = s.rest := by
    intro w n
    induction n with
    | zero => intro s; rfl
    | succ n ih =>
      intro s; unfold State.wellRun; split
      · rfl
      · split
        · rw [ih, State.wellRead_rest, State.setWell_rest]
        · rfl
  exact foldl_rest (fun s n => one _ _ s) _ s

/-- A field that `rest` keeps is the same in states of the same rest. -/
theorem State.of_rest {α : Type} {s t : State} (h : t.rest = s.rest) (f : State → α) (hf : ∀ u : State, f u.rest = f u) :
    f t = f s := by rw [← hf t, h, hf]

/-! What work in flight keeps, field by field. -/
section
variable (s : State) (c : CoreId) (sg : Nat)
@[simp] theorem State.catchUp_clk : (s.catchUp c sg).clk = s.clk := State.of_rest (s.catchUp_rest c sg) State.clk fun _ => rfl
@[simp] theorem State.catchUp_st : (s.catchUp c sg).st = s.st := State.of_rest (s.catchUp_rest c sg) State.st fun _ => rfl
@[simp] theorem State.catchUp_umpire : (s.catchUp c sg).umpire = s.umpire := State.of_rest (s.catchUp_rest c sg) State.umpire fun _ => rfl
@[simp] theorem State.catchUp_image : (s.catchUp c sg).image = s.image := State.of_rest (s.catchUp_rest c sg) State.image fun _ => rfl
@[simp] theorem State.catchUp_vaults : (s.catchUp c sg).vaults = s.vaults := State.of_rest (s.catchUp_rest c sg) State.vaults fun _ => rfl
@[simp] theorem State.catchUp_opStores : (s.catchUp c sg).opStores = s.opStores :=
  State.of_rest (s.catchUp_rest c sg) State.opStores fun _ => rfl
@[simp] theorem State.catchUp_work : (s.catchUp c sg).work = s.work := State.of_rest (s.catchUp_rest c sg) State.work fun _ => rfl
@[simp] theorem State.catchUpAll_clk : (s.catchUpAll sg).clk = s.clk := State.of_rest (s.catchUpAll_rest sg) State.clk fun _ => rfl
@[simp] theorem State.catchUpAll_st : (s.catchUpAll sg).st = s.st := State.of_rest (s.catchUpAll_rest sg) State.st fun _ => rfl
@[simp] theorem State.catchUpAll_umpire : (s.catchUpAll sg).umpire = s.umpire :=
  State.of_rest (s.catchUpAll_rest sg) State.umpire fun _ => rfl
@[simp] theorem State.catchUpAll_image : (s.catchUpAll sg).image = s.image := State.of_rest (s.catchUpAll_rest sg) State.image fun _ => rfl
@[simp] theorem State.catchUpAll_vaults : (s.catchUpAll sg).vaults = s.vaults :=
  State.of_rest (s.catchUpAll_rest sg) State.vaults fun _ => rfl
@[simp] theorem State.catchUpAll_opStores : (s.catchUpAll sg).opStores = s.opStores :=
  State.of_rest (s.catchUpAll_rest sg) State.opStores fun _ => rfl
@[simp] theorem State.catchUpAll_work : (s.catchUpAll sg).work = s.work := State.of_rest (s.catchUpAll_rest sg) State.work fun _ => rfl
@[simp] theorem State.wellsTo_clk : (s.wellsTo sg).clk = s.clk := State.of_rest (s.wellsTo_rest sg) State.clk fun _ => rfl
@[simp] theorem State.wellsTo_st : (s.wellsTo sg).st = s.st := State.of_rest (s.wellsTo_rest sg) State.st fun _ => rfl
@[simp] theorem State.wellsTo_umpire : (s.wellsTo sg).umpire = s.umpire := State.of_rest (s.wellsTo_rest sg) State.umpire fun _ => rfl
@[simp] theorem State.wellsTo_image : (s.wellsTo sg).image = s.image := State.of_rest (s.wellsTo_rest sg) State.image fun _ => rfl
@[simp] theorem State.wellsTo_vaults : (s.wellsTo sg).vaults = s.vaults := State.of_rest (s.wellsTo_rest sg) State.vaults fun _ => rfl
end

/-! ### Registers

Work in flight writes the event flags and their counts, the fault record, the error counters of reads and the damage list,
and no other register. -/

/-- A key of a register that work in flight does not write. -/
def quietKey (k : Nat) : Prop := k / 256 ∉ [0x1110, 0x1111, 0x5210, 0x5220, 0x7302]

/-- The register of a key. -/
def State.at' (s : State) (k : Nat) : BitVec 64 := tblGet (regReset k) s.regs k

theorem State.reg_eq_at (s : State) (i j : Nat) : s.reg i j = s.at' (regKey i j) := rfl

section
variable {k : Nat} (hk : quietKey k)
include hk

theorem State.setReg_at (s : State) (i j : Nat) (v : BitVec 64)
    (hi : regKey i j / 256 ∈ [0x1110, 0x1111, 0x5210, 0x5220, 0x7302]) : (s.setReg i j v).at' k = s.at' k := by
  have hne : k ≠ regKey i j := fun e => hk (e ▸ hi)
  simp only [State.at', State.setReg_regs, tblGet, tblFind_set_ne _ _ _ hne]

theorem State.event_at (s : State) (e : Nat) (he : e < 255) : (s.event e).at' k = s.at' k := by
  have h2 : regKey 0x1111 (e + 1) / 256 ∈ [0x1110, 0x1111, 0x5210, 0x5220, 0x7302] := by
    have : regKey 0x1111 (e + 1) / 256 = 0x1111 := by unfold regKey; omega
    rw [this]; decide
  unfold State.event State.bumpReg
  rw [State.setReg_at hk _ _ _ _ h2, State.setReg_at hk _ _ _ _ (by decide)]

theorem State.recordFault_at (s : State) (code uid sg op detail : Nat) :
    (s.recordFault code uid sg op detail).at' k = s.at' k := by
  have hset : ∀ (s : State) (j v : Nat), j < 256 → (s.setRegN 0x5210 j v).at' k = s.at' k := by
    intro s j v hj
    refine State.setReg_at hk _ _ _ _ ?_
    have : regKey 0x5210 j / 256 = 0x5210 := by unfold regKey; omega
    rw [this]; decide
  unfold State.recordFault
  dsimp only
  show ((State.bumpReg _ 0x5210 7 1).event evCoreFault).at' k = _
  rw [State.event_at hk _ _ (by decide)]
  unfold State.bumpReg
  rw [State.setReg_at hk _ _ _ _ (by decide)]
  split
  · simp only [hset _ _ _ (by decide : 1 < 256), hset _ _ _ (by decide : 2 < 256), hset _ _ _ (by decide : 3 < 256),
      hset _ _ _ (by decide : 4 < 256), hset _ _ _ (by decide : 5 < 256), hset _ _ _ (by decide : 6 < 256)]
  · rfl

theorem State.coreFaultAt_at (s : State) (c : CoreId) (op code sg detail : Nat) :
    (s.coreFaultAt c op code sg detail).at' k = s.at' k := State.recordFault_at hk ..

theorem State.recordDamage_at (s : State) (a : Nat) : (s.recordDamage a).at' k = s.at' k := by
  unfold State.recordDamage
  dsimp only
  split
  · rfl
  · split
    · show ((s.bumpReg 0x7302 3 1).setRegN 0x7302 1 _).at' k = _
      unfold State.setRegN State.bumpReg
      rw [State.setReg_at hk _ _ _ _ (by decide), State.setReg_at hk _ _ _ _ (by decide)]
    · exact State.setReg_at hk _ _ _ _ (by decide)

theorem State.countRead_at (s : State) (a req : Nat) : (s.countRead a req).at' k = s.at' k := by
  have hc : regKey 0x5220 (ceSub a) / 256 ∈ [0x1110, 0x1111, 0x5210, 0x5220, 0x7302] := by
    have h3 : ceSub a ≤ 3 := by
      unfold ceSub; split
      · omega
      · split <;> omega
    have : regKey 0x5220 (ceSub a) / 256 = 0x5220 := by unfold regKey; omega
    rw [this]; decide
  unfold State.countRead
  split
  · rfl
  · exact State.setReg_at hk _ _ _ _ hc
  · rw [State.recordDamage_at hk, State.event_at hk _ _ (by decide)]
    unfold State.setRegN State.bumpReg
    rw [State.setReg_at hk _ _ _ _ (by decide), State.setReg_at hk _ _ _ _ (by decide), State.setReg_at hk _ _ _ _ (by decide)]

theorem State.countReads_at (as : List Nat) (s : State) (req : Nat) : (s.countReads req as).1.at' k = s.at' k := by
  induction as generalizing s with
  | nil => rfl
  | cons a as ih =>
    unfold State.countReads; split
    · exact State.countRead_at hk ..
    · rw [ih, State.countRead_at hk]

omit hk in
theorem State.unitWrite_at (s : State) (a : Nat) (w : EccWord) : (s.unitWrite a w).at' k = s.at' k := by
  unfold State.unitWrite; dsimp only; split <;> rfl

omit hk in
/-- A fold keeps a register where each of its steps does. -/
theorem foldl_at {α : Type} {f : State → α → State} (h : ∀ s x, (f s x).at' k = s.at' k) (l : List α) (s : State) :
    (l.foldl f s).at' k = s.at' k := by
  induction l generalizing s with
  | nil => rfl
  | cons x l ih => rw [List.foldl_cons, ih, h]

theorem State.flightJob_at (s : State) (c : CoreId) (f : Flight) (sg : Nat) (a : Act) :
    (s.flightJob c f sg a).at' k = s.at' k := by
  have hf : ∀ code d t, (s.flightFault c f code d t).at' k = s.at' k := fun code d t => State.coreFaultAt_at hk ..
  cases a with
  | read j a =>
    unfold State.flightJob State.jobRead; dsimp only; split
    · exact (State.coreFaultAt_at hk ..).trans (State.countReads_at hk _ s _)
    · exact State.countReads_at hk _ s _
  | put j a => exact State.unitWrite_at ..
  | push q i v => unfold State.flightJob State.jobPush; dsimp only; split <;> first | exact hf .. | rfl
  | enter => unfold State.flightJob State.jobEnter; dsimp only; split <;> first | exact hf .. | rfl
  | drain i =>
    unfold State.flightJob State.jobDrain; dsimp only; split
    · exact hf ..
    · split <;> rfl
  | _ => rfl

theorem State.runJob_at (s : State) (c : CoreId) (j : Job) : (s.runJob c j).at' k = s.at' k := by
  unfold State.runJob
  split
  · exact State.unitWrite_at ..
  · exact State.coreFaultAt_at hk ..
  · unfold State.jobWant; dsimp only; split
    · unfold State.expectFault; split <;> exact State.coreFaultAt_at hk ..
    · rfl
  · unfold State.jobUnserved; dsimp only; split <;> first | exact State.coreFaultAt_at hk .. | rfl
  · unfold State.jobNbRead; dsimp only; split
    · rfl
    · split
      · refine (State.recordFault_at hk ..).trans ((foldl_at (fun s b => ?_) _ _).trans (State.countReads_at hk _ s _))
        dsimp only; split <;> rfl
      · exact State.countReads_at hk _ s _
  · unfold State.jobNbForm; dsimp only; split <;> rfl
  · unfold State.jobNbEnd; split
    · unfold State.endNb; dsimp only; split
      · rfl
      · exact foldl_at (fun s p => State.unitWrite_at ..) _ s
    · rfl
  · split
    · exact State.flightJob_at hk ..
    · rfl

theorem State.runJobs_at (c : CoreId) (sg n : Nat) (s : State) : (State.runJobs c sg n s).at' k = s.at' k := by
  induction n generalizing s with
  | zero => rfl
  | succ n ih =>
    unfold State.runJobs; split
    · rfl
    · split
      · rw [ih, State.runJob_at hk]; rfl
      · rfl

end

theorem State.quiet_of_reg {i j : Nat} (hi : i ∉ [0x1110, 0x1111, 0x5210, 0x5220, 0x7302]) (hj : j < 256) :
    quietKey (regKey i j) := by
  have : regKey i j / 256 = i := by unfold regKey; omega
  unfold quietKey; rw [this]; exact hi

/-- A core's work leaves every register but those of the five objects. -/
theorem State.catchUp_reg (s : State) (c : CoreId) (sg : Nat) {i j : Nat}
    (hi : i ∉ [0x1110, 0x1111, 0x5210, 0x5220, 0x7302]) (hj : j < 256) : (s.catchUp c sg).reg i j = s.reg i j :=
  State.runJobs_at (State.quiet_of_reg hi hj) c sg _ s

theorem State.catchUpAll_reg (s : State) (sg : Nat) {i j : Nat}
    (hi : i ∉ [0x1110, 0x1111, 0x5210, 0x5220, 0x7302]) (hj : j < 256) : (s.catchUpAll sg).reg i j = s.reg i j :=
  foldl_at (k := regKey i j) (fun s n => s.catchUp_reg (coreOfNum n) sg hi hj) _ s

end Sys2Proof.Machine
end

