-- ==== Sys2Proof/Laws/Memory.lean ====
section
/-! SUPPORT. Laws of storage: a byte and a word read after a write, bytes outside a write, and the canonical form of
memory, check states and stamps under every operation over them. -/

namespace Sys2Proof.Machine

/-! ### Bytes -/

@[simp] theorem readByte_writeByte_same (m : List Host.Cell) (a : Nat) (b : Byte) :
    readByte (writeByte m a b) a = b := tblGet_set_same _ _ _ _

theorem readByte_writeByte_ne (m : List Host.Cell) {a x : Nat} (b : Byte) (h : x ≠ a) :
    readByte (writeByte m a b) x = readByte m x := tblGet_set_ne _ _ _ h

/-- A byte outside the bytes written reads as before. -/
theorem readByte_writeBytes_out (bs : List Byte) (m : List Host.Cell) {a x : Nat} (h : x < a ∨ a + bs.length ≤ x) :
    readByte (writeBytes m a bs) x = readByte m x := by
  induction bs generalizing m a with
  | nil => rfl
  | cons b bs ih =>
    simp only [List.length_cons] at h
    rw [writeBytes, ih _ (by omega), readByte_writeByte_ne _ _ (by omega)]

/-- A byte written reads as written. -/
theorem readByte_writeBytes_in (bs : List Byte) (m : List Host.Cell) (a : Nat) {i : Nat} (h : i < bs.length) :
    readByte (writeBytes m a bs) (a + i) = bs[i] := by
  induction bs generalizing m a i with
  | nil => cases h
  | cons b bs ih =>
    cases i with
    | zero => simp [writeBytes, readByte_writeBytes_out bs _ (x := a) (a := a + 1) (.inl (by omega))]
    | succ i =>
      have h' := ih (writeByte m a b) (a + 1) (i := i) (by simpa using h)
      simpa [writeBytes, Nat.add_assoc, Nat.add_comm 1 i] using h'

theorem writeByte_wf {m : List Host.Cell} (a : Nat) (b : Byte) (h : Memory.wf m) : Memory.wf (writeByte m a b) :=
  tblWf_set _ a b h

/-- Writing bytes keeps the canonical form. -/
theorem writeBytes_wf (bs : List Byte) {m : List Host.Cell} (a : Nat) (h : Memory.wf m) :
    Memory.wf (writeBytes m a bs) := by
  induction bs generalizing m a with
  | nil => exact h
  | cons b bs ih => exact ih _ (writeByte_wf a b h)

/-- Clearing storage keeps the canonical form. -/
theorem memory_filter_wf (p : Host.Cell → Bool) {m : List Host.Cell} (h : Memory.wf m) : Memory.wf (m.filter p) :=
  tblWf_filter _ p h

/-! ### Words -/

@[simp] theorem leBytes_length (n v : Nat) : (leBytes n v).length = n := by
  induction n generalizing v with
  | zero => rfl
  | succ n ih => simp [leBytes, ih]

theorem leBytes_getElem (n v i : Nat) (h : i < (leBytes n v).length) :
    (leBytes n v)[i] = BitVec.ofNat 8 (v / 256 ^ i) := by
  induction n generalizing v i with
  | zero => simp [leBytes] at h
  | succ n ih =>
    cases i with
    | zero => simp [leBytes]
    | succ i => simp [leBytes, ih, Nat.div_div_eq_div_mul, Nat.pow_succ']

/-- The number that bytes spell, of the bytes that spell a number. -/
theorem leNat_leBytes (n v : Nat) : leNat (leBytes n v) = v % 256 ^ n := by
  induction n generalizing v with
  | zero => simp [leBytes, leNat, Nat.mod_one]
  | succ n ih =>
    have hb : (BitVec.ofNat 8 v).toNat = v % 256 := BitVec.toNat_ofNat v 8
    rw [leBytes, leNat, ih, hb, Nat.pow_succ', Nat.mod_mul]

@[simp] theorem wordOfBytes_bytesOfWord (w : EccWord) : wordOfBytes (bytesOfWord w) = w := by
  unfold wordOfBytes bytesOfWord
  rw [leNat_leBytes]
  apply BitVec.eq_of_toNat_eq
  rw [BitVec.toNat_ofNat, show 256 ^ 32 = 2 ^ 256 by decide, Nat.mod_mod, Nat.mod_eq_of_lt w.isLt]

theorem readBytes_length (m : List Host.Cell) (a n : Nat) : (readBytes m a n).length = n := by
  simp [readBytes, span]

theorem readBytes_getElem (m : List Host.Cell) (a n i : Nat) (h : i < (readBytes m a n).length) :
    (readBytes m a n)[i] = readByte m (a + i) := by
  simp [readBytes, span]

/-- Bytes written, read back. -/
theorem readBytes_writeBytes (m : List Host.Cell) (a : Nat) (bs : List Byte) :
    readBytes (writeBytes m a bs) a bs.length = bs := by
  apply List.ext_getElem
  · simp [readBytes_length]
  · intro i h1 h2
    rw [readBytes_getElem, readByte_writeBytes_in bs m a h2]

@[simp] theorem State.word_putWord_same (s : State) (a : Nat) (v : EccWord) : (s.putWord a v).word a = v := by
  have h := readBytes_writeBytes s.mem a (bytesOfWord v)
  have hl : (bytesOfWord v).length = 32 := leBytes_length 32 _
  rw [hl] at h
  simp [State.word, h]

/-- A word that a write does not reach reads as before. -/
theorem State.word_putWord_out (s : State) {a b : Nat} (v : EccWord) (h : b + 32 ≤ a ∨ a + 32 ≤ b) :
    (s.putWord a v).word b = s.word b := by
  have : readBytes (writeBytes s.mem a (bytesOfWord v)) b 32 = readBytes s.mem b 32 := by
    apply List.ext_getElem
    · simp [readBytes_length]
    · intro i h1 h2
      rw [readBytes_length] at h1
      rw [readBytes_getElem, readBytes_getElem, readByte_writeBytes_out _ _ (by simp [bytesOfWord]; omega)]
  simp [State.word, this]

/-! ### Writes by units of the module (R189, R211) -/

theorem State.unitWrite_mem (s : State) (a : Nat) (w : EccWord) :
    (s.unitWrite a w).mem = writeBytes s.mem a (bytesOfWord w) := by
  unfold State.unitWrite; dsimp only; split <;> simp

theorem State.unitWrite_ecc (s : State) (a : Nat) (w : EccWord) :
    (s.unitWrite a w).ecc = tblSet 0 s.ecc (a / 32) 0 := by
  unfold State.unitWrite; dsimp only; split <;> simp

@[simp] theorem State.word_unitWrite_same (s : State) (a : Nat) (w : EccWord) : (s.unitWrite a w).word a = w := by
  have h := s.word_putWord_same a w
  simpa [State.word, State.unitWrite_mem] using h

theorem State.word_unitWrite_out (s : State) {a b : Nat} (w : EccWord) (h : b + 32 ≤ a ∨ a + 32 ≤ b) :
    (s.unitWrite a w).word b = s.word b := by
  have h := s.word_putWord_out w h
  simpa [State.word, State.unitWrite_mem] using h

/-- A write by a unit touches memory, its check state and its stamp only. -/
theorem State.unitWrite_frame (s : State) (a : Nat) (w : EccWord) :
    s.unitWrite a w =
      { s with mem := (s.unitWrite a w).mem, ecc := (s.unitWrite a w).ecc, stamps := (s.unitWrite a w).stamps } := by
  unfold State.unitWrite; dsimp only; split <;> rfl

end Sys2Proof.Machine

namespace Sys2Proof.Safety

open Sys2Proof.Machine

/-! ### The canonical form -/

theorem Stored.putWord {s : State} (h : Stored s) (a : Nat) (w : EccWord) : Stored (s.putWord a w) :=
  ⟨writeBytes_wf _ a h.mem, tblWf_set 0 _ 0 h.ecc, h.stamps⟩

theorem Stored.setStamp {s : State} (h : Stored s) (a n : Nat) (v : BitVec 32) : Stored (s.setStamp a n v) :=
  ⟨h.mem, h.ecc, tblWf_set 0 _ _ h.stamps⟩

theorem Stored.unitWrite {s : State} (h : Stored s) (a : Nat) (w : EccWord) : Stored (s.unitWrite a w) := by
  unfold State.unitWrite; dsimp only; split
  · exact (h.putWord a w).setStamp a 2 _
  · exact h.putWord a w

theorem Stored.unitWrites {s : State} (h : Stored s) (a : Nat) (ws : List EccWord) : Stored (s.unitWrites a ws) := by
  unfold State.unitWrites
  generalize ws.zipIdx = l
  induction l generalizing s with
  | nil => exact h
  | cons p l ih => exact ih (h.unitWrite _ _)

/-- Updates that reach no storage keep it. -/
theorem Stored.of_eq {s t : State} (h : Stored s) (hm : t.mem = s.mem) (he : t.ecc = s.ecc)
    (hs : t.stamps = s.stamps) : Stored t := ⟨hm ▸ h.mem, he ▸ h.ecc, hs ▸ h.stamps⟩

end Sys2Proof.Safety
end

