-- ==== Sys2Proof/WellFormed.lean ====
section
/-! DEFINITION. Which commands are well formed: operands of the lengths and ranges that the module's buses,
sensors and tables have. A flit that is not well formed is no flit (the fault badOperand); every other command
takes the operands it is given. -/

namespace Sys2Proof

/-- Lanes of a port (09 Table 9.2). -/
def Instr.lanesOf (port : Nat) : Nat := if port < 24 then 16 else if port < 30 then 32 else 8

def Instr.laneOk (port : Fin 31) (lane : BitVec 5) : Bool := decide (lane.toNat < Instr.lanesOf port.val)

/-- 244 payload bytes (Table 9.3). -/
def Instr.flitOk (f : Flit) : Bool := decide (f.payload.length = 244)

/-- A dictionary frame carries at most 1,024 bytes (10 Table 10.2), a mirror message at most 8,192. -/
def Instr.dataOk (src : Source) (d : List Byte) : Bool :=
  match src with
  | .field _ _ => decide (d.length ≤ 1024)
  | .mirror _ => decide (d.length ≤ 8192)

/-- Offsets of units in the floor plan (13 Table 13.8). -/
def Instr.findingsOk (fs : List Finding) : Bool := fs.all fun f => decide (64 ≤ f.offset ∧ f.offset < 35424)

/-- A crew packet has at most 16,384 bytes of body (07 Table 7.8). -/
def Instr.bodyOk (b : List EccWord) : Bool := decide (b.length ≤ 512)

/-- Well-formed commands. -/
def Instr.wf : Instr → Bool
  | .dataFlitReceive _ p l f | .fillFlitReceive _ p l f => Instr.laneOk p l && Instr.flitOk f
  | .nakReceive _ p l _ | .ackReceive _ p l _ | .ackSendTimer _ p l | .replayTimeout _ p l | .portRetrain _ p l =>
    Instr.laneOk p l
  | .chunk _ _ _ b | .trailer _ _ _ b | .epilogue _ _ _ b | .crewSeal _ _ _ b | .preamble _ _ _ b => Instr.bodyOk b
  | .dictWrite _ s _ _ d | .segWrite _ s _ _ _ _ d => Instr.dataOk s d
  | .hostWrite _ _ _ _ _ d => decide (d.length ≤ 8192)
  | .hostWriteStamped _ _ _ _ _ d => decide (d.length ≤ 10240)
  | .sensorSample _ xs _ => xs.all fun x => decide (x.id < 4680)
  | .powerControlTick _ m => decide (m.domains.length = 48) && decide (m.stackWatts.length = 12)
  | .bringupStageEnd _ f => Instr.findingsOk f.units
  | .safeStopRecoveryEnd _ fs => Instr.findingsOk fs
  | .configWrite _ n => decide (n ≤ 3)
  | .nop _ => true
  | .halt _ => true
  | .loop _ => true
  | .exitIf _ => true
  | .stake _ => true
  | .skip _ => true
  | .aset _ => true
  | .aadd _ => true
  | .run _ => true
  | .fload _ => true
  | .drainToSram _ => true
  | .drainToVreg _ => true
  | .vadd _ => true
  | .vsub _ => true
  | .vmul _ => true
  | .vfma _ => true
  | .vaddi _ => true
  | .vmuli _ => true
  | .vmax _ => true
  | .vmin _ => true
  | .vsel _ => true
  | .vmov _ => true
  | .vrcp _ => true
  | .vrsqrt _ => true
  | .vexp _ => true
  | .vexp2 _ => true
  | .vlog2 _ => true
  | .vdiv _ => true
  | .vsqrt _ => true
  | .vrsum _ => true
  | .vrmax _ => true
  | .vrot _ => true
  | .vupd _ => true
  | .vseed _ => true
  | .vld _ => true
  | .vst _ => true
  | .vldb _ => true
  | .vstb _ => true
  | .vread _ _ => true
  | .vwrite _ _ => true
  | .msend _ => true
  | .mrecv _ => true
  | .wread _ => true
  | .route _ => true
  | .routerFlitSwitch _ _ => true
  | .wellDescriptorArrival _ => true
  | .wellGroupRead _ => true
  | .openFlitWrite _ => true
  | .mv _ _ => true
  | .attn _ _ => true
  | .reduce _ _ => true
  | .nbCommandEnd _ _ => true
  | .heldBankAccess _ _ => true
  | .bankRefresh _ _ _ _ => true
  | .patrolScrub _ _ _ _ => true
  | .scrubIntervalEnd _ => true
  | .strokeBoundary _ => true
  | .programStrokeZero => true
  | .rendezvousEvaluation => true
  | .rendezvousRelease _ => true
  | .rendezvousTimeout _ => true
  | .stepDeadline => true
  | .splitSelection _ => true
  | .shiftRepairResume _ _ _ => true
  | .programComplete => true
  | .hostRead _ _ _ _ _ => true
  | .hostCompletionReceived _ _ _ _ => true
  | .hostRequestTimeout _ _ _ _ => true
  | .copyHostToModule _ _ _ _ => true
  | .copyModuleToHost _ _ _ _ => true
  | .copyRequestEnd _ _ => true
  | .trainingAttemptEnd _ _ _ _ => true
  | .linkId _ _ _ _ => true
  | .portPartnerTimeout _ _ => true
  | .auxFlitTake _ => true
  | .ready _ _ => true
  | .zeroRankTestEnd _ _ _ => true
  | .credit _ _ _ => true
  | .crewWaitDeadline _ _ _ _ => true
  | .layerComplete _ _ _ => true
  | .draw _ _ => true
  | .put _ _ => true
  | .commit _ _ => true
  | .spill _ _ => true
  | .fetch _ _ => true
  | .snap _ _ => true
  | .reply _ _ _ _ _ => true
  | .streamerRequestTimeout _ _ => true
  | .pageManagerTurn _ _ => true
  | .roundStart _ => true
  | .callEnd _ => true
  | .prefetchArrival _ _ => true
  | .maskExpand _ => true
  | .snapshotCopyEnd _ _ => true
  | .dictRead _ _ _ _ => true
  | .dictReadAll _ _ _ => true
  | .segRead _ _ _ _ _ _ => true
  | .segAbort _ _ _ _ => true
  | .segmentGapTimeout _ _ _ _ => true
  | .neighbourDiscovery _ _ => true
  | .icmpv6Echo _ _ _ => true
  | .loadTrigger _ _ _ => true
  | .loadEnd _ => true
  | .programStart _ _ _ => true
  | .startCheckEnd _ => true
  | .abort _ _ => true
  | .clear _ _ => true
  | .unload _ _ => true
  | .reset _ _ _ => true
  | .eventFlagsClear _ _ _ _ => true
  | .runStage _ _ _ => true
  | .copyChoice _ _ _ => true
  | .prefixKey _ _ _ => true
  | .prefetchSeq _ _ _ => true
  | .snapArm _ _ _ => true
  | .snapRelease _ _ _ => true
  | .fiClear _ _ _ => true
  | .lcRequest _ _ _ => true
  | .authData _ _ _ => true
  | .installStart _ _ _ => true
  | .installEnd _ => true
  | .attRequest _ _ _ => true
  | .attReportReady _ _ _ => true
  | .tokenData _ _ _ => true
  | .tokenClear _ _ _ => true
  | .tokenLapse _ => true
  | .enableHigh _ => true
  | .enableLow _ => true
  | .inputGoodLoss _ => true
  | .refclkLoss _ => true
  | .flowOkLow _ => true
  | .safeStopRecoveryStart _ => true
  | .safeStopHoldExpiry _ => true
  | .lowFlowHalt _ => true
  | .thermalModelUpdate _ => true
  | .budgetSolve _ => true
  | .phaseFailure _ _ _ => true
  | .regionRetire _ _ => true
  | .regionShort _ _ _ => true
  | .brickLoss _ _ => true
  | .leadCoxWatchdog _ => true
  | .coxWatchdog _ _ => true
  | .floorPlanPublish _ => true
  | .linkCheckingFail _ _ _ _ => true
  | .trainFlitReceive _ _ => true
  | .dictFrameInvalid _ _ _ _ _ _ => true
  | .udpDatagramDrop _ _ => true
  | .testPortInstruction _ _ => true
  | .inputGoodReturn _ => true

end Sys2Proof
end

