-- ==== Sys2Proof/Laws/PerInstr.lean ====
section
/-! SUPPORT. Statements made command by command. NoWord: no word of the table's bits spells the command, since
the table gives no row bits. -/

namespace Sys2Proof.Laws.NoWord

/-- No word spells the command. -/
def Statement (i : Instr) : Prop := ∀ nbits w : Nat, decodeTableWord nbits w ≠ some i

/-- The decoder answers nothing. -/
theorem of_decoder (i : Instr) : Statement i := fun _ _ h => nomatch h

theorem nop : ∀ x0, Statement (.nop x0) := fun _ => of_decoder _
theorem halt : ∀ x0, Statement (.halt x0) := fun _ => of_decoder _
theorem loop : ∀ x0, Statement (.loop x0) := fun _ => of_decoder _
theorem exitIf : ∀ x0, Statement (.exitIf x0) := fun _ => of_decoder _
theorem stake : ∀ x0, Statement (.stake x0) := fun _ => of_decoder _
theorem skip : ∀ x0, Statement (.skip x0) := fun _ => of_decoder _
theorem aset : ∀ x0, Statement (.aset x0) := fun _ => of_decoder _
theorem aadd : ∀ x0, Statement (.aadd x0) := fun _ => of_decoder _
theorem run : ∀ x0, Statement (.run x0) := fun _ => of_decoder _
theorem fload : ∀ x0, Statement (.fload x0) := fun _ => of_decoder _
theorem drainToSram : ∀ x0, Statement (.drainToSram x0) := fun _ => of_decoder _
theorem drainToVreg : ∀ x0, Statement (.drainToVreg x0) := fun _ => of_decoder _
theorem vadd : ∀ x0, Statement (.vadd x0) := fun _ => of_decoder _
theorem vsub : ∀ x0, Statement (.vsub x0) := fun _ => of_decoder _
theorem vmul : ∀ x0, Statement (.vmul x0) := fun _ => of_decoder _
theorem vfma : ∀ x0, Statement (.vfma x0) := fun _ => of_decoder _
theorem vaddi : ∀ x0, Statement (.vaddi x0) := fun _ => of_decoder _
theorem vmuli : ∀ x0, Statement (.vmuli x0) := fun _ => of_decoder _
theorem vmax : ∀ x0, Statement (.vmax x0) := fun _ => of_decoder _
theorem vmin : ∀ x0, Statement (.vmin x0) := fun _ => of_decoder _
theorem vsel : ∀ x0, Statement (.vsel x0) := fun _ => of_decoder _
theorem vmov : ∀ x0, Statement (.vmov x0) := fun _ => of_decoder _
theorem vrcp : ∀ x0, Statement (.vrcp x0) := fun _ => of_decoder _
theorem vrsqrt : ∀ x0, Statement (.vrsqrt x0) := fun _ => of_decoder _
theorem vexp : ∀ x0, Statement (.vexp x0) := fun _ => of_decoder _
theorem vexp2 : ∀ x0, Statement (.vexp2 x0) := fun _ => of_decoder _
theorem vlog2 : ∀ x0, Statement (.vlog2 x0) := fun _ => of_decoder _
theorem vdiv : ∀ x0, Statement (.vdiv x0) := fun _ => of_decoder _
theorem vsqrt : ∀ x0, Statement (.vsqrt x0) := fun _ => of_decoder _
theorem vrsum : ∀ x0, Statement (.vrsum x0) := fun _ => of_decoder _
theorem vrmax : ∀ x0, Statement (.vrmax x0) := fun _ => of_decoder _
theorem vrot : ∀ x0, Statement (.vrot x0) := fun _ => of_decoder _
theorem vupd : ∀ x0, Statement (.vupd x0) := fun _ => of_decoder _
theorem vseed : ∀ x0, Statement (.vseed x0) := fun _ => of_decoder _
theorem vld : ∀ x0, Statement (.vld x0) := fun _ => of_decoder _
theorem vst : ∀ x0, Statement (.vst x0) := fun _ => of_decoder _
theorem vldb : ∀ x0, Statement (.vldb x0) := fun _ => of_decoder _
theorem vstb : ∀ x0, Statement (.vstb x0) := fun _ => of_decoder _
theorem vread : ∀ x0 x1, Statement (.vread x0 x1) := fun _ _ => of_decoder _
theorem vwrite : ∀ x0 x1, Statement (.vwrite x0 x1) := fun _ _ => of_decoder _
theorem msend : ∀ x0, Statement (.msend x0) := fun _ => of_decoder _
theorem mrecv : ∀ x0, Statement (.mrecv x0) := fun _ => of_decoder _
theorem wread : ∀ x0, Statement (.wread x0) := fun _ => of_decoder _
theorem route : ∀ x0, Statement (.route x0) := fun _ => of_decoder _
theorem routerFlitSwitch : ∀ x0 x1, Statement (.routerFlitSwitch x0 x1) := fun _ _ => of_decoder _
theorem wellDescriptorArrival : ∀ x0, Statement (.wellDescriptorArrival x0) := fun _ => of_decoder _
theorem wellGroupRead : ∀ x0, Statement (.wellGroupRead x0) := fun _ => of_decoder _
theorem openFlitWrite : ∀ x0, Statement (.openFlitWrite x0) := fun _ => of_decoder _
theorem mv : ∀ x0 x1, Statement (.mv x0 x1) := fun _ _ => of_decoder _
theorem attn : ∀ x0 x1, Statement (.attn x0 x1) := fun _ _ => of_decoder _
theorem reduce : ∀ x0 x1, Statement (.reduce x0 x1) := fun _ _ => of_decoder _
theorem nbCommandEnd : ∀ x0 x1, Statement (.nbCommandEnd x0 x1) := fun _ _ => of_decoder _
theorem heldBankAccess : ∀ x0 x1, Statement (.heldBankAccess x0 x1) := fun _ _ => of_decoder _
theorem bankRefresh : ∀ x0 x1 x2 x3, Statement (.bankRefresh x0 x1 x2 x3) := fun _ _ _ _ => of_decoder _
theorem patrolScrub : ∀ x0 x1 x2 x3, Statement (.patrolScrub x0 x1 x2 x3) := fun _ _ _ _ => of_decoder _
theorem scrubIntervalEnd : ∀ x0, Statement (.scrubIntervalEnd x0) := fun _ => of_decoder _
theorem strokeBoundary : ∀ x0, Statement (.strokeBoundary x0) := fun _ => of_decoder _
theorem programStrokeZero : Statement .programStrokeZero := of_decoder _
theorem rendezvousEvaluation : Statement .rendezvousEvaluation := of_decoder _
theorem rendezvousRelease : ∀ x0, Statement (.rendezvousRelease x0) := fun _ => of_decoder _
theorem rendezvousTimeout : ∀ x0, Statement (.rendezvousTimeout x0) := fun _ => of_decoder _
theorem stepDeadline : Statement .stepDeadline := of_decoder _
theorem splitSelection : ∀ x0, Statement (.splitSelection x0) := fun _ => of_decoder _
theorem shiftRepairResume : ∀ x0 x1 x2, Statement (.shiftRepairResume x0 x1 x2) := fun _ _ _ => of_decoder _
theorem programComplete : Statement .programComplete := of_decoder _
theorem hostRead : ∀ x0 x1 x2 x3 x4, Statement (.hostRead x0 x1 x2 x3 x4) := fun _ _ _ _ _ => of_decoder _
theorem hostWrite : ∀ x0 x1 x2 x3 x4 x5, Statement (.hostWrite x0 x1 x2 x3 x4 x5) := fun _ _ _ _ _ _ => of_decoder _
theorem hostWriteStamped : ∀ x0 x1 x2 x3 x4 x5, Statement (.hostWriteStamped x0 x1 x2 x3 x4 x5) := fun _ _ _ _ _ _ => of_decoder _
theorem hostCompletionReceived : ∀ x0 x1 x2 x3, Statement (.hostCompletionReceived x0 x1 x2 x3) := fun _ _ _ _ => of_decoder _
theorem hostRequestTimeout : ∀ x0 x1 x2 x3, Statement (.hostRequestTimeout x0 x1 x2 x3) := fun _ _ _ _ => of_decoder _
theorem copyHostToModule : ∀ x0 x1 x2 x3, Statement (.copyHostToModule x0 x1 x2 x3) := fun _ _ _ _ => of_decoder _
theorem copyModuleToHost : ∀ x0 x1 x2 x3, Statement (.copyModuleToHost x0 x1 x2 x3) := fun _ _ _ _ => of_decoder _
theorem copyRequestEnd : ∀ x0 x1, Statement (.copyRequestEnd x0 x1) := fun _ _ => of_decoder _
theorem dataFlitReceive : ∀ x0 x1 x2 x3, Statement (.dataFlitReceive x0 x1 x2 x3) := fun _ _ _ _ => of_decoder _
theorem fillFlitReceive : ∀ x0 x1 x2 x3, Statement (.fillFlitReceive x0 x1 x2 x3) := fun _ _ _ _ => of_decoder _
theorem nakReceive : ∀ x0 x1 x2 x3, Statement (.nakReceive x0 x1 x2 x3) := fun _ _ _ _ => of_decoder _
theorem ackReceive : ∀ x0 x1 x2 x3, Statement (.ackReceive x0 x1 x2 x3) := fun _ _ _ _ => of_decoder _
theorem ackSendTimer : ∀ x0 x1 x2, Statement (.ackSendTimer x0 x1 x2) := fun _ _ _ => of_decoder _
theorem replayTimeout : ∀ x0 x1 x2, Statement (.replayTimeout x0 x1 x2) := fun _ _ _ => of_decoder _
theorem portRetrain : ∀ x0 x1 x2, Statement (.portRetrain x0 x1 x2) := fun _ _ _ => of_decoder _
theorem trainingAttemptEnd : ∀ x0 x1 x2 x3, Statement (.trainingAttemptEnd x0 x1 x2 x3) := fun _ _ _ _ => of_decoder _
theorem linkId : ∀ x0 x1 x2 x3, Statement (.linkId x0 x1 x2 x3) := fun _ _ _ _ => of_decoder _
theorem portPartnerTimeout : ∀ x0 x1, Statement (.portPartnerTimeout x0 x1) := fun _ _ => of_decoder _
theorem auxFlitTake : ∀ x0, Statement (.auxFlitTake x0) := fun _ => of_decoder _
theorem ready : ∀ x0 x1, Statement (.ready x0 x1) := fun _ _ => of_decoder _
theorem zeroRankTestEnd : ∀ x0 x1 x2, Statement (.zeroRankTestEnd x0 x1 x2) := fun _ _ _ => of_decoder _
theorem chunk : ∀ x0 x1 x2 x3, Statement (.chunk x0 x1 x2 x3) := fun _ _ _ _ => of_decoder _
theorem trailer : ∀ x0 x1 x2 x3, Statement (.trailer x0 x1 x2 x3) := fun _ _ _ _ => of_decoder _
theorem epilogue : ∀ x0 x1 x2 x3, Statement (.epilogue x0 x1 x2 x3) := fun _ _ _ _ => of_decoder _
theorem crewSeal : ∀ x0 x1 x2 x3, Statement (.crewSeal x0 x1 x2 x3) := fun _ _ _ _ => of_decoder _
theorem preamble : ∀ x0 x1 x2 x3, Statement (.preamble x0 x1 x2 x3) := fun _ _ _ _ => of_decoder _
theorem credit : ∀ x0 x1 x2, Statement (.credit x0 x1 x2) := fun _ _ _ => of_decoder _
theorem crewWaitDeadline : ∀ x0 x1 x2 x3, Statement (.crewWaitDeadline x0 x1 x2 x3) := fun _ _ _ _ => of_decoder _
theorem layerComplete : ∀ x0 x1 x2, Statement (.layerComplete x0 x1 x2) := fun _ _ _ => of_decoder _
theorem draw : ∀ x0 x1, Statement (.draw x0 x1) := fun _ _ => of_decoder _
theorem put : ∀ x0 x1, Statement (.put x0 x1) := fun _ _ => of_decoder _
theorem commit : ∀ x0 x1, Statement (.commit x0 x1) := fun _ _ => of_decoder _
theorem spill : ∀ x0 x1, Statement (.spill x0 x1) := fun _ _ => of_decoder _
theorem fetch : ∀ x0 x1, Statement (.fetch x0 x1) := fun _ _ => of_decoder _
theorem snap : ∀ x0 x1, Statement (.snap x0 x1) := fun _ _ => of_decoder _
theorem reply : ∀ x0 x1 x2 x3 x4, Statement (.reply x0 x1 x2 x3 x4) := fun _ _ _ _ _ => of_decoder _
theorem streamerRequestTimeout : ∀ x0 x1, Statement (.streamerRequestTimeout x0 x1) := fun _ _ => of_decoder _
theorem pageManagerTurn : ∀ x0 x1, Statement (.pageManagerTurn x0 x1) := fun _ _ => of_decoder _
theorem roundStart : ∀ x0, Statement (.roundStart x0) := fun _ => of_decoder _
theorem callEnd : ∀ x0, Statement (.callEnd x0) := fun _ => of_decoder _
theorem prefetchArrival : ∀ x0 x1, Statement (.prefetchArrival x0 x1) := fun _ _ => of_decoder _
theorem maskExpand : ∀ x0, Statement (.maskExpand x0) := fun _ => of_decoder _
theorem snapshotCopyEnd : ∀ x0 x1, Statement (.snapshotCopyEnd x0 x1) := fun _ _ => of_decoder _
theorem dictRead : ∀ x0 x1 x2 x3, Statement (.dictRead x0 x1 x2 x3) := fun _ _ _ _ => of_decoder _
theorem dictWrite : ∀ x0 x1 x2 x3 x4, Statement (.dictWrite x0 x1 x2 x3 x4) := fun _ _ _ _ _ => of_decoder _
theorem dictReadAll : ∀ x0 x1 x2, Statement (.dictReadAll x0 x1 x2) := fun _ _ _ => of_decoder _
theorem segRead : ∀ x0 x1 x2 x3 x4 x5, Statement (.segRead x0 x1 x2 x3 x4 x5) := fun _ _ _ _ _ _ => of_decoder _
theorem segWrite : ∀ x0 x1 x2 x3 x4 x5 x6, Statement (.segWrite x0 x1 x2 x3 x4 x5 x6) := fun _ _ _ _ _ _ _ => of_decoder _
theorem segAbort : ∀ x0 x1 x2 x3, Statement (.segAbort x0 x1 x2 x3) := fun _ _ _ _ => of_decoder _
theorem segmentGapTimeout : ∀ x0 x1 x2 x3, Statement (.segmentGapTimeout x0 x1 x2 x3) := fun _ _ _ _ => of_decoder _
theorem neighbourDiscovery : ∀ x0 x1, Statement (.neighbourDiscovery x0 x1) := fun _ _ => of_decoder _
theorem icmpv6Echo : ∀ x0 x1 x2, Statement (.icmpv6Echo x0 x1 x2) := fun _ _ _ => of_decoder _
theorem loadTrigger : ∀ x0 x1 x2, Statement (.loadTrigger x0 x1 x2) := fun _ _ _ => of_decoder _
theorem loadEnd : ∀ x0, Statement (.loadEnd x0) := fun _ => of_decoder _
theorem programStart : ∀ x0 x1 x2, Statement (.programStart x0 x1 x2) := fun _ _ _ => of_decoder _
theorem startCheckEnd : ∀ x0, Statement (.startCheckEnd x0) := fun _ => of_decoder _
theorem abort : ∀ x0 x1, Statement (.abort x0 x1) := fun _ _ => of_decoder _
theorem clear : ∀ x0 x1, Statement (.clear x0 x1) := fun _ _ => of_decoder _
theorem unload : ∀ x0 x1, Statement (.unload x0 x1) := fun _ _ => of_decoder _
theorem reset : ∀ x0 x1 x2, Statement (.reset x0 x1 x2) := fun _ _ _ => of_decoder _
theorem eventFlagsClear : ∀ x0 x1 x2 x3, Statement (.eventFlagsClear x0 x1 x2 x3) := fun _ _ _ _ => of_decoder _
theorem runStage : ∀ x0 x1 x2, Statement (.runStage x0 x1 x2) := fun _ _ _ => of_decoder _
theorem copyChoice : ∀ x0 x1 x2, Statement (.copyChoice x0 x1 x2) := fun _ _ _ => of_decoder _
theorem prefixKey : ∀ x0 x1 x2, Statement (.prefixKey x0 x1 x2) := fun _ _ _ => of_decoder _
theorem prefetchSeq : ∀ x0 x1 x2, Statement (.prefetchSeq x0 x1 x2) := fun _ _ _ => of_decoder _
theorem snapArm : ∀ x0 x1 x2, Statement (.snapArm x0 x1 x2) := fun _ _ _ => of_decoder _
theorem snapRelease : ∀ x0 x1 x2, Statement (.snapRelease x0 x1 x2) := fun _ _ _ => of_decoder _
theorem fiClear : ∀ x0 x1 x2, Statement (.fiClear x0 x1 x2) := fun _ _ _ => of_decoder _
theorem lcRequest : ∀ x0 x1 x2, Statement (.lcRequest x0 x1 x2) := fun _ _ _ => of_decoder _
theorem authData : ∀ x0 x1 x2, Statement (.authData x0 x1 x2) := fun _ _ _ => of_decoder _
theorem installStart : ∀ x0 x1 x2, Statement (.installStart x0 x1 x2) := fun _ _ _ => of_decoder _
theorem installEnd : ∀ x0, Statement (.installEnd x0) := fun _ => of_decoder _
theorem attRequest : ∀ x0 x1 x2, Statement (.attRequest x0 x1 x2) := fun _ _ _ => of_decoder _
theorem attReportReady : ∀ x0 x1 x2, Statement (.attReportReady x0 x1 x2) := fun _ _ _ => of_decoder _
theorem tokenData : ∀ x0 x1 x2, Statement (.tokenData x0 x1 x2) := fun _ _ _ => of_decoder _
theorem tokenClear : ∀ x0 x1 x2, Statement (.tokenClear x0 x1 x2) := fun _ _ _ => of_decoder _
theorem tokenLapse : ∀ x0, Statement (.tokenLapse x0) := fun _ => of_decoder _
theorem enableHigh : ∀ x0, Statement (.enableHigh x0) := fun _ => of_decoder _
theorem enableLow : ∀ x0, Statement (.enableLow x0) := fun _ => of_decoder _
theorem inputGoodLoss : ∀ x0, Statement (.inputGoodLoss x0) := fun _ => of_decoder _
theorem refclkLoss : ∀ x0, Statement (.refclkLoss x0) := fun _ => of_decoder _
theorem flowOkLow : ∀ x0, Statement (.flowOkLow x0) := fun _ => of_decoder _
theorem safeStopRecoveryStart : ∀ x0, Statement (.safeStopRecoveryStart x0) := fun _ => of_decoder _
theorem safeStopRecoveryEnd : ∀ x0 x1, Statement (.safeStopRecoveryEnd x0 x1) := fun _ _ => of_decoder _
theorem safeStopHoldExpiry : ∀ x0, Statement (.safeStopHoldExpiry x0) := fun _ => of_decoder _
theorem sensorSample : ∀ x0 x1 x2, Statement (.sensorSample x0 x1 x2) := fun _ _ _ => of_decoder _
theorem lowFlowHalt : ∀ x0, Statement (.lowFlowHalt x0) := fun _ => of_decoder _
theorem thermalModelUpdate : ∀ x0, Statement (.thermalModelUpdate x0) := fun _ => of_decoder _
theorem budgetSolve : ∀ x0, Statement (.budgetSolve x0) := fun _ => of_decoder _
theorem powerControlTick : ∀ x0 x1, Statement (.powerControlTick x0 x1) := fun _ _ => of_decoder _
theorem phaseFailure : ∀ x0 x1 x2, Statement (.phaseFailure x0 x1 x2) := fun _ _ _ => of_decoder _
theorem regionRetire : ∀ x0 x1, Statement (.regionRetire x0 x1) := fun _ _ => of_decoder _
theorem regionShort : ∀ x0 x1 x2, Statement (.regionShort x0 x1 x2) := fun _ _ _ => of_decoder _
theorem brickLoss : ∀ x0 x1, Statement (.brickLoss x0 x1) := fun _ _ => of_decoder _
theorem leadCoxWatchdog : ∀ x0, Statement (.leadCoxWatchdog x0) := fun _ => of_decoder _
theorem coxWatchdog : ∀ x0 x1, Statement (.coxWatchdog x0 x1) := fun _ _ => of_decoder _
theorem bringupStageEnd : ∀ x0 x1, Statement (.bringupStageEnd x0 x1) := fun _ _ => of_decoder _
theorem floorPlanPublish : ∀ x0, Statement (.floorPlanPublish x0) := fun _ => of_decoder _
theorem configWrite : ∀ x0 x1, Statement (.configWrite x0 x1) := fun _ _ => of_decoder _
theorem linkCheckingFail : ∀ x0 x1 x2 x3, Statement (.linkCheckingFail x0 x1 x2 x3) := fun _ _ _ _ => of_decoder _
theorem trainFlitReceive : ∀ x0 x1, Statement (.trainFlitReceive x0 x1) := fun _ _ => of_decoder _
theorem dictFrameInvalid : ∀ x0 x1 x2 x3 x4 x5, Statement (.dictFrameInvalid x0 x1 x2 x3 x4 x5) := fun _ _ _ _ _ _ => of_decoder _
theorem udpDatagramDrop : ∀ x0 x1, Statement (.udpDatagramDrop x0 x1) := fun _ _ => of_decoder _
theorem testPortInstruction : ∀ x0 x1, Statement (.testPortInstruction x0 x1) := fun _ _ => of_decoder _
theorem inputGoodReturn : ∀ x0, Statement (.inputGoodReturn x0) := fun _ => of_decoder _

end Sys2Proof.Laws.NoWord
end

