-- ==== Sys2Proof/Tests/Slice0.lean ====
section
/-! SUPPORT. Tests: terms that are not well formed, a state and operands that meet the hypotheses of each statement, and
results written out from the spec's own tables and examples. -/

namespace Sys2Proof.Tests

open Sys2Proof.Machine Sys2Proof.Safety

-- one theorem after the other: each waits for the kernel, and all at once would hold a thread each
set_option Elab.async false

/-! ### States and words of the tests -/

def c0 : CoreId := ⟨0, 0, 0, .c2⟩
def r0 : ColId := ⟨0, 0, 0⟩
def w0 : RegionId := ⟨0, 0⟩

/-- A module that runs a program, in its first stroke. -/
def running : State :=
  { State.reset with
    clk := { State.reset.clk with d01 := true }, st := .running
    umpire := { Umpire.idle with begun := true, zeroAc := 16384, nextB := 17408 } }

/-- Word w stands first in the store of core c0 and of router r0. -/
def next (w : OpWord) : State := { running with opStores := [(0, [w])], routeStores := [(0, [w])] }

/-- The same, with core c0 as given. -/
def nextOf (w : OpWord) (k : CoreState) : State := { next w with cores := [(0, k)] }

/-- A word of Table 3.2: UNIT, OPCODE, and operand bits at their places. -/
def op (unit code operands : Nat) : OpWord := BitVec.ofNat 128 (2 ^ 14 * unit + 2 ^ 17 * code + operands)

/-- A core whose innermost loops are as given, with idx words issued. -/
def looping (idx : Nat) (fs : List LoopFrame) : CoreState :=
  { CoreState.start with iss := { Issue.start with idx := idx, frames := fs } }

def frame (first stop count iter : Nat) (leaving : Bool) : LoopFrame :=
  { first := first, stop := stop, count := count, iter := iter, base := 0, spanStrokes := 2, leaving := leaving }

def issuesB (s : State) (u : UnitId) (unit code : Nat) (w : OpWord) : Bool :=
  s.issuing && (s.issue u).live && decide ((s.store u)[(s.issue u).idx]? = some w) && decide (opUnit w = unit) &&
    decide (opCode w = code) && decide (s.storeState u < 2) && unitWordOk u w &&
    decide (startSigma (s.issue u) w / 1024 ≤ s.umpire.stroke) && decide ((s.issue u).reached ≤ startSigma (s.issue u) w) &&
    decide (tblGet 0 (s.issue u).unitBusy (busyKey u w) ≤ startSigma (s.issue u) w) &&
    ((s.atStart u (startSigma (s.issue u) w)).issue u).live

theorem issues_of_check {s : State} {u : UnitId} {unit code : Nat} {w : OpWord} (h : issuesB s u unit code w = true) :
    Issues s u unit code w := by
  simp only [issuesB, Bool.and_eq_true, decide_eq_true_eq] at h
  obtain ⟨⟨⟨⟨⟨⟨⟨⟨⟨⟨h1, h2⟩, h3⟩, h4⟩, h5⟩, h6⟩, h7⟩, h8⟩, h9⟩, h10⟩, h11⟩ := h
  exact ⟨h1, h2, h3, h4, h5, h6, h7, h8, h9, h10, h11⟩

/-- An op of c0 issues next, with the core as given. -/
abbrev coreIssues (k : CoreState) (unit code operands : Nat) : Prop :=
  issuesB (nextOf (op unit code operands) k) (.core c0) unit code (op unit code operands) = true

/-- Core c0, with the core as given, when the op starts. -/
def atOp (k : CoreState) (unit code operands : Nat) : State :=
  startState (nextOf (op unit code operands) k) (.core c0) (op unit code operands)

/-! ### Hypotheses of the statements that somewhere hold -/

theorem test_step_front : step { running with pending := [.callEnd 5] } = exec (.callEnd 5) running := by rfl

theorem test_control_issue : ∀ p ∈ [(0, 0), (5, 2 ^ 32 * 3), (3, 0), (1, 0), (4, 2 ^ 32 * 7)],
    ∀ u ∈ [UnitId.core c0, .router r0],
    Issues (next (op 0 p.1 p.2)) u 0 p.1 (op 0 p.1 p.2) ∧
      (startState (next (op 0 p.1 p.2)) u (op 0 p.1 p.2)).awaits u = false := by
  have h : ∀ p ∈ [(0, 0), (5, 2 ^ 32 * 3), (3, 0), (1, 0), (4, 2 ^ 32 * 7)], ∀ u ∈ [UnitId.core c0, .router r0],
    issuesB (next (op 0 p.1 p.2)) u 0 p.1 (op 0 p.1 p.2) = true ∧
      (startState (next (op 0 p.1 p.2)) u (op 0 p.1 p.2)).awaits u = false := by decide +kernel
  exact fun p hp u hu => ⟨issues_of_check (h p hp u hu).1, (h p hp u hu).2⟩

theorem test_stake_awaits : coreIssues { CoreState.start with wreads := [⟨0, 0, 1, 0, 0⟩] } 0 4 0 ∧
    (atOp { CoreState.start with wreads := [⟨0, 0, 1, 0, 0⟩] } 0 4 0).awaits (.core c0) = true ∧
    ({ Issue.start with halted := true }).halted = true ∧ ({ Issue.start with waiting := some 7 }).waiting ≠ none := by
  decide +kernel

/-- COUNT, BODY and SPAN of Table 3.13. -/
def loopOp (count body spanStrokes : Nat) : Nat := 2 ^ 32 * count + 2 ^ 56 * body + 2 ^ 76 * spanStrokes

/-- A loop with a body at the third level, an empty one that ends, one that never does, and a fifth level. -/
theorem test_loop_issue : ∀ p ∈ [(3, 3, 2), (0, 3, 0), (0, 0, 0), (4, 3, 2)],
    let k := looping 0 (List.replicate p.1 (frame 0 9 1 0 false))
    coreIssues k 0 2 (loopOp p.2.1 p.2.2 1) ∧ ((atOp k 0 2 (loopOp p.2.1 p.2.2 1)).core c0).iss.frames.length = p.1 ∧
    loopCount (op 0 2 (loopOp p.2.1 p.2.2 1)) = p.2.1 ∧ loopBody (op 0 2 (loopOp p.2.1 p.2.2 1)) = p.2.2 := by
  decide +kernel

/-- A NOP that is the last word of a loop's body: one iteration of two left, an endless loop, the last iteration, and a
loop that EXIT_IF has left. -/
theorem test_loop_end : ∀ f ∈ [frame 0 1 2 0 false, frame 0 1 0 5 false, frame 0 1 2 1 false, frame 0 1 2 0 true],
    issuesB (nextOf (op 0 0 0) (looping 0 [f, frame 0 3 2 0 false])) (.core c0) 0 0 (op 0 0 0) = true ∧ f.first < f.stop ∧
    (nextOf (op 0 0 0) (looping 0 [f])).variantRecs (unitUid (.core c0)) = [] ∧
    ((f.leaving = false ∧ (f.count = 0 ∨ f.iter + 1 < f.count)) ∨ (f.leaving = true ∨ (f.count ≠ 0 ∧ f.count ≤ f.iter + 1))) := by
  decide +kernel

/-- ASET of a3 and AADD of a0, with changes of a3 and a4 on their way. -/
theorem test_address_register_issue : ∀ p ∈ [(6, 2 ^ 32 * 3 + 2 ^ 36 * (2 ^ 23 - 1)), (7, 2 ^ 32 * 0 + 2 ^ 36 * 7)],
    let k := { CoreState.start with aPend := [(0, 3, 5), (0, 4, 6)] }
    let a := (atOp k 0 p.1 p.2).core c0
    coreIssues k 0 p.1 p.2 ∧ a.aPend = k.aPend ∧ (a.aPend.map Prod.fst).Pairwise (· ≤ ·) ∧
      ∀ q ∈ a.aPend, q.1 ≤ opStart (nextOf (op 0 p.1 p.2) k) (.core c0) (op 0 p.1 p.2) := by
  decide +kernel

/-- VD, VA, VB, VC and L of Table 3.9. -/
def vecOp (lanes : Nat) : Nat := 2 ^ 32 + 2 ^ 37 * 2 + 2 ^ 42 * 3 + 2 ^ 47 * 4 + 2 ^ 52 * lanes

/-- Every VEC op with L lanes issues on a core with nothing pending, for one lane pair and for all lanes. -/
theorem test_vec_issue : ∀ lanes ∈ [2, 256], ∀ code ∈ List.range' 1 0x16, coreIssues CoreState.start 4 code (vecOp lanes) ∧
    (((atOp CoreState.start 4 code (vecOp lanes)).core c0).landResults 0).pendingReg [2, 3, 4, 5, 6, 7] = none := by
  decide +kernel

/-- VUPD in each rule. -/
theorem test_vupd_issue : ∀ rule ∈ [0, 1, 2, 3], coreIssues CoreState.start 4 0x15 (vecOp 256 + 2 ^ 96 * rule) := by decide +kernel

def pendingCore (v : Nat) : CoreState :=
  { CoreState.start with vPend := [{ ready := 4, vals := [(laneKey v 0, 0)] }] }

theorem test_pending_register : ∀ code ∈ List.range' 1 0x14, coreIssues (pendingCore 2) 4 code (vecOp 256) ∧
    (((atOp (pendingCore 2) 4 code (vecOp 256)).core c0).landResults 0).pendingReg [2, 3, 4] = some 2 := by
  decide +kernel

/-- One op of each unit. -/
def unitOps : List (Nat × Nat × Nat) :=
  [(0, 1, 0), (1, 1, 0), (2, 1, 0), (3, 2, 2 ^ 59 * 3), (4, 1, vecOp 1), (5, 1, 0), (6, 1, 0)]

/-- What keeps a word from starting: an uncorrectable store word, a reserved bit, a start slot passed, a busy unit. -/
theorem test_op_fault_causes : ∀ p ∈ unitOps,
    let w := op p.1 p.2.1 (if p.2.1 = 2 then 0 else p.2.2)
    let at5 := { CoreState.start with iss := { Issue.start with reached := 5 } }
    let busy := { CoreState.start with iss := { Issue.start with unitBusy := [(p.1, 5)] } }
    let broken := { next w with ecc := [(storeEccKey (.core c0) 0, 2)] }
    (2 ≤ broken.storeState (.core c0) ∧ (startState broken (.core c0) w |>.core c0).iss.live = true) ∧
      unitWordOk (.core c0) (op p.1 p.2.1 (2 ^ 127)) = false ∧ unitWordOk (.core c0) w = true ∧ (next w).issuing = true ∧
      (nextOf w at5).store (.core c0) = [w] ∧ startSigma at5.iss w < at5.iss.reached ∧
      (startState (nextOf w at5) (.core c0) w |>.core c0).iss.live = true ∧ busy.iss.reached ≤ startSigma busy.iss w ∧
      (startState (nextOf w busy) (.core c0) w |>.core c0).iss.live = true ∧
      startSigma busy.iss w < tblGet 0 busy.iss.unitBusy (busyKey (.core c0) w) ∧ opUnit w = p.1 ∧ opCode w = p.2.1 := by
  decide +kernel

/-- A core with a job of ac 3 and one of ac 5. -/
def working : CoreState :=
  { CoreState.start with todo := [atEnd 3 0 (.store (2 ^ 52) 7), early 5 0 (.fault 0 1 0)] }

theorem test_frame_runs : (∃ t, exec (.nop (.core c0)) (next (op 0 0 0)) = .next t) ∧
    (∀ j ∈ working.todo, 3 ≤ j.at') ∧ working.todo = atEnd 3 0 (.store (2 ^ 52) 7) :: [early 5 0 (.fault 0 1 0)] ∧
    (working.todo.map Job.rank).Pairwise (· ≤ ·) := ⟨⟨_, rfl⟩, by decide, rfl, by decide⟩

/-- Accesses of core c0 in ac given by a function, at offset 0. -/
def wordAccs (n : Nat) (read : Bool) (acOf : Nat → Nat) : List SramAcc :=
  (List.range n).map fun j => { at' := acOf j, off := 32 * j, read := read }

def sramFreeB (a : State) (c : CoreId) (w : OpWord) (sg : Nat) (accs : List SramAcc) : Bool :=
  decide ((a.core c).effOffset w sg % 32 = 0) && accs.all (fun x => decide (x.off < sramBytes)) &&
    decide (accs.map SramAcc.key).Nodup && accs.all (fun x => decide (x.key ∉ (a.core c).bankUse))

theorem sramFree_of_check {a : State} {c : CoreId} {w : OpWord} {sg : Nat} {accs : List SramAcc}
    (h : sramFreeB a c w sg accs = true) : SramFree a c w sg accs := by
  simp only [sramFreeB, Bool.and_eq_true, decide_eq_true_eq, List.all_eq_true] at h
  obtain ⟨⟨⟨h1, h2⟩, h3⟩, h4⟩ := h
  exact ⟨h1, h2, h3, h4⟩

/-- The op issues on core k, and its accesses are free. -/
abbrev movesFreely (k : CoreState) (unit code operands : Nat) (accs : List SramAcc) : Prop :=
  coreIssues k unit code operands ∧ sramFreeB (atOp k unit code operands) c0 (op unit code operands) 0 accs = true

/-- A row of format fmt, valid from ac v on. -/
def row (fmt v : Nat) : FeedRow :=
  { id := 0, op := 0, k := 0, fmt := fmt, words := [0, 0, 0, 0, 0, 0, 0, 0], scales := [0, 0, 0, 0, 0, 0, 0, 0], validFrom := v }

/-- A core with the given rows in queue 0. -/
def fed (rows : List FeedRow) : CoreState := { CoreState.start with feed := [(0, rows)] }

/-- The op in flight from ac 0. -/
def flight (unit code operands : Nat) : Flight :=
  { id := 1, start := 0, op := 0, word := op unit code operands, off := 0, got := [], rows := [] }

/-- Core c0, as given, with an op in flight. -/
def inFlight (k : CoreState) (f : Flight) : State := { running with cores := [(0, { k with flights := [f] })] }

def fliesB (s : State) (f : Flight) : Bool := decide ((s.core c0).flight f.id = some f)

/-- FLOAD of one row of FP8 beside seven rows, and of one BS8 group; pushes to a queue of seven and of eight rows. -/
theorem test_fload_issue :
    movesFreely (fed (List.replicate 7 (row 0 0))) 2 1 0 (wordAccs 4 true (· / 4)) ∧
    movesFreely CoreState.start 2 1 (2 ^ 59 * 4 + 2 ^ 70 * 7) (wordAccs 33 true (· / 4)) ∧
    (∀ n ∈ [7, 8], fliesB (inFlight (fed (List.replicate n (row 0 0))) (flight 2 1 0)) (flight 2 1 0) = true) ∧
    running.eccOf 64 = 0 ∧ 2 ≤ ({ running with ecc := [(2, 2)] } : State).eccOf 64 := by
  decide +kernel

/-- RUN from core SRAM on a head that is valid just in time, of BS8 with its scale word, wide and narrow, and from the
router with an MRECV's ac before it. -/
theorem test_run_issue :
    (movesFreely (fed [row 0 3]) 1 1 0 (wordAccs 4 true fun _ => 0) ∧ runBsrc (op 1 1 0) = false ∧
      (∀ u < runU (op 1 1 0), ∀ r, ((fed [row 0 3]).queue u)[(fed [row 0 3]).pendingPops u]? = some r → r.fmt = 0)) ∧
    movesFreely (fed [row 4 0]) 1 1 (2 ^ 59 * 4 + 2 ^ 63 * 4) (wordAccs 4 true fun _ => 0) ∧
    coreIssues (fed [row 2 0]) 1 1 (2 ^ 63 * 2) ∧
    (coreIssues { fed [row 0 0] with arrived := [⟨9, ⟨true, .data, []⟩⟩] } 1 1 (2 ^ 92) ∧ runBsrc (op 1 1 (2 ^ 92)) = true) := by
  decide +kernel

/-- A RUN in flight: its heads when vector 0 enters, its rows then, and a delivery that it takes. -/
theorem test_run_flies :
    let f := flight 1 1 (2 ^ 92)
    let e : Expect := { at' := 4, op := 0, taker := .run 1 }
    let k := { fed [row 0 3] with expects := [e] }
    fliesB (inFlight k f) f = true ∧ (k.queue 0).head? = some (row 0 3) ∧ (row 0 3).fmt = runFmtF f.word ∧ (row 0 3).validFrom ≤ 3 ∧
    runU f.word = 1 ∧ ({ f with rows := [row 0 3] } : Flight).rows = (List.range 1).map (fun _ => row 0 3) ∧
    k.expects.find? (fun x => x.at' = e.at') = some e ∧ wreadFor k ⟨true, .data, []⟩ = none := by
  decide +kernel

/-- DRAIN of one slot to core SRAM and of 64 slots to 32 registers; a slot that is ready, and one that is not. -/
theorem test_drain_issue :
    movesFreely CoreState.start 3 1 (2 ^ 59 * 3) (wordAccs 16 false (· / 16 + 2)) ∧ drainN (op 3 1 (2 ^ 59 * 3)) = 1 ∧
    coreIssues CoreState.start 3 2 (2 ^ 71 * 63) ∧ drainN (op 3 2 (2 ^ 71 * 63)) = 64 ∧
    fliesB (inFlight CoreState.start (flight 3 1 (2 ^ 59 * 3))) (flight 3 1 (2 ^ 59 * 3)) = true ∧
    fliesB (inFlight CoreState.start (flight 3 2 0)) (flight 3 2 0) = true ∧ tblGet 0 CoreState.start.accReady 0 ≤ 0 ∧
    0 < tblGet 0 ({ CoreState.start with accReady := [(0, 1)] } : CoreState).accReady 0 := by
  decide +kernel

/-- A head of another format at the start of a RUN and when vector 0 enters, and no head or one that is valid an ac late. -/
theorem test_array_fault_causes :
    let f := flight 1 1 0
    (coreIssues (fed [row 1 0]) 1 1 0 ∧ (atOp (fed [row 1 0]) 1 1 0).core c0 = fed [row 1 0] ∧
      ((fed [row 1 0]).queue 0)[(fed [row 1 0]).pendingPops 0]? = some (row 1 0) ∧ (row 1 0).fmt ≠ runFmtF f.word) ∧
    fliesB (inFlight (fed [row 1 0]) f) f = true ∧ fliesB (inFlight (fed [row 0 4]) f) f = true ∧ 3 < (row 0 4).validFrom ∧
    fliesB (inFlight CoreState.start f) f = true ∧ (CoreState.start.queue 0).head? = none := by
  decide +kernel

/-- VLD and VST of FP32, VLDB and VSTB of BS8, and a stochastic VSTB on seeded generators. -/
theorem test_vmem_issue :
    movesFreely CoreState.start 6 1 (2 ^ 59 * 3) (wordAccs 32 true (· / 4)) ∧
    movesFreely CoreState.start 6 3 (2 ^ 59 * 4) (wordAccs 33 true (· / 4)) ∧
    movesFreely CoreState.start 6 2 (2 ^ 59 * 3) (wordAccs 32 false fun j => 4 + j / 4) ∧
    movesFreely CoreState.start 6 4 (2 ^ 59 * 4 + 2 ^ 63 * 28) (wordAccs 33 false fun j => 6 + j / 4) ∧
    (coreIssues CoreState.start 6 4 (2 ^ 59 * 4 + 2 ^ 68) ∧ ((atOp CoreState.start 6 4 (2 ^ 59 * 4 + 2 ^ 68)).core c0).seeded = false) ∧
    coreIssues { CoreState.start with seeded := true } 6 4 (2 ^ 59 * 4 + 2 ^ 68) ∧ vmemSr (op 6 4 (2 ^ 59 * 4 + 2 ^ 68)) = true ∧
    fliesB (inFlight CoreState.start (flight 6 1 (2 ^ 59 * 3))) (flight 6 1 (2 ^ 59 * 3)) = true ∧
    fliesB (inFlight CoreState.start (flight 6 3 (2 ^ 59 * 4))) (flight 6 3 (2 ^ 59 * 4)) = true := by
  decide +kernel

/-- The ops of the alignment rule at offset 1 and at offset 31. -/
theorem test_misaligned_issue : ∀ off ∈ [1, 31], ∀ p ∈ [(2, 1, 0), (3, 1, 2 ^ 59 * 3), (6, 1, 0), (6, 3, 2 ^ 59 * 4), (5, 3, 0), (5, 4, 0), (5, 5, 0)],
    coreIssues CoreState.start p.1 p.2.1 (p.2.2 + 2 ^ 36 * off) ∧
    ((atOp CoreState.start p.1 p.2.1 (p.2.2 + 2 ^ 36 * off)).core c0).effOffset (op p.1 p.2.1 (p.2.2 + 2 ^ 36 * off)) 0 % 32 ≠ 0 := by
  decide +kernel

/-- VREAD of eight words in ac that no refresh takes, of the last words of a bank, and VWRITE of one. -/
theorem test_vault_move_issue :
    let rd := 2 ^ 59 * 7 + 2 ^ 79 * 15 + 2 ^ 83 * 917496
    (movesFreely CoreState.start 5 1 rd (wordAccs 8 false fun j => 14 + j / 4) ∧
      moveXword (op 5 1 rd) + moveLen (op 5 1 rd) = 917504 ∧ (atOp CoreState.start 5 1 rd).vaultDead c0 = false ∧
      (atOp CoreState.start 5 1 rd).vaultConflict c0 15 [3] [13, 14] true = false ∧ (VaultState.idle).retired = false) ∧
    movesFreely CoreState.start 5 2 0 (wordAccs 1 true (· / 4)) ∧ (atOp CoreState.start 5 2 0).vaultDrain c0 = false ∧
    (atOp CoreState.start 5 2 0).vaultConflict c0 0 [5] [3] false = false := by
  decide +kernel

/-- MSEND of two flits, MRECV, and WREAD of the last word of a well; a flit in the way; a delivery to an MRECV. -/
theorem test_mesh_move_issue :
    movesFreely CoreState.start 5 3 (2 ^ 59 * 8) (wordAccs 9 true (· / 8)) ∧ (atOp CoreState.start 5 3 (2 ^ 59 * 8)).flits = [] ∧
    movesFreely CoreState.start 5 4 (2 ^ 59 * 8) (wordAccs 9 false (· / 8)) ∧ ((atOp CoreState.start 5 4 (2 ^ 59 * 8)).core c0).arrived = [] ∧
    coreIssues CoreState.start 5 5 (2 ^ 83 * 524287) ∧ moveXword (op 5 5 (2 ^ 83 * 524287)) + moveLen (op 5 5 (2 ^ 83 * 524287)) = 524288 ∧
    fliesB (inFlight CoreState.start (flight 5 3 (2 ^ 59 * 8))) (flight 5 3 (2 ^ 59 * 8)) = true ∧
    (let e : Expect := { at' := 4, op := 0, taker := .recv (2 ^ 52) 1 }
     ([e].find? fun x => x.at' = 4) = some e ∧ wreadFor { CoreState.start with expects := [e] } ⟨true, .data, []⟩ = none) ∧
    (let g : InFlight := { col := 0, port := portCode (layerPort .c2), at' := 5, flit := ⟨true, .data, []⟩ }
     let s := { running with flits := [g] }
     g ∈ s.flits ∧ g.col = (s.homeOf c0).col.num ∧ g.port = portCode (layerPort (s.homeOf c0).layer) ∧
       g.at' = 5 + s.portDelay (s.homeOf c0)) := by
  decide +kernel

/-- An empty flit and a valid one. -/
def emptyFlit : MeshFlit := { valid := false, kind := .data, words := [] }
def fullFlit : MeshFlit := { valid := true, kind := .data, words := List.replicate 8 7 }

def atL2 (f : MeshFlit) : InFlight := { col := 0, port := portCode .l2, at' := 5, flit := f }

/-- A flit at the L2 input of router r0, with the connections given. -/
def atInput (f : MeshFlit) (q : List Conn) : State :=
  { running with flits := [atL2 f], routers := [(0, { RouterState.start with conns := q })] }

def eastward : Conn := { idx := 0, inp := 4, out := 2, since := 5, last := 5, opened := false, vsink := false, shown := 0 }

/-- ROUTE of the L2 input; a flit with a connection, and with none any more; an output that is free, over a link that is
there and over one that is not, into a core, and as a command. -/
theorem test_router_causes :
    issuesB (next (op 1 1 (2 ^ 32 * 4 + 2 ^ 36))) (.router r0) 1 1 (op 1 1 (2 ^ 32 * 4 + 2 ^ 36)) = true ∧
    (∀ f ∈ [fullFlit, emptyFlit], ∀ q ∈ [[eastward], [{ eastward with last := 4 }]],
      let s := atInput f q
      let u := (s.advanceSigma 5).readyInput r0 .l2 5
      s.issuing = true ∧ s.flits = [atL2 f] ∧ 5 / 1024 ≤ s.umpire.stroke ∧
        u.flits.find? (fun y => y.col = r0.num ∧ y.port = portCode .l2 ∧ y.at' = 5) = some (atL2 f) ∧
        connAt (u.router r0) (portCode .l2) 5 = q.find? fun c => decide (5 ≤ c.last)) ∧
    (5 * 8 + portCode .e ∉ (running.router r0).outUse ∧ portLayer .e = none ∧ neighbour r0 .e = some (⟨0, 1, 0⟩, .w) ∧
      running.linkDead r0 .e = false ∧ neighbour r0 .n = none ∧ portLayer .l2 = some .c2) ∧
    5 * 8 + portCode .e ∈ (({ running with routers := [(0, { RouterState.start with outUse := [5 * 8 + portCode .e] })] } : State).router r0).outUse := by
  decide +kernel

def group0 : MergeGroup := { first := 0, xword := 0, len := 9, members := [(0, 0)] }
def read0 : WellRead := { at' := 8, xword := 0, len := 9, flit := 1, id := groupId group0, cores := [0] }

/-- A descriptor in the last ac of a group's window, one an ac later, a group that is due in banks that are free, and a read of
a good and of an uncorrectable word. -/
theorem test_well_causes :
    let s := fun a => { running with wells := [(0, { WellState.idle with inbox := [(a, 0, 9, 1)], groups := [group0] })] }
    let times := (List.range (ceilDiv 9 8)).map fun f => (8 + f, 0 + 9 + f)
    (∀ a ∈ [7, 8], (s a).issuing = true ∧ (s a |>.well w0).inbox = [(a, 0, 9, 1)] ∧ a / 1024 ≤ (s a).umpire.stroke) ∧
    (group0.xword = 0 ∧ group0.len = 9 ∧ 7 ≤ group0.first + 7) ∧ ¬ (8 ≤ group0.first + 7) ∧
    (s 8 |>.well w0).groups = [group0] ∧ (s 8).wellUsable w0 = true ∧ (group0.first + 8) / 1024 ≤ (s 8).umpire.stroke ∧
    (s 8 |>.well w0).bankUse = [] ∧ (s 8 |>.well w0).replies = [] ∧ (times.map Prod.snd).Nodup ∧
    (∀ p ∈ times, heldReplies times (p.1 + 1) ≤ 16) ∧ (s 8).eccOf (wellBase w0 + 32 * 8) = 0 ∧
    2 ≤ ({ s 8 with ecc := [((wellBase w0 + 256) / 32, 2)] } : State).eccOf (wellBase w0 + 32 * 8) := by
  decide +kernel

/-- An open route from port 24 to vault c0, one open flit of which holds a credit. -/
def openHead (dest : Nat) : EccWord := openHeader dest 1 true 3
def openFlit (dest : Nat) : OpenFlit := { words := openHead dest :: List.replicate 7 0, route := 5, port := 0, at' := 9 }

/-- An open flit of one word to the first word of vault c0, LAST, filling mailbox 3, and one to another vault; port engines of
either kind; a route whose every credit is held. -/
theorem test_flit_taken_causes :
    let s := { running with sinks := [(sinkKey (.vault c0), [openFlit (bankBase c0 0)])] }
    tblGet [] s.sinks (sinkKey (.vault c0)) = [openFlit (bankBase c0 0)] ∧ (openFlit 0).words.length = 8 ∧
    inSink (.vault c0) (openHead (bankBase c0 0)) = true ∧ s.sinkLive (.vault c0) = true ∧
    openLast (openHead (bankBase c0 0)) = true ∧ openMb (openHead (bankBase c0 0)) = 3 ∧
    inSink (.vault { c0 with x := 1 }) (openHead (bankBase c0 0)) = false ∧ s.crews = [] ∧
    portOfRouter ⟨0, 0, 9⟩ = some 0 ∧ portOfRouter ⟨1, 7, 0⟩ = some 24 ∧ readyHeader (BitVec.ofNat 256 (7 + 256)) = true ∧
    readyHeader 0 = false := by
  decide +kernel

/-- OP, W, Y, ROWS, K and BMASK of Table 5.7. -/
def nbWord (operation w y rows k mask : Nat) : EccWord :=
  BitVec.ofNat 256 (operation + 2 ^ 16 * w + 2 ^ 56 * y + 2 ^ 76 * rows + 2 ^ 92 * k + 2 ^ 100 * mask)

/-- A near-bank command that waits at bank 0 of vault c0. -/
def nbState (w : EccWord) : State := { running with nb := [(0, { queued := [(0, w)], running := none })] }

/-- MV of one row of 32, REDUCE of two banks, and ATTN of a slot word that names no page. -/
def nbWords : List EccWord := [nbWord 1 10 20 0 0 0, nbWord 3 10 20 0 0 3, nbWord 2 10 20 0 0 0]

/-- Each at its start boundary in idle banks, its words inside the bank, and its slot word good. -/
theorem test_near_bank_causes : (nbWords.all fun w =>
    let s := nbState w
    let b := (s.advanceSigma 0).catchUp c0 0
    s.issuing && decide ((s.nbUnit c0 0).queued = [(0, w)]) && nbWordOk w && decide (0 / 1024 ≤ s.umpire.stroke) &&
    ([0, 1].all fun x => decide ((b.nbUnit c0 x).running = none)) && !b.nbMeets c0 [0, 1] 0 (64 * nbDuration w) &&
    decide (nbW w + 8 * nbRows w ≤ 917504) && decide (nbY w + 8 * nbRows w ≤ 917504) && decide (nbX w + 2 ≤ 917504) &&
    decide (b.eccOf (bankBase c0 0 + 320) = 0)) = true := by
  decide +kernel

/-- A slot word at word 10 that names the resident page at word 100, of generation 1, in 32 dimensions. -/
def pageSlot : EccWord := BitVec.ofNat 256 (100 + 2 ^ 20 + 2 ^ 32)
def pageHead : EccWord := BitVec.ofNat 256 (2 ^ 16 + 2 ^ 192)

def pageAt : Nat := 2 ^ 36

def withPage : State := { running with mem := [(pageAt + 320, 100), (pageAt + 322, 16), (pageAt + 324, 1), (pageAt + 3202, 1),
  (pageAt + 3224, 1)] }

theorem test_near_bank_page :
    bankBase c0 0 = pageAt ∧ withPage.word (pageAt + 320) = pageSlot ∧ withPage.word (pageAt + 3200) = pageHead ∧
    bit pageSlot 20 = true ∧ bit (withPage.word (pageAt + 640)) 20 = false ∧ withPage.eccOf (pageAt + 3200) = 0 ∧
    pageOk pageSlot pageHead (fld pageHead 192 32) 32 = true ∧ fld pageSlot 192 64 = 0 ∧ fld pageSlot 21 3 = 0 ∧
    fld pageSlot 26 6 = 0 ∧ fld pageSlot 112 16 = 0 ∧ fld pageSlot 0 20 + 10 + 2 * pageRegion 0 32 ≤ 917504 := by
  decide +kernel

def nbRun (w : EccWord) : NbRun := { start := 0, final := 64, stop := 128, word := w, got := [(0, pageSlot)], results := [] }

/-- A command of each kind that runs, with a word of each check state to read; one whose results are formed, at its end. -/
theorem test_near_bank_runs :
    (nbWords.all fun w => decide ((({ running with nb := [(0, { queued := [], running := some (nbRun w) })] } : State).nbUnit c0 0).running =
      some (nbRun w))) = true ∧ bit (tblGet 0 (nbRun 0).got 0) 20 = true ∧ running.eccOf pageAt = 0 ∧
    2 ≤ ({ running with ecc := [(pageAt / 32, 2)] } : State).eccOf pageAt ∧
    (let r := { nbRun (nbWord 1 10 20 0 0 0) with results := [(bankBase c0 0, 7)] }
     let s := { running with nb := [(0, { queued := [], running := some r })]
                             cores := [(0, { CoreState.start with todo := [atEnd 127 (nbId 0) (.nbEnd 0)] })] }
     (s.nbUnit c0 0).running = some r ∧ r.stop ≤ s.umpire.stroke * 1024 + 1024 ∧ r.stop = 127 + 1 ∧
       (s.core c0).todo = [atEnd 127 (nbId 0) (.nbEnd 0)] ∧
       r.results = ([7] : List EccWord).zipIdx.map fun p => (bankBase c0 0 + 32 * p.2, p.1)) := by
  decide +kernel

/-- A scrub of a good word in a pass that goes on, and the ends of an interval an instant early and on time. -/
theorem test_upkeep_causes :
    let s := { running with scrub := { running.scrub with passStart := 5, hours := 1 } }
    let stop := 5 + 3600000 * msUnits
    s.st ≠ .off ∧ placeOf (bankBase c0 0) = some (.vault c0 0 0) ∧ s.placeDead (.vault c0 0 0) = false ∧ bankBase c0 0 % 32 = 0 ∧
      s.scrubSeen [bankBase c0 0 / 32] < s.scrubWords ∧ (s.advance stop).clk.now ≥ 5 + s.scrub.hours * 3600000 * msUnits ∧
      s.scrub.late = false ∧ (s.advance (stop - 1)).clk.now < 5 + s.scrub.hours * 3600000 * msUnits := by
  decide +kernel

/-- An image with a program for core c0, the step rendezvous 1, and rendezvous 7 on the HOST mailbox 3. -/
def image0 : Image :=
  { digest := 0, floorGen := 0, floorDigest := 0, reserve := true, stepRdv := 1, deadlineMs := 10000, programs := [(c0.uid, 1)]
    rdvs := [{ id := 1, refs := [], release := false, timeoutMs := 1000, units := [c0.uid], shed := 0 },
             { id := 7, refs := [(3, 2)], release := true, timeoutMs := 1, units := [c0.uid], shed := 2 }]
    mbs := [{ id := 3, kind := 1, watch := pageAt, tag := 0 }], ledger := { windows := 0, repeatAt := 0, bytes := [] }
    pairs := [], openRoutes := [], split := none, deadCores := [] }

def rdv7 : RdvEntry := { id := 7, refs := [(3, 2)], release := true, timeoutMs := 1, units := [c0.uid], shed := 2 }
def due7 : Due := { rdv := 7, word := 2, at' := 0, shed := false }

/-- It runs, with arrivals, due releases, timers and mailbox fills as given. -/
def withImage (arrivals : List (Nat × Nat × Nat)) (due : List Due) (timers : Tbl Time) (fills : BitVec 64) : State :=
  { next 0 with
    image := some image0
    umpire := { running.umpire with arrivals := arrivals, due := due, timers := timers, mailboxes := [(3, fills)] } }

/-- The state in which the work of a stroke is done. -/
def strokeDone (s : State) : State := ((s.advanceAc s.umpire.nextB).wellsTo 1024).catchUpAll 1024

theorem test_boundary_passes : running.clk.d01 = true ∧ running.issuing = true ∧ (strokeDone running).halting = [] ∧
    running.vaults = [] ∧ State.reset.clk.d01 = false ∧
    (let s := { State.reset with clk := { State.reset.clk with d01 := true }, st := .ready }
     s.st ≠ .running ∧ s.umpire.begun = false ∧ s.vaults = []) := by decide +kernel

theorem test_boundary_halts : (strokeDone { withImage [] [due7] [] 0 with halting := [7] }).halting = [7] ∧
    (strokeDone { withImage [] [due7] [] 0 with halting := [7] }).allHalted = false ∧ (withImage [] [due7] [] 0).issuing = true ∧
    (withImage [] [due7] [] 0).clk.d01 = true ∧ due7.rdv ≠ image0.stepRdv ∧ running.supply.retireBy = [] := by decide +kernel

/-- A program about to begin; one whose core has halted, with its ops complete, and with one still at work. -/
theorem test_begin_and_complete :
    let starts : State := { State.reset with st := .running, umpire := { Umpire.idle with startPending := true } }
    let ends := fun n => nextOf 0 { CoreState.start with iss := { Issue.start with halted := true, doneAt := n } }
    (starts.st = .running ∧ starts.umpire.startPending = true ∧ starts.crews = [] ∧ tblRising none starts.cores = true) ∧
    (∀ n ∈ [5, 2000], (ends n).st = .running ∧ (ends n).umpire.begun = true ∧ (ends n).umpire.repair = none ∧ (ends n).halting = [] ∧
      (ends n).supply.retireBy = [] ∧ (ends n).atBoundary.halting = [] ∧ ¬ (ends n).lastDone < 0 ∧
      (ends n).allComplete 1024 = decide (n ≤ 1024)) := by
  decide +kernel

/-- Rendezvous 7: satisfied with an arrival in ac 991 and two fills, unsatisfied with one fill. -/
theorem test_evaluation_causes :
    (withImage [] [] [] 0).evaluating = true ∧ (withImage [] [] [] 0).umpire.evaluated = false ∧
    rdv7 ∈ (withImage [] [] [] 0).rdvs ∧ ((withImage [] [] [] 0).rdvs.map RdvEntry.id).Nodup ∧ (withImage [] [] [] 0).umpire.due = [] ∧
    (withImage [(7, c0.uid, 991)] [] [] 2).satisfied rdv7 = true ∧ (withImage [(7, c0.uid, 992)] [] [] 2).satisfied rdv7 = false ∧
    (withImage [(7, c0.uid, 991)] [] [] 1).satisfied rdv7 = false ∧ (withImage [(7, c0.uid, 991)] [] [] 1).arrivedAll rdv7 = true ∧
    tblFind (withImage [] [] [] 0).umpire.timers rdv7.id = none := by decide +kernel

theorem test_release_causes :
    (withImage [(7, c0.uid, 5)] [due7] [] 2).evaluating = true ∧ (withImage [] [due7] [] 2).rdv 7 = some rdv7 ∧
    (withImage [] [due7] [] 2).umpire.due = [] ++ due7 :: [] ∧ due7.at' ≤ 0 ∧ image0.stepRdv ≠ 7 ∧
    (withImage [] [due7] [] 2).isDispatch 7 = false ∧ (rdv7.refs.map Prod.fst).Nodup ∧ rdv7.units.Nodup ∧
    (∀ u ∈ rdv7.units, u < 65536) ∧ (withImage [] [due7] [] 2).umpire.holding = false := by decide +kernel

/-- The evaluation at which the timer of rendezvous 7 has run out, and one an instant before; rendezvous 1 does not release on
its timeout. -/
theorem test_timeout_causes : ∀ n ∈ [msUnits, msUnits - 1],
    let s := withImage [] [] [(1, 0), (7, 0)] 0
    let u := { s with umpire := { s.umpire with evaluated := true, evalAt := n } }
    u.evaluating = true ∧ u.image = some image0 ∧ u.rdv 7 = some rdv7 ∧ tblFind u.umpire.timers 7 = some 0 ∧
      (0 + rdv7.timeoutMs * msUnits ≤ u.umpire.evalAt ↔ n = msUnits) ∧
      rdv7.release = true ∧ (u.rdv 1).map RdvEntry.release = some false ∧ tblFind u.umpire.timers 1 = some 0 := by decide +kernel

def split0 : Split := { rdv := 7, entries := [{ layerId := 0, window := 4, nvar := 2, sel := [], share := [] }], recs := [] }

/-- A dispatch whose mailbox names batch size 9, with fills as given. -/
def dispatching (fills : BitVec 64) : State :=
  { withImage [] [] [] fills with image := some { image0 with split := some split0 }, mem := [(pageAt + 16, 9)] }

def mb3 : MbEntry := { id := 3, kind := 1, watch := pageAt, tag := 0 }

theorem test_split_causes : (dispatching 1).split = some split0 ∧ (dispatching 1).dispatchBox = some (mb3, 2) ∧
    (dispatching 1).st = .running ∧ ¬ ((dispatching 1).umpire.selNext.length + 1) * 2 ≤ ((dispatching 1).mailbox 3).toNat ∧
    ((dispatching 2).umpire.selNext.length + 1) * 2 ≤ ((dispatching 2).mailbox 3).toNat ∧
    fld ((dispatching 2).coxWord mb3.watch).2 128 16 = 9 ∧ (dispatching 2).pages.pool = none ∧ (dispatching 2).pages.call = [] := by
  decide +kernel

/-- A core lost beside the reserve core of its segment. -/
theorem test_repair_causes :
    let s := { withImage [] [] [] 0 with umpire := { running.umpire with repair := some { lost := [(⟨0, 16, 0, .c2⟩, 8)], since := 0 } } }
    let b := (s.advance 5).catchUpAll (2 ^ 64)
    image0.segEnd ⟨0, 16, 0, .c2⟩ = 17 ∧ (movedBy ⟨0, 16, 0, .c2⟩ 17).length = 1 ∧ s.st = .running ∧ s.cores = [] ∧
      s.supply.retireBy = [] ∧ Memory.wf b.mem ∧
      (((b.moveWork (movedBy ⟨0, 16, 0, .c2⟩ 17)).recordRepair image0 [(⟨0, 16, 0, .c2⟩, 8)]).ledgerFails image0.ledger
        (movedBy ⟨0, 16, 0, .c2⟩ 17) s.clk.level) = none := by decide +kernel

/-- A module in READY, LOADED or another state, its bring-up over and the clock of its schedule running. -/
def inState (st : ModState) : State :=
  { State.reset with clk := { State.reset.clk with d01 := true }, st := st, boot := { BootState.start with ended := 10, running := false } }

/-- Storage words of each kind, one that cannot be read and one outside the windows, in READY, in a state that may not write
and in a FAULT without supplies. -/
theorem test_host_causes :
    let s := inState .ready
    let came := fun (ty : Nat) (d : List Byte) => (s.advance 5).received 30 (hostMsg ty 3 1 pageAt d)
    let v := (came 1 []).2
    let bad := { s with ecc := [((pageAt + 32) / 32, 2)] }
    let dark := { inState .fault with supply := { SupplyState.full with dark := true } }
    s.hostHears = true ∧ tblFind s.hostTags 3 = none ∧
      (came 1 []).1 = true ∧ (came 2 (List.replicate 64 7)).1 = true ∧ (came 3 (List.replicate 80 0)).1 = true ∧
      (∀ a ∈ wordAddrs pageAt 2, (v.settleNow (wordAddrs pageAt 2)).wordHeld a = false) ∧
      v.judgeHost false (wordAddrs pageAt 2) = 0 ∧ v.judgeHost true (wordAddrs (sramBase c0) 2) = 0 ∧
      (∀ a ∈ wordAddrs pageAt 2, (v.settleNow (wordAddrs pageAt 2)).eccOf a < 2) ∧ bad.eccOf (pageAt + 32) = 2 ∧
      stampedOk (List.replicate 80 0) = true ∧ dark.hostHears = true ∧ dark.judgeHost false (wordAddrs pageAt 1) = 0 ∧
      (inState .running).judgeHost true (wordAddrs (sramBase c0) 1) = 0x0401 ∧ v.judgeHost false (wordAddrs (2 ^ 55) 1) = 0x0612 ∧
      pageAt % 32 = 0 ∧ (pageAt + 1) % 32 ≠ 0 ∧ (2 ^ 60) / 2 ^ 56 ≠ 0 ∧ (2 ^ 60) / 2 ^ 56 ≠ 0x80 := by
  decide +kernel

/-- A word of vault c0 held behind a near-bank command, for a write and for a read. -/
def heldAt (write : Bool) : HeldAcc :=
  { tag := 3, write := write, addrs := [pageAt], words := if write then [(7, none)] else [], arrived := 16384 }
def heldTag (write : Bool) : HostTag := { write := write, addrs := [pageAt], got := [], left := [pageAt], since := 0 }

def heldState (w : Bool) : State :=
  { running with vaults := [(0, { VaultState.idle with held := [(0, [heldAt w])] })], hostTags := [(3, heldTag w)] }

/-- The state when the held access is made, in near-bank stroke ac 60. -/
def heldMade (w : Bool) : State :=
  let s := heldState w
  let s1 := (s.advanceAc (16384 + 60)).setVault c0 { s.vault c0 with held := [] }
  let sg := 16384 + 60 - sigmaOrigin s.umpire
  (if w then s1.beforeWrite c0 (heldAt w).addrs sg else s1.beforeRead c0 sg).writeBack c0 0 sg (heldAt w).addrs

theorem test_held_causes : ∀ w ∈ [true, false],
    (heldState w).clk.d01 = true ∧ tblGet [] ((heldState w).vault c0).held 0 = [heldAt w] ∧
      tblFind (heldState w).hostTags 3 = some (heldTag w) ∧ (∀ a ∈ (heldTag w).left, a ∈ (heldAt w).addrs) ∧
      nextHeldSlot 16384 = 16384 + 60 ∧ (heldTag w).since + msUnits ≤ ((heldState w).advance msUnits).clk.now ∧
      (heldAt true).words.length = (heldAt w).addrs.length ∧ (heldAt w).addrs.Nodup ∧
      (∀ a ∈ (heldAt w).addrs, a % 32 = 0) ∧ (heldMade w).eccOf pageAt = 0 := by
  decide +kernel

/-- Copy channel 5 set up for two words at the vault of c0. -/
def copySetup : State :=
  { inState .ready with regs := [(regKey 0x7235 2, BitVec.ofNat 64 pageAt), (regKey 0x7235 3, 64)] }

def copyJob (toHost : Bool) (done asked status : Nat) : CopyJob :=
  { toHost := toHost, record := false, hostAddr := 0, start := pageAt, words := 2, done := done, asked := asked, status := status, since := 0 }

/-- A grant of GO; then a message in flight, an answer with data, a failed channel and a complete one. -/
theorem test_copy_causes :
    copySetup.dictHears = true ∧ copySetup.dict.replies = [] ∧ copySetup.regN 0x7235 5 ≠ 1 ∧ copySetup.regN 0x7235 3 = 64 ∧
      copySetup.copyFits pageAt 2 = true ∧
      copySetup.copyAddr pageAt 0 = some pageAt ∧ copySetup.copyAddr pageAt 1 = some (pageAt + 32) ∧
      copySetup.judgeHost true [pageAt] = 0 ∧ copySetup.judgeHost true [pageAt + 32] = 0 ∧
      { copySetup with copies := [(5, copyJob true 2 0 0)] }.copyUnacked 5 = false ∧ (copyJob true 2 0 0).lost = false ∧
      tblFind { copySetup with copies := [(5, copyJob false 0 2 0)] }.copies 5 = some (copyJob false 0 2 0) ∧
      (copyJob false 0 2 0).since + msUnits ≤ (copySetup.advance msUnits).clk.now ∧ (copyJob false 1 0 0x0610).status ≠ 0 := by
  decide +kernel

/-- Port 0 up on two lanes, lane 0 with a flit sent and not acknowledged. -/
def flit0 (ty seq : Nat) (nak : Bool) : Flit :=
  flitWithCrc { seq := BitVec.ofNat 8 seq, ack := 5, nak := nak, ftype := BitVec.ofNat 2 ty, vc := 1, sop := true, eop := false,
                cvc := 0, ccount := 3, payload := List.replicate 244 9, crc := 0, fecOk := true, fecCorrected := 1 }

def sent (seq : Nat) : SentFlit := { k := 0, tag := 512, since := 0, flit := { flit0 1 seq false with crc := 0 } }

def portUp : State :=
  { inState .ready with
    regs := [(regKey 0x7210 1, 2), (regKey 0x7410 4, 1)]
    ports := [(0, { PortState.down with active := [0, 1], lanes := [(0, { LaneState.start with replay := [sent 5, sent 6], owed := 1 })] })] }

/-- The CRC of a good flit. -/
theorem test_lane_crc (f : Flit) : (flitWithCrc f).crc = crc32c (flitBytes (flitWithCrc f)) := rfl

theorem test_lane_causes :
    portUp.laneUp 0 0 = true ∧ (flit0 1 0 false).payload.length = 244 ∧
      (flit0 1 0 false).reserved = 0 ∧ (flit0 1 0 false).fecOk = true ∧ portUp.passes 0 (flit0 1 0 false) = false ∧
      (flit0 1 0 false).sop = true ∧ (flit0 1 0 false).eop = false ∧ (∀ m < 2, ((portUp.port 0).lane m).rxHeld = []) ∧
      { portUp with regs := [(regKey 0x7210 1, 2)] }.regN 0x7410 4 ≠ 1 ∧ { portUp with regs := [(regKey 0x7210 1, 2)] }.laneUp 0 0 = true ∧
      (flit0 1 0 false).seq.toNat = ((portUp.port 0).lane 0).rxSeq ∧ (portUp.port 0).active.getD 0 0 = 0 ∧
      portUp.regN 0x7410 4 = 1 ∧ (portUp.port 0).queue = [] ∧ ((portUp.port 0).lane 0).replay = [] ++ sent 5 :: [sent 6] ∧
      ((portUp.port 0).lane 0).swap = none ∧ (ackList 5 ((portUp.port 0).lane 0).replay).isSome = true ∧
      (sent 5).since + 20 * usUnits ≤ (portUp.advance (20 * usUnits)).clk.now ∧
      ¬ (sent 5).since + 20 * usUnits ≤ (portUp.advance (20 * usUnits - 1)).clk.now ∧
      10 * 0 + usUnits ≤ 10 * (portUp.advance usUnits).clk.now := by
  decide +kernel

/-- A port in training with no failed attempt and with two; a ring of two ranks. -/
def training (failures : Nat) : State :=
  { State.reset with
    regs := [(regKey 0x7210 1, 1)], boot := { State.reset.boot with stage := 9 }
    ports := [(0, { PortState.down with failures := failures })] }

def ring2 : State := { portUp with regs := [(regKey 0x7010 2, 2), (regKey 0x7200 1, 1)] }

theorem test_training_causes :
    (training 0).linkState 0 = 1 ∧ ((training 2).port 0).failures = 2 ∧ (training 2).work.usable (offPort 0) = true ∧
      (training 0).st = .bringup ∧ (training 0).boot.since + 25000 * msUnits ≤ ((training 0).advance (25000 * msUnits)).clk.now ∧
      portUp.linkState 0 = 2 ∧ ((portUp.port 0).lane 0).ackSince + 5 * msUnits ≤ (portUp.advance (5 * msUnits)).clk.now ∧
      ring2.expectedPartner 0 = some (1, 9) ∧ ring2.expectedPartner 0 ≠ some (99, 0) := by
  decide +kernel


/-- Crew 1 of four members with one layer, 5, in a module of rank 0 that is member `own` and whose layer's owner is
`owner`. -/
def crewDef (members : List Nat) (owner nonfin : Nat) (drop : Bool) : CrewDef :=
  { members := members, bs8 := false, drop := drop, nonfin := nonfin, waitUs := some 1
    layers := [{ id := 5, owner := owner, nk := 8, scaleOff := 0, contrib := 0, carry := none, dest := none }]
    scaleAddr := 0, sealAddr := pageAt, sumMb := 0, extents := [(pageAt, 1)] }

def layer5 (owner : Nat) : CrewLayer :=
  { id := 5, owner := owner, nk := 8, scaleOff := 0, contrib := 0, carry := none, dest := none }

def crewRun (d : CrewDef) (complete : Bool) (n : NodeState) : CrewRun :=
  { defn := d, started := true, step := 3, counted := [], complete := complete, held := [], nodes := [(5, n)]
    sealSent := false, sealed := none, carries := [] }

def withCrew (r : CrewRun) (inbox : List (Nat × List Byte)) : State :=
  { inState .running with crews := [(1, r)], ports := [(0, { PortState.down with inbox := inbox })] }

/-- A header of crew 1, step 3, layer 5, from rank src. -/
def header (kind src : Nat) : EccWord := pkHeader kind 0 1 3 5 0 src 0 0 0

def noticed : NodeState := { NodeState.start with noticed := true }
def atReady : NodeState := { noticed with ready := some 0 }
def atLast : NodeState := { atReady with next := 2 }

/-- A notice of the current step, with a preamble complete or not, below the layer's root, and a notice of a crew that
is not there. -/
theorem test_notice_causes : ([true, false].all fun complete =>
    let r := crewRun (crewDef [1, 0] 1 0 true) complete NodeState.start
    let s := withCrew r [(4, bytesOfWord (header 7 0))]
    let h := wordOfBytes ((bytesOfWord (header 7 0)).take 32)
    decide (pkKind h = 7) && decide (s.crew (pkCrew h) = some r) && decide (pkStep h = r.step) &&
      decide (r.defn.layer (pkLayer h) = some (layer5 1)) && !(r.node 5).noticed && decide (r.sealed = none) &&
      decide (s.ownPos r.defn (layer5 1) = 1) && decide ((layer5 1).chunks = 2) && decide (s.crew 2 = none)) = true := by
  decide +kernel

/-- The test pass of a layer whose notice is in. -/
theorem test_pass_causes :
    let r := crewRun (crewDef [1, 0] 1 1 true) true noticed
    (withCrew r []).crew 1 = some r ∧ r.defn.layer 5 = some (layer5 1) ∧ (r.node 5).noticed = true ∧ (r.node 5).ready = none ∧
      (r.node 5).late = false ∧ (withCrew r []).ownPos r.defn (layer5 1) = 1 ∧ (r.node 5).credit ≤ (r.node 5).next := by
  decide +kernel

/-- What a packet of the tree must meet, as one check. -/
def treeB (s : State) (hdr : EccWord) (body : List EccWord) (kind : Nat) (r : CrewRun) (l : CrewLayer) (from' : List Nat)
    (q : Nat) : Bool :=
  decide (pkKind hdr = kind) &&
    (s.received 0 fun m => decide (m.take (bytesOfWords (hdr :: body)).length = bytesOfWords (hdr :: body))).1 &&
    pkClean hdr && pkBodyClean kind body && decide (s.crew (pkCrew hdr) = some r) && r.started && decide (pkStep hdr = r.step) &&
    decide (r.defn.layer (pkLayer hdr) = some l) && decide (from'.find? (fun p => r.defn.rankAt l p = pkSrc hdr) = some q)

theorem fromTree_of_check {s : State} {hdr : EccWord} {body : List EccWord} {kind : Nat} {r : CrewRun} {l : CrewLayer}
    {from' : List Nat} {q : Nat} (h : treeB s hdr body kind r l from' q = true) : FromTree s 0 hdr body kind r l from' q := by
  simp only [treeB, Bool.and_eq_true, decide_eq_true_eq] at h
  obtain ⟨⟨⟨⟨⟨⟨⟨⟨h1, h2⟩, h3⟩, h4⟩, h5⟩, h6⟩, h7⟩, h8⟩, h9⟩ := h
  exact ⟨⟨h1, h2, h3, h4, h5⟩, h6, h7, h8, h9⟩

/-- A chunk in FP32 and one in BS8 and a trailer of the child at position 1, and a credit of the parent at position 0. -/
theorem test_child_packets :
    let r := crewRun (crewDef [0, 1] 0 0 true) true noticed
    let r8 := crewRun { crewDef [0, 1] 0 0 true with bs8 := true } true noticed
    let p := crewRun (crewDef [1, 0] 1 0 true) true noticed
    let wire := fun (w : Nat) => header (1 + 2 ^ 4 * w) 1
    treeB (withCrew r []) (wire 3) [] 1 r (layer5 0) ((withCrew r []).kidsOf r (layer5 0)) 1 = true ∧
    treeB (withCrew r8 []) (wire 4) [] 1 r8 (layer5 0) ((withCrew r8 []).kidsOf r8 (layer5 0)) 1 = true ∧
    pkWire (wire 3) = 3 ∧ pkWire (wire 4) = 4 ∧ pkEmpty (wire 3) = false ∧ pkChunk (wire 3) = 0 ∧ (r.node 5).next ≤ 0 ∧
    treeB (withCrew r []) (header 2 1) [] 2 r (layer5 0) ((withCrew r []).kidsOf r (layer5 0)) 1 = true ∧
    treeB (withCrew p []) (header 6 1) [] 6 p (layer5 1) [treeParent 1] 0 = true ∧
    (withCrew p []).ownPos p.defn (layer5 1) = 1 ∧ (r.node 5).ready = none ∧
    tblFind (r.node 5).children 1 = none ∧ pkRestart (header 6 1) = false := by
  decide +kernel

/-- A crew that seals into vault c0, with an open route to it, or with the flit of its seal record still on the way. -/
def sealing (r : CrewRun) : State :=
  { withCrew r [] with image := some { image0 with openRoutes := [{ key := 1, port := 24, sinks := [c0.num] }] } }

/-- An epilogue and a seal from the owner, rank 1, to member index 1; the seal waits for the epilogue, or finds it and writes
its record, or its record is written. -/
theorem test_crew_end_packets :
    let d := crewDef [1, 0] 1 0 true
    let open' := crewRun d true NodeState.start
    let done' := crewRun d true { NodeState.start with epilogue := some (layerBodyOf []) }
    let last := { done' with sealed := some (sealBodyOf 3 []), sealStage := 2 }
    treeB (sealing open') (header 3 1) [] 3 open' (layer5 1) [0] 0 = true ∧ (open'.node 5).epilogue = none ∧
    (sealing open').ownIdx d = 1 ∧ open'.sealed = none ∧
    pkKind (pkHeader 4 0 1 3 0 0 1 0 0 0) = 4 ∧ pkClean (pkHeader 4 0 1 3 0 0 1 0 0 0) = true ∧
    (sealing open').crew 1 = some open' ∧ pkStep (pkHeader 4 0 1 3 0 0 1 0 0 0) = 3 ∧
    d.members.head? = some (pkSrc (pkHeader 4 0 1 3 0 0 1 0 0 0)) ∧ (sealing open').sealReady open' (sealBodyOf 3 []) = false ∧
    (sealing done').sealReady done' (sealBodyOf 3 []) = true ∧ (sealing done').crew 1 = some done' ∧ d.drop = true ∧
    (sealing done').openTo d.carryAreas = false ∧ ((placeOf d.sealAddr).bind sinkOf).map sinkKey = some c0.num ∧
    ((sealing done').pickRoute c0.num).isSome = true ∧
    (sealing last).crew 1 = some last ∧ last.held = [] ∧ (sealing last).openTo [(d.sealAddr, 32)] = false := by
  decide +kernel

/-- A preamble of member 1 with an empty digest and another major version: right and wrong digest, right and wrong
version, the last member's and an earlier one's. -/
theorem test_preamble_causes :
    let one := crewRun (crewDef [1, 0] 1 0 true) false NodeState.start
    let last := { one with counted := [(1, 0)], nodes := [] }
    let s := withCrew one []
    let body := fun (w : EccWord) => [0, w]
    pkKind (pkHeader 5 0 1 3 0 0 1 0 0 0) = 5 ∧ s.crew (pkCrew (pkHeader 5 0 1 3 0 0 1 0 0 0)) = some one ∧ one.defn.members.contains 1 = true ∧ pkClean (pkHeader 5 0 1 3 0 0 1 0 0 0) = true ∧ pkBodyClean 5 (body 0) = true ∧
    pkStep (pkHeader 5 0 1 3 0 0 1 0 0 0) = one.step ∧ pkSrc (pkHeader 5 0 1 3 0 0 1 0 0 0) = 1 ∧ (bytesOfWords (body 0)).take 48 = (s.dom 0x7011 5 ++ leBytes 48 0).take 48 ∧
    (bytesOfWords (body 1)).take 48 ≠ (s.dom 0x7011 5 ++ leBytes 48 0).take 48 ∧
    leNat (((bytesOfWords (body 0)).drop 48).take 2) = 0 ∧ (bytesOfWords (body (2 ^ 128 * 7))).take 48 = List.replicate 48 0 ∧
    leNat (((bytesOfWords (body (2 ^ 128 * 7))).drop 48).take 2) = 7 ∧
    (tblPut one.counted 0 (0 : Nat)).length ≠ one.defn.size ∧ (tblPut last.counted 0 (0 : Nat)).length = last.defn.size ∧
    last.nodes = [] := by
  decide +kernel

/-- Whatever version the module's firmware has, a preamble can name it. -/
theorem test_preamble_version (s : State) :
    ∃ w : EccWord, (bytesOfWords [0, w]).take 48 = List.replicate 48 0 ∧
      leNat (((bytesOfWords [0, w]).drop 48).take 2) = s.fwMajor := by
  have h : ∀ n : Fin 256, (bytesOfWords [0, BitVec.ofNat 256 (2 ^ 128 * n.val)]).take 48 = List.replicate 48 0 ∧
      leNat (((bytesOfWords [0, BitVec.ofNat 256 (2 ^ 128 * n.val)]).drop 48).take 2) = n.val := by decide +kernel
  have hlt : s.fwMajor < 256 := by
    simp only [State.fwMajor]
    have := (s.sec.slotImage s.sec.booted).version.isLt
    omega
  exact ⟨_, h ⟨s.fwMajor, hlt⟩⟩

/-- A child late at its deadline, below position 2 of four, and a root whose layer is complete. -/
theorem test_deadline_causes :
    let d := crewDef [1, 2, 0, 3] 1 0 true
    let r := crewRun d true atReady
    let root := crewRun (crewDef [1, 0] 0 0 true) true atLast
    let s := withCrew r []
    let q := withCrew root []
    s.crew 1 = some r ∧ d.layer 5 = some (layer5 1) ∧ (s.kidsOf r (layer5 1)).find? (fun p => d.rankAt (layer5 1) p = 3) = some 3 ∧
    tblFind (r.node 5).children 3 = none ∧ (r.node 5).ready = some 0 ∧ d.waitUs = some 1 ∧
    0 + 1 * treeHeight d.size 3 * usUnits < (s.advance (usUnits + 1)).clk.now ∧ (s.advance usUnits).clk.now ≤ 0 + 1 * treeHeight d.size 3 * usUnits ∧ s.ownPos d (layer5 1) = 2 ∧
    (r.node 5).credit ≤ (r.node 5).next ∧ (r.node 5).next < (layer5 1).chunks ∧
    q.crew 1 = some root ∧ q.ownPos root.defn (layer5 0) = 0 ∧ (root.node 5).next = (layer5 0).chunks ∧
    (root.node 5).trailersIn = true ∧ (root.node 5).epilogue = none ∧ q.ownIdx root.defn = 1 ∧ q.openDests = [] := by
  decide +kernel


/-- Port 24 with a DRAW of one word to vault c0, to no sink, a PUT and a COMMIT of a core. -/
def drawWord (dest : Nat) : EccWord := BitVec.ofNat 256 (1 + 2 ^ 128 * dest)

def atEpmond (m : List Byte) : State :=
  { inState .running with
    image := some { image0 with openRoutes := [{ key := 1, port := 24, sinks := [c0.num] }] }
    regs := [(regKey (0x7210 + 24) 1, 2)], ports := [(24, { PortState.down with inbox := [(4, m)] })] }

theorem test_streamer_request_causes :
    let m := bytesOfWord (drawWord pageAt)
    let w := (wordsOfBytes m).headD 0
    sdKind (wordOfBytes (m.take 32)) = 1 ∧ fld w 128 56 = pageAt ∧ fld w 192 24 + 1 = 1 ∧ oneSink pageAt 1 = true ∧
    ((placeOf pageAt).bind sinkOf).bind (fun k => (atEpmond m).pickRoute (sinkKey k)) ≠ none ∧ (atEpmond m).drawsOf 24 = 0 ∧
    (atEpmond m).linkState 24 = 2 ∧ oneSink (2 ^ 55) 1 = false ∧
    sdKind (wordOfBytes ((bytesOfWord 2).take 32)) = 2 ∧ sdKind (wordOfBytes ((bytesOfWord 3).take 32)) = 3 ∧
    (atEpmond m).epmondLive 24 = true := by
  decide +kernel

/-- A pool entry of bank 0 of vault c0, and a page in its slot 0 of the tier given. -/
def entry0 : PoolEntry :=
  { layer := 0, group := 0, fmt := 0, unit := c0.uid, bank := 0, landing := false, ord := 0, e := 32, slotBase := 0, nslot := 4
    sarray := 1000, q := 1 }

def pool0 : Pool := { turnMb := 1, roundMb := 2, turnAddr := pageAt, nseq := 4, bmax := 4, entries := [entry0] }

def page0 (tier : Tier) (landed : Bool) : Page :=
  { handle := 9, layer := 0, group := 0, ord := 0, slot := some 0, tier := tier, seqs := [7], inDir := false, lastUse := 0, fill := 64
    tokens := [], hash := 0, cancelled := none, landed := landed }

def withPages (p : Page) : State :=
  { atEpmond [] with pages := { PageState.empty with pool := some pool0, pages := [p] } }

def ask0 (kind : StreamKind) : StreamReq := { id := 0, port := 24, kind := kind, since := 0, sent := 1 }

theorem test_page_requests :
    let s := withPages (page0 .leaving false)
    let f := withPages (page0 .arriving false)
    s.pages.pages.find? (fun p => decide (p.tier = .leaving) && p.slot.isSome && !s.asked (.spill p.handle)) = some (page0 .leaving false) ∧
    f.pages.pages.find? (fun p => decide (p.tier = .arriving) && !p.landed && !f.asked (.fetch p.handle)) = some (page0 .arriving false) ∧
    s.entry (0 / 16384) = some entry0 ∧ entry0.slotAddr 0 = pageAt ∧ s.page 9 = some (page0 .leaving false) ∧
    (s.streamPort = some 24 ∧ s.streamPort ≠ some 25) ∧
    { s with regs := [(regKey 0x7301 5, 2)] }.snapStatus = 2 ∧ (s.coxWords pageAt 2).2 = some [0, 0] ∧
    ((s.advance 5).coxWords (entry0.slotAddr 0) entry0.slotWords).2.isSome = true := by
  decide +kernel

/-- What the reply to the fetch of page 9 finds. -/
def replyable : State × Nat := ((withPages (page0 .arriving false)).advance 5).slotGen entry0 0

/-- Replies to a DRAW, a SPILL, a FETCH and a SNAP, their timeouts, and a reply to no request. -/
theorem test_reply_causes : ([StreamKind.draw pageAt 1 0 4, .spill 9, .fetch 9, .snap 3].all fun k =>
    let s := { withPages (page0 .arriving false) with streams := [ask0 k] }
    decide (s.streams.find? (fun x => decide (x.id = 0) && decide (x.port = 24)) = some (ask0 k)) &&
    decide (s.streams.find? (fun x => x.id = 0) = some (ask0 k)) && !s.pages.turning && !s.pages.starting && !s.pages.ending &&
    ((s.advance 5).received 24 (replyMsg 0 [1])).1 && decide (s.pages.wanted = []) && s.pages.pages.all (fun x => decide (x.refs ≠ 0)) &&
    decide ((ask0 k).since + 1000 * msUnits ≤ (s.advance (1000 * msUnits)).clk.now) && decide ((ask0 k).sent < 2) &&
    decide (s.streams.find? (fun x => decide (x.id = 1) && decide (x.port = 24)) = none)) = true ∧
    replyable.1.inReach true ((List.range entry0.slotWords).map fun j => pageAt + 32 * j) = true ∧ 0 < entry0.slotWords ∧
    (withPages (page0 .leaving false)).page 9 = some (page0 .leaving false) ∧
    { withPages (page0 .leaving false) with regs := [(regKey 0x7301 5, 2)] }.snapStatus = 2 ∧
    ((placeOf pageAt).bind sinkOf).map sinkKey = some c0.num ∧ (withPages (page0 .leaving false)).pickRoute c0.num ≠ none := by
  decide +kernel

/-- A call of one lane at its last prompt token. -/
def lane0 : LaneRec := { seq := 7, release := true, left := 2, stop := 0xFFFFFFFF, prompt := [], intok := 5, active := true }
def seq7 : SeqState := { id := 7, pos := 3, tokens := [1, 2, 3] }

theorem test_turn_causes :
    let s := { withPages (page0 .sealed false) with pages := { PageState.empty with pool := some pool0, call := [lane0], seqs := [seq7] } }
    let spare := { s with pages := { s.pages with seqs := [] } }
    s.pages.pool = some pool0 ∧ s.pages.turning = false ∧ s.pages.ending = false ∧ s.pages.starting = false ∧
    s.pages.blocks = [] ∧ s.pages.waiting = [] ∧ (∀ p ∈ s.pages.pages, p.resident = true) ∧ spare.openStores pool0 = [] ∧
    seq7.pos < 2 ^ 48 - 1 ∧ lane0.active = true ∧ lane0.prompt = [] ∧ s.pages.adopts = [] ∧ s.pages.call = [lane0] ∧ s.seq 7 = some seq7 ∧ (seq7.pos + 1) % 64 ≠ 0 ∧
    pool0.roundMb ≠ pool0.turnMb ∧ (∀ p ∈ s.roundPages s.pages.round, p.resident = true) ∧
    (withPages (page0 .arriving true)).pages.wanted = [] ∧ (page0 .arriving true).refs ≠ 0 ∧
    (withPages (page0 .arriving true)).page 9 = some (page0 .arriving true) := by
  decide +kernel

/-- A mask request of one EXPLICIT tile, its map, bitmaps and blocks apart. -/
def maskState : State :=
  { withImage [] [] [] 0 with
    regs := [(regKey 0x6023 1, BitVec.ofNat 64 pageAt)], pages := { PageState.empty with maskRise := 1 }
    mem := [(pageAt + 8, 64), (pageAt + 12, 16), (pageAt + 18, 1), (pageAt + 20, 16), (pageAt + 26, 2), (pageAt + 28, 16),
            (pageAt + 64, 2)] }

/-- The words that the descriptor, the map and the bitmaps hold. -/
def maskWords : Option (List EccWord) × Option (List EccWord) × Option (List EccWord) :=
  let desc := maskState.coxWords pageAt 2
  let w := (desc.2.getD []).getD 0 0
  let map := desc.1.coxWords (fld w 64 56) 1
  (desc.2, map.2, (map.1.coxWords (fld w 128 56) 64).2)

theorem test_mask_causes :
    let w := maskState.word (maskState.regN 0x6023 1)
    let v := maskState.word (maskState.regN 0x6023 1 + 32)
    maskState.regN 0x6023 1 = pageAt ∧ maskState.pages.maskRise ≠ 0 ∧ maskWords.1 = some [w, v] ∧ maskClean w v = true ∧
    maskClean w (BitVec.ofNat 256 (2 ^ 200)) = false ∧ maskWords.2.1.isSome = true ∧ maskWords.2.2.isSome = true ∧
    ceilDiv (fld v 16 15 + 1) 128 = 1 ∧ explicitTiles (maskWords.2.1.getD []) (fld v 0 15 + 1) (fld v 16 15 + 1) = 1 ∧
    maskState.cores = [] ∧ maskState.nb = [] ∧
    ((List.range 1024).all fun j => maskState.inReach true [fld w 192 56 + 32 * j]) = true ∧
    (image0.mbs.all fun m => decide (m.id ≠ fld v 32 10)) = true := by
  decide +kernel

theorem test_snapshot_causes :
    let s := { inState .running with regs := [(regKey 0x7301 5, 2)] }
    s.snapStatus = 2 ∧ s.snap.todo = [] ∧ (s.streams.all fun q => !q.kind.isSnap) = true := by
  decide +kernel


/-- READY, with a value longer than a response and a segmented read of it, begun before the value changed or after. -/
def longRead (first : Byte) : State :=
  { (inState .ready).setDom 0x7011 2 (List.replicate 1025 7) with
    dict := { DictState.start with reads := [⟨srcNum (.field 1 9), 0x7011, 2, first :: List.replicate 1024 7⟩] } }

/-- Objects that a read or a write finds, or does not. -/
theorem test_dictionary_causes :
    (∀ b ∈ [(7 : Byte), 8], (longRead b).dictHears = true ∧
      ((longRead b).dict.reads.find? fun q => q.is (srcNum (.field 1 9)) 0x7011 2).isSome = true ∧
      (objRow 0x7011 2).map (fun r => decide (r.kind = .dom) && decide (((longRead b).value 0x7011 2 r).length = 1025) &&
        (decide ((longRead b).value 0x7011 2 r = b :: List.replicate 1024 7) == decide (b = 7))) = some true) ∧ ((inState .ready).allValues 0x7011).length ≤ 1024 ∧
    (objRow 0x6000 1).map (fun r => decide (r.kind ≠ .dom)) = some true ∧
    (inState .ready).dictHears = true ∧ (inState .ready).dict.replies = [] ∧
    objRows 0x1234 = [] ∧ objRows 0x1000 ≠ [] ∧ objRow 0x1000 0xF0 = none ∧
    (objRow 0x6000 1).isSome = true ∧ (objRow 0x8000 2).map (fun r => decide (r.acc = .wo)) = some true ∧
    (objRow 0x2010 0).isSome = true ∧ (objRow 0x1000 1).map (fun r => decide (r.acc = .ro)) = some true ∧
    safeStopReads 0x1111 = true ∧ safeStopReads 0x2000 = false := by
  decide +kernel

/-- A segmented write of LOCAL_DATA of crew 1 that goes on at its offset, from one client; its gap is over after 50 ms. -/
def segment : SegWrite := { source := 2, idx := 0x7011, sub := 4, bytes := List.replicate 60 7, last := 0, expired := false }
def writing : State :=
  { inState .ready with dict := { DictState.start with writes := [segment] }, regs := [(regKey 0x7011 3, 64)] }

theorem test_segment_causes :
    (inState .ready).segBusy (srcNum (.field 1 9)) 0x7011 4 = false ∧
    writing.dict.writes.find? (fun w => w.is (srcNum (.field 1 9)) 0x7011 4) = some segment ∧
    writing.regN 0x7011 3 = segment.bytes.length + [(0 : Byte), 0, 0, 0].length ∧ segment.is 2 0x7011 4 = true ∧
    segment.expired = false ∧
    (writing.advance (50 * msUnits)).clk.now ≤ segment.last + 50 * msUnits ∧
    segment.last + 50 * msUnits < (writing.advance (50 * msUnits + 1)).clk.now := by
  decide +kernel

/-- A load that finds no image, and a start whose floor plan is of another generation. -/
theorem test_load_causes :
    (inState .ready).loading = .none ∧ (inState .ready).sec.lc ≠ 4 ∧ (inState .ready).pages.pages = [] ∧
    (match ({ inState .loaded with loading := .load } : State).checkImage.2 with | .error v => decide (v.code = 1) | .ok _ => false) = true ∧
    (firstFailing ((withImage [] [] [] 0).startBads { image0 with floorGen := 5 })).map Bad.code = some 4 := by
  decide +kernel

/-- An image whose floor plan is the published one, of cores without programs, passes the checks at its start. -/
def startImage : Image := { image0 with floorDigest := BitVec.ofNat 384 (planDigest State.reset.plan), programs := [] }
def atStart : State := { inState .loaded with image := some startImage, loading := .start }

theorem test_start_passes : firstFailing (atStart.startBads startImage) = none := by
  have h : atStart.floorCheck startImage.floorGen.toNat startImage.floorDigest.toNat startImage.reserve = some (State.reset.plan, []) := by
    have hd : startImage.floorDigest.toNat = planDigest State.reset.plan := by
      simp only [startImage, BitVec.toNat_ofNat, planDigest]
      exact Nat.mod_eq_of_lt (sha384 State.reset.plan.bytes).isLt
    simp only [State.floorCheck, hd]
    rw [if_pos]
    · rfl
    · exact ⟨by decide +kernel, rfl⟩
  unfold State.startBads
  rw [h]
  decide +kernel

/-- Each state that a control command needs, and masks within and beyond the sixteen flags. -/
theorem test_control_causes :
    ([ModState.ready, .loaded, .running, .held].all fun st =>
      (inState st).dictHears && (inState st).pins.flowOk && decide ((inState st).dict.replies = [])) = true ∧
    ([255, 255, 0, 0] : List Byte).length = 4 ∧ leNat [255, 255, 0, 0] < 2 ^ 16 ∧ ([0] : List Byte).length ≠ 4 ∧ 2 ^ 16 ≤ leNat [0, 0, 1, 0] := by
  decide +kernel

/-- A host-driven bring-up that waits at a stage, and one that is held for a choice between a good and a bad copy. -/
theorem test_named_write_causes :
    let b := { State.reset with
      boot := { BootState.start with stage := 3, running := false, hostMode := true, held := true, ended := 3 }
      cfg := { ConfigState.new with copies := [ConfigCopy.first, { ConfigCopy.first with validity := 2 }, ConfigCopy.first] }
      regs := [(regKey 0x2001 3, 4)] }
    b.dictHears = true ∧ b.st = .bringup ∧ b.boot.running = false ∧ b.regN 0x2001 3 = (4 : Byte).toNat ∧ b.boot.held = true ∧
    b.cfg.copies[0]?.map ConfigCopy.validity = some 0 ∧ b.cfg.copies[1]?.map ConfigCopy.validity = some 2 ∧
    { withImage [] [] [] 0 with sec := { SecState.new with lc := 3 } }.fiAllowed = true ∧
    (inState .loaded).snapStatus = 0 ∧ { inState .held with regs := [(regKey 0x7301 5, 3)] }.snapStatus = 3 ∧
    { inState .loaded with regs := [(regKey 0x7301 2, 0xFFFFFFFF)] }.regN 0x7301 2 = 0xFFFFFFFF ∧
    { inState .loaded with regs := [(regKey 0x7010 3, 5), (regKey 0x7301 2, 4)] }.stepSealed 4 = true ∧
    { inState .loaded with regs := [(regKey 0x7010 3, 5), (regKey 0x7301 2, 5)] }.stepSealed 5 = false := by
  decide +kernel

/-- Security requests: records that fail, requests that Table 14.3 permits and refuses, an install of nothing, a token. -/
theorem test_security_causes :
    let s := inState .ready
    let tok := { s with sec := { SecState.new with token := some (0, true) } }
    s.recordPasses [] = false ∧ s.regN 0x8000 4 = 0 ∧ s.sec.install = none ∧ s.lcPermits 2 = true ∧ s.lcPermits 0 = false ∧
    s.pins.flowOk = true ∧ s.regN 0x8010 3 ≠ 1 ∧ tok.sec.token = some (0, true) ∧ (s.copyAddrs pageAt 0).isSome = true ∧
    (s.coxRead ((s.copyAddrs pageAt 1).getD [])).2.isOk = true ∧
    ({ s with ecc := [(pageAt / 32, 2)] }.coxRead ((s.copyAddrs pageAt 1).getD [])).2.isOk = false ∧
    s.firmwareValid [] = false ∧ { s with sec := { SecState.new with attNonce := some [] } }.sec.lc ≠ 0 := by
  decide +kernel

/-- SAFE_STOP: recovery allowed from 2 ms and 8 L/min on, its hold over after 2 s. -/
def stopped (recovering : Bool) (flow : Int) : State :=
  { inState .safeStop with
    stop := some { since := 0, recovering := recovering }, pins := { Pins.good with flowOk := false }
    heat := { HeatState.new with flowHist := [flow] } }

theorem test_tray_causes :
    ({ State.reset with st := .off }).pins.inputGood = true ∧ ({ State.reset with st := .off }).pins.enable = true ∧
    (∀ st ∈ [ModState.off, .running], { State.reset with st := st }.halting = []) ∧
    800 ≤ ((stopped false 800).advance (2 * msUnits)).flow ∧ (stopped false 799).heat.meterFlow = 799 ∧
    (stopped true 800).stop = some { since := 0, recovering := true } ∧ (stopped true 800).st = .safeStop ∧
    2 * msUnits ≤ ((stopped false 800).advance (2 * msUnits)).clk.now ∧ (stopped false 0).pins.flowOk = false ∧
    2000 * msUnits ≤ ((stopped false 0).advance (2000 * msUnits)).clk.now := by
  decide +kernel

/-- A sensor that is good, one that has failed, one that has been above its limit twice; a module after one solve. -/
theorem test_heat_causes :
    let s := { inState .ready with heat := { HeatState.new with
      sensors := [(1, { SensorRec.new with failed := true }), (2, { SensorRec.new with last := some 10000, above := 2 })]
      solves := [(0, [])], stopBy := some 5 } }
    s.st ≠ .off ∧ (s.heat.sensor 0).failed = false ∧ (s.heat.sensor 1).failed = true ∧ 2 ≤ (s.heat.sensor 2).above ∧
    (10700 > tripLimit (sensorLayer (2 % 13)) ∧ (10700 - 10000 : Int).natAbs ≤ 800) ∧ s.heat.solves ≠ [] ∧ s.heat.stopBy = some 5 := by
  decide +kernel

/-- A region with two phases lost, one with six and one with all, some due for retirement, one retired, and bricks to lose. -/
theorem test_power_causes :
    let s := { inState .running with supply := { SupplyState.full with phases := [(0, 2), (4, 6), (8, 8)], retireBy := [(1, 7), (3, 7)], region := [(3, 2)] } }
    s.regionLost w0 = false ∧ s.phasesLost w0 (domainCode .vlg) = 2 ∧ tblFind s.supply.retireBy w0.num = none ∧
    s.phasesLost ⟨0, 1⟩ 0 = 6 ∧ s.phasesLost ⟨0, 2⟩ 0 = 8 ∧ tblGet 0 s.supply.region 3 = 2 ∧ s.regionLost ⟨0, 3⟩ = false ∧
    tblFind s.supply.retireBy 1 = some 7 ∧ tblFind s.supply.retireBy 3 = some 7 ∧ s.phasesLost ⟨0, 3⟩ 0 = 0 ∧ s.work.usable (offRegion w0) = true ∧ 2 ≤ bricksLeft s 0 ∧
    25000 < meanOf ((300000 :: s.power.samples).take 10) := by
  decide +kernel

/-- Both slots hold images of security version 0. -/
def booting (fused : BitVec 32) : SecState :=
  { SecState.new with secVersion := fused, slots := [(0, ⟨1, 0, 0⟩), (1, ⟨1, 0, 0⟩)] }

/-- Losses and stages: plans that differ, three copies, test ports open and restricted, each stage of a bring-up. -/
theorem test_bringup_causes :
    let s := { inState .ready with work := { gen := 0, units := [(64, 1)], shifts := [] } }
    let at' := fun n => ({ State.reset with boot := { BootState.start with stage := n } } : State)
    s.work ≠ s.plan ∧ (inState .ready).work = (inState .ready).plan ∧ s.cfg.copies.length = 3 ∧
    (at' 3).boot.ended < 4 ∧ 4 ≤ (inState .ready).boot.ended ∧ (booting 0).slotFound = true ∧ (booting 1).slotFound = false ∧
    ((at' 9).portsWait = false ∧ ({ (at' 9) with regs := [(regKey 0x7210 1, 1)] } : State).portsWait = true) ∧
    s.testPortFull = false ∧ ({ s with sec := { SecState.new with lc := 3 } } : State).testPortFull = true ∧
    (([0, 1, 2, 3, 4, 5, 6, 9] : List Nat).all fun n => decide ((at' n).st = .bringup) && (at' n).boot.running && !(at' n).boot.hostMode) =
      true ∧ ConfigCopy.first.validity = 0 ∧ (neighbour r0 .e).isSome = true ∧ (neighbour r0 .n).isSome = false := by
  decide +kernel

/-- The invariant has states of its own: one with a byte, a check state and a stamp. -/
theorem test_stored : Stored { State.reset with mem := [(5, 7)], ecc := [(0, 1)], stamps := [(0, 9)] } :=
  ⟨by decide, by decide, by decide⟩

/-- The two commands that stop: a flit without its payload, and a private instruction of an open port. -/
theorem test_stops :
    exec (.dataFlitReceive 0 0 0 { flit0 1 0 false with payload := [] }) State.reset = .fault .badOperand ∧
    exec (.testPortInstruction 0 (.priv 3)) { State.reset with sec := { SecState.new with lc := 3 } } =
      .refused .privateTestInstruction := ⟨rfl, rfl⟩


/-! ### Values from the spec's worked examples and tables -/

/-- 01, core (5, 3, 11, C4): its region is 13 of stack 5; bank 7 at offset 40_0000h of its vault. -/
theorem test_example_core :
    (⟨5, 3, 11⟩ : ColId).region = ⟨5, 13⟩ ∧ bankBase ⟨5, 3, 11, .c4⟩ 7 + 0x400000 = 0x00051AE00E400000 ∧
      placeOf 0x00051AE00E400000 = some (.vault ⟨5, 3, 11, .c4⟩ 7 0x400000) := by decide +kernel

/-- 02: 0.3 becomes 2Ah in E4M3; 1,000 in a block of BS8 has the scale 81h and the element 78h, without a saturation. -/
theorem test_example_narrow :
    narrowE4m3 false (xOfF32 0x3E99999A) = (0x2A, Ev.zero) ∧
      (encodeOwn blockBs8 false (xOfF32 0x447A0000 :: List.replicate 31 (xOfF32 0))).1.scale = 0x81 ∧
      (encodeOwn blockBs8 false (xOfF32 0x447A0000 :: List.replicate 31 (xOfF32 0))).1.elems.head? = some 0x78 := by decide +kernel

/-- 02, the BS8 pass: groups of scale 83h with 256 * 256 and 0.0625 * 0.0625 sum to 4B80_0002h. -/
def passRow : List Xf :=
  [xOfE4m3 0x78, xOfE4m3 0x18, xOfE4m3 0x18] ++ List.replicate 29 (xOfE4m3 0) ++ (xOfE4m3 0x18 :: List.replicate 31 (xOfE4m3 0)) ++
    (xOfE4m3 0x18 :: List.replicate 31 (xOfE4m3 0)) ++ List.replicate 32 (xOfE4m3 0)

theorem test_example_pass :
    (narrowPass passRow passRow [0x83, 0x83, 0x83, 0x83] [0x83, 0x83, 0x83, 0x83] 0).1 = 0x4B800002 := by decide +kernel

/-- 06, a quarter turn per position at position 3: (1, 2) becomes (2, -1). -/
theorem test_example_rotate : (rotatePair 0x3F800000 0x40000000 3 0x40000000).1 = (0x40000000, 0xBF800000) := by decide +kernel

/-- 08, lanes 0 and 1 of its example: DRIVE and FINISH from weight 1, momentum 0.5 and gradient -3.2. -/
def exampleCoeffs (beta : F32) : Coeffs :=
  { gate := 0x3F800000, eta := 0x3A800000, lam := 0x3E000000, beta := beta, beta2 := 0x3F780000, eps := 0 }

theorem test_example_drive :
    (vupdLane 1 true false (exampleCoeffs 0x3F600000) 0x3F800000 0xC04CCCCD 0x3F000000 0 0).w = 0x3F7FE400 ∧
      (vupdLane 1 true false (exampleCoeffs 0x3F600000) 0x3F800000 0xC04CCCCD 0x3F000000 0 0).m = 0x3EA00000 := by decide +kernel

theorem test_example_finish :
    (vupdLane 2 true false (exampleCoeffs 0x3F600000) 0x3F800000 0xC04CCCCD 0x3F000000 0 0).w = 0x3F7FB800 ∧
      (vupdLane 2 true false (exampleCoeffs 0x3F600000) 0x3F800000 0xC04CCCCD 0x3F000000 0 0).m = 0x3EE80000 ∧
      (vupdLane 2 true false (exampleCoeffs 0x3F600000) 0x3F800000 0x7FC00000 0x3F000000 0 0).w = 0x3F800000 ∧
      (vupdLane 2 true false (exampleCoeffs 0x3F600000) 0x3F800000 0x7FC00000 0x3F000000 0 0).nanGrad = true := by decide +kernel

/-- 05, MV of 40 rows of 8,192 in BF16: 329 near-bank strokes, the last one final; a command switched in ac 6,420 reaches
the controller's bound at 6,464. -/
theorem test_example_mv : nbDuration (nbWord 1 0 0 39 255 0 + BitVec.ofNat 256 (2 ^ 8 * 4)) = 329 := by decide +kernel

/-- 07 Table 7.17: the tree of eight members. -/
theorem test_example_tree :
    (List.range 8).map (treeChildren 8) = [[1, 2, 4], [], [3], [], [5, 6], [], [7], []] ∧
      (List.range 8).map (treeHeight 8) = [4, 1, 2, 1, 3, 1, 2, 1] ∧
      (span 1 7).map treeParent = [0, 0, 2, 0, 4, 4, 6] := by decide +kernel

/-- 04, from stack 5, x = 3 to stack 6, x = 2 along y = 11: 39 ac. -/
theorem test_example_route :
    (((span 3 14).map fun x => hopCost ⟨5, Fin.ofNat 18 x, 11⟩ ⟨5, Fin.ofNat 18 (x + 1), 11⟩).foldl (· + ·) 0) +
      hopCost ⟨5, 17, 11⟩ ⟨6, 0, 11⟩ + hopCost ⟨6, 0, 11⟩ ⟨6, 1, 11⟩ + hopCost ⟨6, 1, 11⟩ ⟨6, 2, 11⟩ = 39 ∧
      neighbour ⟨5, 17, 11⟩ .e = some (⟨6, 0, 11⟩, .w) := by decide +kernel

/-- FIPS 180-4: the digest of the three bytes "abc", byte 0 lowest. -/
theorem test_sha384_abc : sha384 [0x61, 0x62, 0x63] =
    0xA725C834A1ECBA5823CCE7A12B078680ED5BFF435A608B1A63D1DE0EAB322C270750C69A693DA0B58B5EA3453F7500CB := by decide +kernel

/-- The CRC-32C check value of the digits 1 to 9 (05 R212 names the polynomial). -/
theorem test_crc32c : crc32c [0x31, 0x32, 0x33, 0x34, 0x35, 0x36, 0x37, 0x38, 0x39] = 0xE3069283 := by decide +kernel

/-! ### Single steps -/

def after (o : Host.Outcome State Fault Refusal) (p : State → Bool) : Bool :=
  match o with
  | .next t => p t
  | _ => false

/-- ASET a3 := 5 (Table 3.13) is read in the ac after it; SKIP by 3 puts the next word three strokes on. -/
theorem test_step_aset : after (exec (.aset c0) (next (op 0 6 (2 ^ 32 * 3 + 2 ^ 36 * 5)))) (fun t =>
    (t.core c0).areg 1 3 = 5 && (t.core c0).areg 0 3 = 0) = true := by decide +kernel

theorem test_step_skip : after (exec (.skip (.core c0)) (next (op 0 5 (2 ^ 32 * 3)))) (fun t =>
    (t.core c0).iss.stroke = 3 && (t.core c0).iss.idx = 1) = true := by decide +kernel

/-- VADDI of 1.0 to a register of zeros leaves 1.0 in the one lane, readable four ac later (Table 3.10). -/
theorem test_step_vaddi : after (exec (.vaddi c0) (next (op 4 5 (2 ^ 64 * 0x3F800000 + 2 ^ 52)))) (fun t =>
    ((t.core c0).landResults 4).lane 0 0 = 0x3F800000 && ((t.core c0).landResults 3).lane 0 0 = 0) = true := by decide +kernel

/-- RESET leaves HELD for a bring-up with cause 17h; ABORT marks the halt of cause 0Bh (Table 10.14). -/
theorem test_step_reset : after (exec (.reset 0 (.field 1 1) [0x5A, 0x5A, 0, 0]) (inState .held)) (fun t =>
    decide (t.st = .bringup) && t.reg 0x1001 4 = 0x17) = true := by decide +kernel

theorem test_step_abort : after (exec (.abort 0 (.field 1 1)) (inState .running)) (fun t => decide (t.halting = [0x0B])) = true := by
  decide +kernel

/-! ### Terms that are not well formed -/

theorem test_ill_formed :
    ([.ackReceive 0 0 16 0, .ackReceive 0 30 8 0, .dataFlitReceive 0 0 0 { flit0 1 0 false with payload := [] },
      .chunk 0 0 0 (List.replicate 513 0), .dictWrite 0 (.field 1 1) 0 0 (List.replicate 1025 0),
      .hostWrite 0 0 0 0 false (List.replicate 8193 0), .hostWriteStamped 0 0 0 0 false (List.replicate 10241 0),
      .sensorSample 0 [⟨4680, 0, false⟩] ⟨0, false, ⟨0, 0, false⟩, ⟨0, 0, false⟩, ⟨0, 0, false⟩, ⟨0, 0, false⟩⟩,
      .powerControlTick 0 ⟨0, 0, 0, 0, List.replicate 47 0, List.replicate 12 0⟩,
      .powerControlTick 0 ⟨0, 0, 0, 0, List.replicate 48 0, List.replicate 11 0⟩,
      .bringupStageEnd 0 { fatal := false, detail := 0, a := 0, b := 0, c := 0, d := 0, units := [⟨35424, 0, 0⟩] }, .safeStopRecoveryEnd 0 [⟨63, 0, 0⟩], .configWrite 0 4] :
      List Instr).all (fun i => !i.wf) = true := by decide +kernel

theorem test_well_formed :
    ([.ackReceive 0 0 15 0, .ackReceive 0 30 7 0, .dataFlitReceive 0 0 0 (flit0 1 0 false), .configWrite 0 3, .nop (.core c0)] :
      List Instr).all Instr.wf = true := by decide +kernel

end Sys2Proof.Tests
end

/-! Rules that the proofs about a core's ops and about the work they leave in flight share: what a step that reaches one
core changes, how an op moves its unit on, when core SRAM takes an op's accesses, what a job of an op in flight does, and
what a fault in flight leaves behind. -/

namespace Sys2Proof.Safety

open Sys2Proof.Machine

/-! ### Steps that reach one core -/

section
variable {a t : State} {c : CoreId} {k : CoreState} {e : Ev}

/-- Entering a core's state and gathering events reaches that core and those events alone. -/
theorem CoreGets.of_setCore_gather (a : State) (c : CoreId) (k : CoreState) (e : Ev) :
    CoreGets a c k e ((a.setCore c k).gather e) :=
  ⟨rfl, State.core_setCore_same a c k, fun _ h => State.core_setCore_ne a k h⟩

theorem CoreGets.of_setCore (a : State) (c : CoreId) (k : CoreState) : CoreGets a c k Ev.zero (a.setCore c k) :=
  .of_setCore_gather a c k Ev.zero

/-- A later state of the same core takes the earlier one's place. -/
theorem CoreGets.setCore (h : CoreGets a c k e t) (k' : CoreState) : CoreGets a c k' e (t.setCore c k') := by
  refine ⟨?_, State.core_setCore_same t c k', fun d hd => ?_⟩
  · rw [h.rest]; rfl
  · rw [State.core_setCore_ne t k' hd, h.others d hd]

/-- Such a step leaves the image and the umpire, and with them loops and windows settle as before. -/
theorem CoreGets.settled (h : CoreGets a c k e t) (u : UnitId) (i : Issue) : t.settled u i = a.settled u i := by
  rw [h.rest]; rfl

/-- The core goes on to its next word. -/
theorem CoreGets.issued (h : CoreGets a c k e t) (hk : k.iss = (a.core c).iss) (w : OpWord) (sg busy fin : Nat) :
    CoreGets a c { k with iss := a.settled (.core c) (nextWord a (.core c) w sg busy fin) } e
      (t.issued (.core c) w sg busy fin) := by
  have hi : t.issue (.core c) = a.issue (.core c) := by
    show (t.core c).iss = (a.core c).iss
    rw [h.core, hk]
  unfold State.issued
  rw [h.settled, hi, State.setIssue_core, h.core]
  exact h.setCore _

/-- An op goes into flight. -/
theorem CoreGets.launch (h : CoreGets a c k e t) (hk : k.iss = (a.core c).iss) (w : OpWord) (sg off busy fin : Nat)
    (jobs : List Job) :
    CoreGets a c (flying a c w sg off busy fin jobs k) e (t.launch c w sg off busy fin jobs) := by
  unfold State.launch
  rw [h.core]
  exact (h.setCore (CoreState.plan { k with
    flights := k.flights ++
      [{ id := flightId sg k.iss.idx, start := sg, op := k.iss.idx, word := w, off := off, got := [], rows := [] }] } jobs)).issued
    hk w sg busy fin

end

/-! ### Accesses to core SRAM (03 R70, R77, R103) -/

/-- Accesses of different banks or ac, of which none is in use, do not collide. -/
theorem firstCollision_eq_none {accs : List SramAcc} {used : List Nat} (hn : (accs.map SramAcc.key).Nodup)
    (hu : ∀ x ∈ accs, x.key ∉ used) : firstCollision used accs = none := by
  induction accs generalizing used with
  | nil => rfl
  | cons x xs ih =>
    obtain ⟨hx, hxs⟩ := List.nodup_cons.1 hn
    have hfree : ∀ y ∈ xs, y.key ∉ x.key :: used := by
      intro y hy hmem
      rcases List.mem_cons.1 hmem with heq | hmem
      · exact hx (heq ▸ List.mem_map_of_mem hy)
      · exact hu y (.tail _ hy) hmem
    have hnot : used.contains x.key = false := by simpa using hu x (.head _)
    simp only [firstCollision, hnot, Bool.false_eq_true, if_false, ih hxs hfree]

/-- An op whose accesses can all be made claims them and does its work. -/
theorem SramFree.withSram {a : State} {c : CoreId} {w : OpWord} {sg : Nat} {accs : Nat → List SramAcc}
    (h : SramFree a c w sg (accs ((a.core c).effOffset w sg))) (busy fin : Nat) (f : State → Nat → State) :
    a.withSram c w sg busy fin accs f =
      f (a.setCore c (claimed (a.core c) sg (accs ((a.core c).effOffset w sg)))) ((a.core c).effOffset w sg) := by
  obtain ⟨haligned, hinside, hapart, hunused⟩ := h
  have hfind : (accs ((a.core c).effOffset w sg)).find? (fun x => decide (x.off ≥ sramBytes)) = none := by
    simpa using hinside
  have hcol : firstCollision ((a.core c).claims sg) (accs ((a.core c).effOffset w sg)) = none :=
    firstCollision_eq_none hapart fun x hx hmem => hunused x hx (List.mem_filter.1 hmem).1
  simp only [State.withSram, haligned, ne_eq, not_true_eq_false, if_false, hfind, State.claimSram, hcol]
  rfl

/-- An op whose accesses can all be made goes into flight. -/
theorem SramFree.launch {a : State} {c : CoreId} {w : OpWord} {sg : Nat} {accs : Nat → List SramAcc}
    (h : SramFree a c w sg (accs ((a.core c).effOffset w sg))) (busy fin : Nat) (jobs : Nat → List Job) :
    CoreGets a c (flying a c w sg ((a.core c).effOffset w sg) busy fin (jobs ((a.core c).effOffset w sg))
        (claimed (a.core c) sg (accs ((a.core c).effOffset w sg)))) Ev.zero
      (a.withSram c w sg busy fin accs fun s off => s.launch c w sg off busy fin (jobs off)) := by
  rw [h.withSram]
  have hset := CoreGets.of_setCore a c (claimed (a.core c) sg (accs ((a.core c).effOffset w sg)))
  exact hset.launch rfl w sg _ busy fin _

end Sys2Proof.Safety

namespace Sys2Proof.Machine

open Sys2Proof.Safety

/-! ### Faults of work in flight (03 R104, R105) -/

/-- What a fault records follows from the registers and the umpire alone. -/
theorem State.recordFault_regs_congr {s t : State} (hr : t.regs = s.regs) (hu : t.umpire = s.umpire)
    (code uid sg op detail : Nat) :
    (t.recordFault code uid sg op detail).regs = (s.recordFault code uid sg op detail).regs := by
  have hreg : ∀ i j, t.regN i j = s.regN i j := fun i j => by simp [State.regN, State.reg, hr]
  have hplace : t.placeOfSigma sg = s.placeOfSigma sg := by simp [State.placeOfSigma, hu]
  unfold State.recordFault
  simp only [hreg, hplace]
  split <;> simp [State.event, State.reg, hr]

@[simp] theorem State.recordFault_halting (s : State) (code uid sg op detail : Nat) :
    (s.recordFault code uid sg op detail).halting = s.halting ++ [0x07] := by
  obtain ⟨r, h⟩ := s.recordFault_frame code uid sg op detail
  rw [h]

@[simp] theorem State.core_recordFault (s : State) (code uid sg op detail : Nat) (d : CoreId) :
    (s.recordFault code uid sg op detail).core d = s.core d := by
  obtain ⟨r, h⟩ := s.recordFault_frame code uid sg op detail
  rw [h]; rfl

/-- A core that faults at an op it has issued stops, and keeps all but its issue state. -/
@[simp] theorem State.core_coreFaultAt (s : State) (c : CoreId) (op code sg detail : Nat) :
    (s.coreFaultAt c op code sg detail).core c =
      { s.core c with iss := { (s.core c).iss with stopped := true } } := by
  simp [State.coreFaultAt, State.setIssue_core, State.issue]

/-- What the fault of an op that the core has issued records. It is what a fault of its next word would record, had the
core not gone on from that op. -/
theorem State.coreFaultAt_stops (s : State) (c : CoreId) (op code sg detail : Nat) :
    Stops s c op code sg detail (s.coreFaultAt c op code sg detail) := by
  obtain ⟨back, hback⟩ : ∃ b, b = s.setIssue (.core c) { s.issue (.core c) with idx := op } := ⟨_, rfl⟩
  have hregs : back.regs = s.regs := hback ▸ rfl
  have humpire : back.umpire = s.umpire := hback ▸ rfl
  have hop : (back.core c).iss.idx = op := by simp [hback, State.setIssue_core]
  have hstops := State.unitFault_stops (s := back) (s0 := s) c code sg detail (hback ▸ rfl) hregs humpire
  have hreg : ∀ i j, (back.unitFault (.core c) code sg detail).reg i j = (s.coreFaultAt c op code sg detail).reg i j := by
    intro i j
    have h : (back.unitFault (.core c) code sg detail).regs = (s.coreFaultAt c op code sg detail).regs := by
      rw [← hop]
      refine State.recordFault_regs_congr ?_ ?_ code c.uid sg (back.core c).iss.idx detail
      · exact hregs
      · exact humpire
    simp only [State.reg, h]
  obtain ⟨-, -, hcounted, hflagged, hfirst⟩ := hop ▸ hstops
  simp only [hreg] at hcounted hflagged hfirst
  exact ⟨by simp, by simp [State.coreFaultAt, State.setIssue_core], hcounted, hflagged, hfirst⟩

/-- An op in flight that faults stops its core with the fault, and is in flight no more. -/
theorem State.flightFault_stops (s : State) (c : CoreId) (f : Flight) (code sg detail : Nat) :
    Stops s c f.op code sg detail (s.flightFault c f code sg detail) := by
  obtain ⟨hstopped, hhalts, hcounted, hflagged, hfirst⟩ := (s.cancel c f.id).coreFaultAt_stops c f.op code sg detail
  exact ⟨hstopped, hhalts, hcounted, hflagged, hfirst⟩

theorem State.flight_flightFault (s : State) (c : CoreId) (f : Flight) (code sg detail : Nat) :
    ((s.flightFault c f code sg detail).core c).flight f.id = none := by
  have h : ((s.cancel c f.id).core c).flights = (s.core c).flights.filter fun g => g.id ≠ f.id :=
    congrArg CoreState.flights (State.core_setCore_same ..)
  simp [State.flightFault, CoreState.flight, h, List.find?_eq_none]

/-! ### Jobs of ops in flight -/

/-- The steps of an op in flight, which are done only while it is in flight. -/
def Act.ofFlight : Act → Bool
  | .read .. | .lost _ | .put .. | .push .. | .row .. | .enter | .slot _ | .pop | .drain _ | .load | .flit _ => true
  | _ => false

/-- A job of an op in flight is that op's step. -/
theorem State.runJob_of_flies {s : State} {c : CoreId} {f : Flight} (h : Flies s c f) {act : Act}
    (hact : act.ofFlight = true) (at' : Nat) (late : Bool) :
    s.runJob c { at' := at', late := late, id := f.id, act := act } = s.flightJob c f at' act := by
  have h' : (s.core c).flight f.id = some f := h
  cases act with
  | store | want | unserved | fault | nbRead | nbForm | nbEnd => cases hact
  | _ => simp only [State.runJob, h']

/-- A read of one word counts it, and answers it where it is uncorrectable. -/
theorem State.countReads_single_good {s : State} {a : Nat} (h : s.eccOf a = 0) (req : Nat) :
    s.countReads req [a] = (s, none) := by
  simp [State.countReads, State.countRead, h]

theorem State.countReads_single_bad {s : State} {a : Nat} (h : 2 ≤ s.eccOf a) (req : Nat) :
    s.countReads req [a] = (s.countRead a req, some a) := by
  simp [State.countReads, h]

section
variable {s : State} {c : CoreId} {f : Flight}

/-- A good word is kept with those that the op has read. -/
theorem State.jobRead_good {x : Nat} (h : s.eccOf x = 0) (sg j : Nat) :
    CoreGets s c ((s.core c).setFlight { f with got := tblSet 0 f.got j (s.word x) }) Ev.zero (s.jobRead c f sg j x) := by
  simp only [State.jobRead, State.countReads_single_good h]
  exact .of_setCore ..

/-- A word that is uncorrectable stops the op (03 R72). -/
theorem State.jobRead_bad {x : Nat} (h : 2 ≤ s.eccOf x) (sg j : Nat) :
    s.jobRead c f sg j x = (s.countRead x reqCore).flightFault c f fBusEcc sg x := by
  simp only [State.jobRead, State.countReads_single_bad h]

end

end Sys2Proof.Machine

/-! Address registers (03 R98): which changes a read in an ac finds, and the ops ASET and AADD. -/

namespace Sys2Proof.Machine

open Sys2Proof.Safety

/-- Changes entered in a table one after another: an entry reads as its latest change says. -/
theorem tblGet_foldl_tblSet {α : Type} [DecidableEq α] (d : α) (l : List (Nat × Nat × α)) (t : Tbl α) (n : Nat) :
    tblGet d (l.foldl (fun t p => tblSet d t p.2.1 p.2.2) t) n =
      (l.filter fun p => p.2.1 = n).foldl (fun _ p => p.2.2) (tblGet d t n) := by
  induction l generalizing t with
  | nil => rfl
  | cons p l ih =>
    rw [List.foldl_cons, ih]
    by_cases h : p.2.1 = n
    · rw [List.filter_cons_of_pos (by simpa using h), List.foldl_cons, h, tblGet_set_same]
    · rw [List.filter_cons_of_neg (by simpa using h), tblGet_set_ne _ _ _ (Ne.symm h)]

/-- Changes in the order of their ac: those before an ac come first. -/
theorem filter_lt_append_filter_ge {α : Type} {l : List (Nat × α)} (sg : Nat)
    (h : (l.map Prod.fst).Pairwise (· ≤ ·)) :
    (l.filter fun p => p.1 < sg) ++ (l.filter fun p => ¬ p.1 < sg) = l := by
  induction l with
  | nil => rfl
  | cons p l ih =>
    obtain ⟨hp, hl⟩ := List.pairwise_cons.1 h
    by_cases hlt : p.1 < sg
    · simpa [hlt] using ih hl
    · have hge : ∀ q ∈ p :: l, ¬ q.1 < sg := by
        intro q hq
        rcases List.mem_cons.1 hq with rfl | hq
        · exact hlt
        · exact fun h => hlt (Nat.lt_of_le_of_lt (hp _ (List.mem_map_of_mem hq)) h)
      rw [List.filter_eq_nil_iff.2 fun q hq => by simpa using hge q hq,
        List.filter_eq_self.2 fun q hq => by simpa using hge q hq, List.nil_append]

section
variable (k : CoreState) (sg n : Nat) (v : BitVec 23)

@[simp] theorem CoreState.areg_zero : k.areg sg 0 = 0 := rfl

/-- Once every change has taken effect, a register reads as its latest change says. -/
theorem CoreState.areg_of_all_lt {k : CoreState} {sg n : Nat} (hn : n ≠ 0) (h : ∀ p ∈ k.aPend, p.1 < sg) :
    k.areg sg n = (k.aPend.filter fun p => p.2.1 = n).foldl (fun _ p => p.2.2) (tblGet 0 k.aregs n) := by
  have hf : (k.aPend.filter fun p => p.1 < sg && p.2.1 = n) = k.aPend.filter fun p => p.2.1 = n :=
    List.filter_congr fun p hp => by simp [h p hp]
  rw [CoreState.areg, if_neg hn, hf]

/-- What stands as a change after one is entered: those of the ac itself, and the new one unless it names a0. -/
theorem CoreState.mem_setAreg_aPend {k : CoreState} {sg n : Nat} {v : BitVec 23} {p : Nat × Nat × BitVec 23}
    (hp : p ∈ (k.setAreg sg n v).aPend) : (p ∈ k.aPend ∧ sg ≤ p.1) ∨ p = (sg, n, v) := by
  unfold CoreState.setAreg at hp
  dsimp only at hp
  split at hp
  · exact .inl (by simpa using hp)
  · simpa using hp

/-- A change that is entered in an ac is not read in it. -/
theorem CoreState.areg_setAreg_same_ac (m : Nat) : (k.setAreg sg n v).areg sg m = k.areg sg m := by
  by_cases hm : m = 0
  · simp [hm]
  have hnone : ((k.setAreg sg n v).aPend.filter fun p => p.1 < sg && p.2.1 = m) = [] := by
    rw [List.filter_eq_nil_iff]
    intro p hp
    rcases CoreState.mem_setAreg_aPend hp with ⟨-, hge⟩ | rfl
    · simp [Nat.not_lt.2 hge]
    · simp
  rw [CoreState.areg, CoreState.areg, if_neg hm, if_neg hm, hnone]
  show tblGet 0 ((k.aPend.filter fun p => decide (p.1 < sg)).foldl (fun t p => tblSet 0 t p.2.1 p.2.2) k.aregs) m = _
  rw [tblGet_foldl_tblSet, List.filter_filter]
  simp only [Bool.and_comm]

section
variable {k sg}
variable (hle : ∀ p ∈ k.aPend, p.1 ≤ sg) (hsorted : (k.aPend.map Prod.fst).Pairwise (· ≤ ·))
include hle

/-- A change entered in the latest ac so far keeps every change within it. -/
theorem CoreState.setAreg_aPend_le : ∀ p ∈ (k.setAreg sg n v).aPend, p.1 ≤ sg := by
  intro p hp
  rcases CoreState.mem_setAreg_aPend hp with ⟨hp, -⟩ | rfl
  · exact hle p hp
  · exact Nat.le_refl sg

/-- The changes that remain are those of the one ac, which is in order. -/
theorem CoreState.setAreg_aPend_sorted : ((k.setAreg sg n v).aPend.map Prod.fst).Pairwise (· ≤ ·) := by
  have hge : ∀ x ∈ (k.setAreg sg n v).aPend.map Prod.fst, x = sg := by
    intro x hx
    obtain ⟨p, hp, rfl⟩ := List.mem_map.1 hx
    have hup := CoreState.setAreg_aPend_le n v hle p hp
    rcases CoreState.mem_setAreg_aPend hp with ⟨-, hlow⟩ | rfl
    · omega
    · rfl
  exact List.pairwise_of_forall_mem_list fun x hx y hy => Nat.le_of_eq ((hge x hx).trans (hge y hy).symm)

include hsorted in
/-- Ops that start later read the change; every other register, and a0, read as before. -/
theorem CoreState.areg_setAreg_later {later : Nat} (hl : sg < later) (m : Nat) :
    (k.setAreg sg n v).areg later m = if m = 0 then 0 else if m = n then v else k.areg later m := by
  by_cases hm : m = 0
  · simp [hm]
  rw [if_neg hm,
    CoreState.areg_of_all_lt hm fun p hp => Nat.lt_of_le_of_lt (CoreState.setAreg_aPend_le n v hle p hp) hl,
    CoreState.areg_of_all_lt hm fun p hp => Nat.lt_of_le_of_lt (hle p hp) hl]
  show List.foldl _ (tblGet 0 ((k.aPend.filter fun p => decide (p.1 < sg)).foldl _ k.aregs) m) _ = _
  rw [tblGet_foldl_tblSet, ← List.foldl_append, ← List.filter_append]
  unfold CoreState.setAreg
  dsimp only
  by_cases hn : n = 0
  · rw [if_pos hn, filter_lt_append_filter_ge sg hsorted, if_neg (hn ▸ hm)]
  · rw [if_neg hn, ← List.append_assoc, filter_lt_append_filter_ge sg hsorted, List.filter_append]
    by_cases hmn : m = n
    · simp [hmn]
    · simp [hmn, Ne.symm hmn]

end
end

/-- An op of a core that enters a change of an address register changes that core alone. -/
theorem State.areg_op_effect (a : State) (c : CoreId) (w : OpWord) (sg n : Nat) (v : BitVec 23) :
    CoreGets a c { (a.core c).setAreg sg n v with
      iss := a.settled (.core c) (nextWord a (.core c) w sg 1 (sg + 1)) } Ev.zero
      ((a.setCore c ((a.core c).setAreg sg n v)).issued (.core c) w sg 1 (sg + 1)) :=
  (CoreGets.of_setCore a c ((a.core c).setAreg sg n v)).issued rfl w sg 1 (sg + 1)

end Sys2Proof.Machine

namespace Sys2Proof.Proofs

open Sys2Proof.Machine Sys2Proof.Safety

/-- Settles O5: the two ops enter a change in their ac, and a read finds the changes of earlier ac, of which the latest
prevails. -/
theorem addressRegisters : Obligations.AddressRegisters := by
  intro s c w v a sg k effect
  refine ⟨fun h => ?_, fun h => ?_, fun hle hsorted => ⟨fun m later hl => ?_, fun m => ?_, ?_, ?_⟩⟩
  · exact ⟨_, congrArg Host.Outcome.next (State.runOp_of_issues h _), State.areg_op_effect ..⟩
  · exact ⟨_, congrArg Host.Outcome.next (State.runOp_of_issues h _), State.areg_op_effect ..⟩
  · exact CoreState.areg_setAreg_later _ v hle hsorted hl m
  · exact CoreState.areg_setAreg_same_ac ..
  · exact CoreState.setAreg_aPend_le _ v hle
  · exact CoreState.setAreg_aPend_sorted _ v hle

end Sys2Proof.Proofs

/-! FLOAD (03 R85-R88): what it puts in flight, and what its pushes, rows and reads do. -/

namespace Sys2Proof.Machine

open Sys2Proof.Safety

/-! ### Queues -/

/-- A queue after one of the queues is changed. -/
theorem CoreState.queue_tblMod (k : CoreState) (q : Nat) (g : List FeedRow → List FeedRow) (u : Nat) :
    CoreState.queue { k with feed := tblMod [] k.feed q g } u = if u = q then g (k.queue q) else k.queue u :=
  tblGet_set ..

/-- A job that changes one queue changes its core's queues alone, and there no other queue. -/
theorem coreGets_queue (s : State) (c : CoreId) (q : Nat) (g : List FeedRow → List FeedRow) {t : State}
    (ht : t = s.setCore c { s.core c with feed := tblMod [] (s.core c).feed q g }) :
    CoreGets s c { s.core c with feed := (t.core c).feed } Ev.zero t ∧
      (∀ u, u ≠ q → (t.core c).queue u = (s.core c).queue u) ∧ (t.core c).queue q = g ((s.core c).queue q) := by
  have hcore : t.core c = { s.core c with feed := tblMod [] (s.core c).feed q g } := ht ▸ State.core_setCore_same ..
  refine ⟨?_, fun u hu => ?_, ?_⟩
  · rw [hcore, ht]; exact .of_setCore ..
  · rw [hcore, CoreState.queue_tblMod, if_neg hu]
  · rw [hcore, CoreState.queue_tblMod, if_pos rfl]

section
variable {s : State} {c : CoreId} {f : Flight}

/-- A row that finds a position free joins the tail of its queue (03 R86). -/
theorem State.jobPush_free {q : Nat} (h : ((s.core c).queue q).length < 8) (sg i v : Nat) :
    s.jobPush c f sg q i v = s.setCore c { s.core c with
      feed := tblMod [] (s.core c).feed q (· ++
        [{ id := f.id, op := f.op, k := i, fmt := opFmt f.word, words := [], scales := [], validFrom := v }]) } := by
  simp only [State.jobPush, ge_iff_le, Nat.not_le.2 h, if_false]

/-- A ninth position is a fault of the row's FLOAD (03 R86). -/
theorem State.jobPush_full {q : Nat} (h : 8 ≤ ((s.core c).queue q).length) (sg i v : Nat) :
    s.jobPush c f sg q i v = s.flightFault c f fOverflow sg q := by
  simp only [State.jobPush, ge_iff_le, h, if_true]

/-- What a row holds once it is whole, by its number among the op's rows (03 R84, R87). -/
theorem Flight.rowOf_eq (f : Flight) {r : FeedRow} {i : Nat} (h : r.k = i) :
    f.rowOf r = { r with
      words := (List.range (rowWords (opFmt f.word))).map fun b => tblGet 0 f.got (rowWordOff (opFmt f.word) i b)
      scales := if rowBlocks (opFmt f.word) = 0 then []
        else rowScales (opFmt f.word) i (tblGet 0 f.got (scaleWordOff (opFmt f.word) i)) } := by
  subst h
  rfl

end

end Sys2Proof.Machine

namespace Sys2Proof.Proofs

open Sys2Proof.Machine Sys2Proof.Safety

/-- Settles O13: the op goes into flight with the jobs of its rows and reads; each job is then the step of 03 R86 and R87,
or the fault that ends the op. -/
theorem floadPushes : Obligations.FloadPushes := by
  refine ⟨fun s c w => ?_, fun s c f at' q i v x j hf => ?_⟩
  · intro a sg k fmt off n busy id accs first last h hfree
    refine ⟨_, congrArg Host.Outcome.next (State.runOp_of_issues h _), ?_⟩
    exact SramFree.launch (accs := fun off => sramRun off n true (floadAc w sg)) hfree busy (sg + busy + 2) fun off =>
      (List.range (floadN w)).flatMap (rowJobs w id sg) ++ readJobs id (sramBase c + off) n (floadAc w sg)
  intro k fmt push row read others
  have hpush : push = s.jobPush c f at' q i v := State.runJob_of_flies hf rfl at' false
  have hrow : row = s.jobRow c f q i := State.runJob_of_flies hf rfl at' true
  have hread : read = s.jobRead c f at' j x := State.runJob_of_flies hf rfl at' false
  refine ⟨fun hlen => ?_, fun hlen => ?_, ?_, fun hgood => ?_, fun hbad => ?_⟩
  · rw [State.jobPush_free hlen] at hpush
    exact coreGets_queue s c q _ hpush
  · rw [hpush, State.jobPush_full hlen]
    exact ⟨State.flightFault_stops .., State.flight_flightFault ..⟩
  · obtain ⟨hgets, hothers, hq⟩ := coreGets_queue s c q _ hrow
    refine ⟨hgets, hothers, hq.trans (List.map_congr_left fun r _ => ?_)⟩
    split
    next hr => exact f.rowOf_eq hr.2
    next => rfl
  · rw [hread]
    exact State.jobRead_good hgood at' j
  · rw [hread, State.jobRead_bad hbad]
    exact ⟨State.flightFault_stops .., State.flight_flightFault ..⟩

end Sys2Proof.Proofs

/-! DRAIN (03 R89, R90): what it puts in flight, and what the reads of its slots and its writes do. -/

namespace Sys2Proof.Machine

open Sys2Proof.Safety

/-- Values at the keys that their places give. -/
theorem map_zipIdx_eq_zip {α β : Type} (g : Nat → β) (l : List α) :
    (l.zipIdx.map fun p => (g p.2, p.1)) = ((List.range l.length).map g).zip l := by
  apply List.ext_getElem
  · simp
  · intro i h1 h2
    simp

@[simp] theorem CoreState.slot_length (k : CoreState) (a : Nat) : (k.slot a).length = 128 := by simp [CoreState.slot]

/-- A fill reaches the results on their way to the same lanes at the same ac. -/
theorem CoreState.fillResult_zip (k : CoreState) (ready : Nat) {keys : List Nat} {vals : List F32}
    (h : keys.length = vals.length) :
    k.fillResult ready (keys.zip vals) = { k with
      vPend := k.vPend.map fun r =>
        if r.ready = ready ∧ r.vals.map Prod.fst = keys then { r with vals := keys.zip vals } else r } := by
  rw [CoreState.fillResult, List.map_fst_zip (Nat.le_of_eq h)]

section
variable {s : State} {c : CoreId} {f : Flight} {sg i : Nat}
variable (hready : tblGet 0 (s.core c).accReady (drainAcc f.word + i) ≤ sg)
include hready

/-- A slot that goes to core SRAM is kept as words with those of the op. -/
theorem State.jobDrain_sram (h : opCode f.word = 1) :
    CoreGets s c ((s.core c).setFlight { f with
        got := tblFill 0 f.got (drainPer f.word * i) (slotWords (opFmt f.word) ((s.core c).slot (drainAcc f.word + i))).1 })
      (slotWords (opFmt f.word) ((s.core c).slot (drainAcc f.word + i))).2 (s.jobDrain c f sg i) := by
  simp only [State.jobDrain, gt_iff_lt, Nat.not_lt.2 hready, if_false, h, if_true]
  exact .of_setCore_gather ..

/-- A slot that goes to a register gives the result on its way there its values. -/
theorem State.jobDrain_vreg (h : opCode f.word = 2) :
    CoreGets s c ((s.core c).fillResult (sg + 3)
        (((List.range 128).map (drainLane f.word i)).zip ((s.core c).slot (drainAcc f.word + i)))) Ev.zero
      (s.jobDrain c f sg i) := by
  have h1 : opCode f.word ≠ 1 := by omega
  simp only [State.jobDrain, gt_iff_lt, Nat.not_lt.2 hready, if_false, h1, map_zipIdx_eq_zip, CoreState.slot_length]
  exact .of_setCore ..

end

/-- A unit's write leaves its word good. -/
@[simp] theorem State.eccOf_unitWrite_same (s : State) (a : Nat) (w : EccWord) : (s.unitWrite a w).eccOf a = 0 := by
  simp [State.eccOf, State.unitWrite_ecc]

/-- A byte outside the word written keeps its value. -/
theorem State.readByte_unitWrite_out (s : State) {a x : Nat} (w : EccWord) (h : x < a ∨ a + 32 ≤ x) :
    readByte (s.unitWrite a w).mem x = readByte s.mem x := by
  rw [State.unitWrite_mem]
  exact readByte_writeBytes_out _ _ (by simpa [bytesOfWord] using h)

end Sys2Proof.Machine

namespace Sys2Proof.Proofs

open Sys2Proof.Machine Sys2Proof.Safety

/-- Settles O15: the op goes into flight with one read an ac, and with its writes or with results ahead; a read keeps the
slot's words or fills its result, and a write stores a word. -/
theorem drains : Obligations.Drains := by
  refine ⟨fun s c w => ?_, fun s c f at' i j x hf => ?_⟩
  · intro a sg k off n id per accs reads ahead
    refine ⟨fun h hfree => ⟨_, congrArg Host.Outcome.next (State.runOp_of_issues h _), ?_⟩,
      fun h => ⟨_, congrArg Host.Outcome.next (State.runOp_of_issues h _), ?_⟩⟩
    · exact SramFree.launch (accs := fun off => sramRun off (per * n) false fun j => sg + j / per + 2) hfree n (sg + n + 2)
        fun off => drainReads w id sg ++ putJobs id (sramBase c + off) (per * n) fun j => sg + j / per + 2
    · have hahead :
          ahead = (List.range n).map fun i => resultAhead (sg + i + 3) ((List.range 128).map (drainLane w i)) := by
        simp only [ahead, resultAhead, List.map_map]
        rfl
      have hset := CoreGets.of_setCore a c (k.addResults ahead)
      have hlaunch := hset.launch rfl w sg 0 n (sg + n + 2) (drainReads w id sg)
      rw [hahead] at hlaunch ⊢
      exact hlaunch
  · intro k w per vals narrow keys fill drain put
    have hdrain : drain = s.jobDrain c f at' i := State.runJob_of_flies hf rfl at' false
    have hput : put = s.unitWrite x (tblGet 0 f.got j) := State.runJob_of_flies hf rfl at' true
    refine ⟨fun hready => ⟨fun hcode => ?_, fun hcode => ?_⟩, ?_, ?_, ?_, fun y hy => ?_⟩
    · rw [hdrain]
      exact State.jobDrain_sram hready hcode
    · rw [hdrain]
      have hgets := State.jobDrain_vreg hready hcode
      rwa [CoreState.fillResult_zip _ _ (by simp)] at hgets
    · rw [hput]; exact State.unitWrite_frame ..
    · rw [hput, State.word_unitWrite_same]
    · rw [hput, State.eccOf_unitWrite_same]
    · rw [hput, State.readByte_unitWrite_out _ _ hy]

end Sys2Proof.Proofs

/-! Well controllers (04 R119-R124; 05 R188): which merge group a descriptor joins, what the oldest group puts in flight,
and what the read of a flit's words does. -/

namespace Sys2Proof.Machine

/-- A well takes up what is due in an ac of a stroke that has begun. -/
theorem State.takesUp {s : State} {a : Nat} (hissuing : s.issuing = true) (hbegun : a / 1024 ≤ s.umpire.stroke) :
    (!s.issuing || decide (a / 1024 > s.umpire.stroke)) = false :=
  Bool.or_eq_false_iff.2 ⟨congrArg not hissuing, decide_eq_false (Nat.not_lt.2 hbegun)⟩

/-! ### Merge groups (04 R121) -/

section
variable {a x l : Nat} (core : Nat)

/-- A descriptor joins the first group of equal operands whose window is open. -/
theorem joinGroup_of_open {before after : List MergeGroup} {g : MergeGroup}
    (hbefore : ∀ h ∈ before, ¬ (h.xword = x ∧ h.len = l ∧ a ≤ h.first + 7))
    (hopen : g.xword = x ∧ g.len = l ∧ a ≤ g.first + 7) :
    joinGroup a x l core (before ++ g :: after) = before ++ { g with members := g.members ++ [(a, core)] } :: after := by
  induction before with
  | nil => exact if_pos hopen
  | cons h before ih =>
    obtain ⟨hh, hbefore⟩ := List.forall_mem_cons.1 hbefore
    rw [List.cons_append, joinGroup, if_neg hh, ih hbefore, List.cons_append]

/-- Where no group is open to it, a descriptor opens its own. -/
theorem joinGroup_of_closed {gs : List MergeGroup}
    (hclosed : ∀ h ∈ gs, ¬ (h.xword = x ∧ h.len = l ∧ a ≤ h.first + 7)) :
    joinGroup a x l core gs = gs ++ [{ first := a, xword := x, len := l, members := [(a, core)] }] := by
  induction gs with
  | nil => rfl
  | cons h gs ih =>
    obtain ⟨hh, hclosed⟩ := List.forall_mem_cons.1 hclosed
    rw [joinGroup, if_neg hh, ih hclosed, List.cons_append]

/-- The oldest descriptor on the way arrives, in an ac of a stroke that has begun. -/
theorem State.descriptorArrival_eq {s : State} {w : RegionId} {core : Nat} {rest : List (Nat × Nat × Nat × Nat)}
    (hissuing : s.issuing = true) (hinbox : (s.well w).inbox = (a, x, l, core) :: rest) (hbegun : a / 1024 ≤ s.umpire.stroke) :
    s.descriptorArrival w = (s.advanceSigma a).setWell w
      { s.well w with inbox := rest, groups := joinGroup a x l core (s.well w).groups } := by
  simp only [State.descriptorArrival, hinbox, State.takesUp hissuing hbegun, Bool.false_eq_true, if_false]

end

/-! ### The read of a group (04 R122-R124) -/

/-- Entering a read keeps every other read due. -/
theorem insertRead_perm (r : WellRead) (l : List WellRead) : (insertRead r l).Perm (l ++ [r]) := by
  induction l with
  | nil => rfl
  | cons x l ih =>
    unfold insertRead
    split
    · exact (List.perm_append_singleton r (x :: l)).symm
    · exact ih.cons x

theorem foldl_insertRead_perm (rs l : List WellRead) : (rs.foldl (fun l r => insertRead r l) l).Perm (l ++ rs) := by
  induction rs generalizing l with
  | nil => simp
  | cons r rs ih =>
    calc (rs.foldl (fun l r => insertRead r l) (insertRead r l)).Perm (insertRead r l ++ rs) := ih _
      _ |>.Perm ((l ++ [r]) ++ rs) := (insertRead_perm r l).append_right rs
      _ = l ++ r :: rs := List.append_cons l r rs |>.symm

/-- The sigma in which each reply flit of a group is read, and that in which it is presented (04 R122, R123). -/
def groupTimes (g : MergeGroup) : List (Nat × Nat) :=
  (g.members.map Prod.fst).eraseDups.flatMap fun a =>
    (List.range (ceilDiv g.len 8)).map fun f => (g.first + 8 + f, a + 9 + f)

theorem groupReplies_times (w : RegionId) (g : MergeGroup) :
    (groupReplies w g).map (fun f => (g.first + 8 + f.nth, f.at')) = groupTimes g := by
  simp only [groupReplies, groupTimes, List.map_flatMap, List.map_map, Function.comp_def]

/-- The reads of a group that are due, one for each flit. -/
def groupReads (g : MergeGroup) : List WellRead :=
  (List.range (ceilDiv g.len 8)).map fun f =>
    { at' := g.first + 8 + f, xword := g.xword, len := g.len, flit := f, id := groupId g, cores := g.members.map Prod.snd }

/-- The reply flits that a well still counts with those of a group. -/
def WellState.repliesWith (k : WellState) (g : MergeGroup) : List (Nat × Nat) :=
  k.replies.filter (fun p => p.2 + 2048 ≥ g.first + 8) ++ groupTimes g

/-- A well that reads its oldest group, of which the groups gs are left. -/
def WellState.reading (k : WellState) (g : MergeGroup) (gs : List MergeGroup) : WellState :=
  { k with
    groups := gs
    replies := k.repliesWith g
    reads := (groupReads g).foldl (fun l r => insertRead r l) k.reads
    bankUse := groupBanks g ++ k.bankUse.filter fun b => b ≥ (g.first + 8 - 2048) * 16 }

/-- What lets a well read a group without a fault: its banks are free, no two flits are presented in one ac, and at most 16
reply flits are held (04 R119, R124). -/
structure WellState.Answers (k : WellState) (g : MergeGroup) : Prop where
  banksFree : ∀ b ∈ groupBanks g, b ∉ k.bankUse
  apart : ((groupTimes g).map Prod.snd).Nodup
  unused : ∀ p ∈ groupTimes g, ∀ q ∈ k.replies, q.2 ≠ p.2
  held : ∀ p ∈ k.repliesWith g, heldReplies (k.repliesWith g) (p.1 + 1) ≤ 16

/-- The oldest group leaves the well, its reads fall due and its replies are put in flight. -/
theorem State.groupRead_eq {s : State} {w : RegionId} {g : MergeGroup} {gs : List MergeGroup} (hissuing : s.issuing = true)
    (hgroups : (s.well w).groups = g :: gs) (hbegun : (g.first + 8) / 1024 ≤ s.umpire.stroke)
    (husable : s.wellUsable w = true) (h : (s.well w).Answers g) :
    s.groupRead w = { ((s.advanceSigma (g.first + 8)).setWell w { s.well w with groups := gs }).setWell w
      ((s.well w).reading g gs) with flits := s.flits ++ groupReplies w g } := by
  have hbanks : (groupBanks g).any ((s.well w).bankUse.contains ·) = false := by
    simpa only [List.contains_eq_mem, List.any_eq_false, decide_eq_true_eq] using h.banksFree
  have hunused : (groupTimes g).any (fun t => (s.well w).replies.any fun p => p.2 = t.2) = false := by
    simpa only [List.any_eq_false, decide_eq_true_eq, List.any_eq_true, not_exists, not_and] using h.unused
  have hheld : ((s.well w).repliesWith g).any
      (fun p => decide (heldReplies ((s.well w).repliesWith g) (p.1 + 1) > 16)) = false := by
    simpa only [List.any_eq_false, decide_eq_true_eq, Nat.not_lt] using h.held
  have hapart : (!decide ((groupTimes g).map Prod.snd).Nodup) = false := congrArg not (decide_eq_true h.apart)
  have hclash := Bool.or_eq_false_iff.2
    ⟨Bool.or_eq_false_iff.2 ⟨Bool.or_eq_false_iff.2 ⟨hbanks, hunused⟩, hapart⟩, hheld⟩
  simp only [State.groupRead, hgroups, State.takesUp hissuing hbegun, husable, groupReplies_times]
  exact if_neg (Bool.eq_false_iff.1 hclash)

/-! ### The words of a flit (04 R122; 05 R188) -/

/-- Words that are all good are read without a count. -/
theorem State.countReads_good {s : State} {as : List Nat} (h : ∀ a ∈ as, s.eccOf a = 0) (req : Nat) :
    s.countReads req as = (s, none) := by
  induction as with
  | nil => rfl
  | cons a as ih =>
    obtain ⟨ha, has⟩ := List.forall_mem_cons.1 h
    have hok : ¬ s.eccOf a ≥ 2 := by omega
    have hcount : s.countRead a req = s := by rw [State.countRead, ha]; rfl
    rw [State.countReads, if_neg hok, hcount, ih has]

/-- The count of a word that is not uncorrectable reaches the registers alone. -/
theorem State.eccOf_countRead {s : State} {a : Nat} (h : s.eccOf a < 2) (req b : Nat) :
    (s.countRead a req).eccOf b = s.eccOf b := by
  obtain h0 | h1 : s.eccOf a = 0 ∨ s.eccOf a = 1 := by omega
  · rw [State.countRead, h0]
    rfl
  · rw [State.countRead, h1]
    rfl

/-- Reads that meet an uncorrectable word are answered by a word. -/
theorem State.countReads_bad {s : State} {as : List Nat} (h : ∃ a ∈ as, 2 ≤ s.eccOf a) (req : Nat) :
    ∃ a, (s.countReads req as).2 = some a := by
  induction as generalizing s with
  | nil => simp at h
  | cons a as ih =>
    unfold State.countReads
    split
    · exact ⟨a, rfl⟩
    next ha =>
      obtain ⟨b, hb, hbad⟩ := h
      rcases List.mem_cons.1 hb with rfl | hb
      · exact absurd hbad ha
      · exact ih ⟨b, hb, by rwa [State.eccOf_countRead (by omega)]⟩

section
variable (s : State) (x l core code sg detail : Nat)

@[simp] theorem State.flits_wreadFault : (s.wreadFault x l core code sg detail).flits = s.flits := by
  obtain ⟨r, h⟩ := State.recordFault_frame (s.setIssue (.core (coreOfNum core))
    { s.issue (.core (coreOfNum core)) with stopped := true }) code (coreOfNum core).uid sg
    ((s.core (coreOfNum core)).wreadOp x l) detail
  unfold State.wreadFault State.coreFaultAt
  rw [h]
  rfl

/-- The core whose WREAD has failed stops. -/
theorem State.wreadFault_stopped :
    ((s.wreadFault x l core code sg detail).core (coreOfNum core)).iss.stopped = true := by
  simp only [State.wreadFault, State.core_coreFaultAt]

/-- A core that has stopped stays so when the WREAD of a core fails. -/
theorem State.wreadFault_keeps_stopped {d : CoreId} (h : (s.core d).iss.stopped = true) :
    ((s.wreadFault x l core code sg detail).core d).iss.stopped = true := by
  by_cases hd : d.num = (coreOfNum core).num
  · have hsame := s.wreadFault_stopped x l core code sg detail
    rwa [State.core, ← hd] at hsame
  · simpa only [State.wreadFault, State.coreFaultAt, State.core_recordFault, State.setIssue_core,
      State.core_setCore_ne _ _ hd] using h

variable (cores : List Nat)

theorem State.flits_wreadFaults :
    (cores.foldl (fun s c => s.wreadFault x l c code sg detail) s).flits = s.flits := by
  induction cores generalizing s with
  | nil => rfl
  | cons c cores ih => rw [List.foldl_cons, ih, State.flits_wreadFault]

theorem State.wreadFaults_keep_stopped {d : CoreId} (h : (s.core d).iss.stopped = true) :
    ((cores.foldl (fun s c => s.wreadFault x l c code sg detail) s).core d).iss.stopped = true := by
  induction cores generalizing s with
  | nil => exact h
  | cons c cores ih => exact ih _ (s.wreadFault_keeps_stopped x l c code sg detail h)

/-- Every core whose WREAD has failed stops. -/
theorem State.wreadFaults_stopped :
    ∀ c ∈ cores, ((cores.foldl (fun s c => s.wreadFault x l c code sg detail) s).core (coreOfNum c)).iss.stopped = true := by
  induction cores generalizing s with
  | nil => simp
  | cons b cores ih =>
    refine List.forall_mem_cons.2 ⟨?_, ih _⟩
    exact State.wreadFaults_keep_stopped _ x l code sg detail cores (s.wreadFault_stopped x l b code sg detail)

end

section
variable {s : State} (w : RegionId) (r : WellRead)

/-- The addresses of the words of a flit. -/
def flitWords : List Nat :=
  (List.range (min 8 (r.len - 8 * r.flit))).map fun j => wellBase w + 32 * (r.xword + 8 * r.flit) + 32 * j

variable {w r}

/-- Good words go into every reply flit that waits for them. -/
theorem State.wellRead_good (h : ∀ a ∈ flitWords w r, s.eccOf a = 0) :
    s.wellRead w r = { s with flits := s.flits.map fun g =>
      if g.from' = r.id ∧ g.nth = r.flit then { g with flit := { g.flit with
        words := (flitWords w r).map s.word ++ List.replicate (8 - min 8 (r.len - 8 * r.flit)) 0 } } else g } := by
  have hcount := State.countReads_good h reqCore
  simp only [flitWords] at hcount
  simp only [State.wellRead, hcount, State.words, flitWords, List.map_map, Function.comp_def]

/-- An uncorrectable word is a bus error of every member, and the group's flits that wait for words are gone. -/
theorem State.wellRead_bad (h : ∃ a ∈ flitWords w r, 2 ≤ s.eccOf a) :
    ∃ (t : State) (a : Nat), (∀ g ∈ t.flits, ¬ (g.from' = r.id ∧ g.flit.words = [])) ∧
      s.wellRead w r = r.cores.foldl (fun s c => s.wreadFault r.xword r.len c fBusEcc r.at' a) t := by
  obtain ⟨a, ha⟩ := State.countReads_bad h reqCore
  simp only [flitWords] at ha
  have hgone : ∀ (l : List InFlight), ∀ g ∈ l.filter fun g => ¬ (g.from' = r.id ∧ g.flit.words = []),
      ¬ (g.from' = r.id ∧ g.flit.words = []) := fun l g hg => of_decide_eq_true (List.mem_filter.1 hg).2
  simp only [State.wellRead, ha]
  exact ⟨_, a, hgone _, rfl⟩

end

end Sys2Proof.Machine

namespace Sys2Proof.Proofs

open Sys2Proof.Machine

/-- Settles O23: an arrival enters its merge group, the oldest group puts its reads and replies in flight, and a read fills
the replies that wait for it or is a bus error of every member. -/
theorem wellsAnswer : Obligations.WellsAnswer := by
  refine ⟨fun s w hissuing => ⟨?_, ?_⟩, fun s w r => ?_⟩
  · intro a x l core rest hinbox hbegun
    refine ⟨_, congrArg Host.Outcome.next (State.descriptorArrival_eq hissuing hinbox hbegun), rfl, ?_⟩
    have hwell := (s.advanceSigma a).well_setWell_same w
      { s.well w with inbox := rest, groups := joinGroup a x l core (s.well w).groups }
    rw [hwell]
    refine ⟨rfl, rfl, rfl, fun y hy => State.well_setWell_ne _ _ hy, ?_, fun hclosed => joinGroup_of_closed core hclosed⟩
    intro before g after hgroups hbefore hx hl ha
    show joinGroup a x l core (s.well w).groups = _
    rw [hgroups]
    exact joinGroup_of_open core hbefore ⟨hx, hl, ha⟩
  · intro g gs hgroups hbegun husable times held hbanks hapart hunused hheld
    have hanswers : (s.well w).Answers g :=
      ⟨List.forall_mem_map.2 fun j hj => hbanks j (List.mem_range.1 hj), hapart, hunused, hheld⟩
    refine ⟨_, congrArg Host.Outcome.next (State.groupRead_eq hissuing hgroups hbegun husable hanswers), rfl, ?_⟩
    have hwell := ((s.advanceSigma (g.first + 8)).setWell w { s.well w with groups := gs }).well_setWell_same w
      ((s.well w).reading g gs)
    refine ⟨congrArg WellState.groups hwell, congrArg WellState.replies hwell, ?_, rfl⟩
    exact (List.Perm.of_eq (congrArg WellState.reads hwell)).trans (foldl_insertRead_perm (groupReads g) _)
  · intro n addr
    refine ⟨fun hgood => ?_, fun hbad => ?_⟩
    · have hwords : (flitWords w r).map s.word = (List.range n).map fun j => s.word (addr j) := List.map_map
      rw [State.wellRead_good (List.forall_mem_map.2 fun j hj => hgood j (List.mem_range.1 hj)), hwords]
    · obtain ⟨j, hj, hecc⟩ := hbad
      obtain ⟨t, a, hgone, heq⟩ := State.wellRead_bad ⟨addr j, List.mem_map_of_mem (List.mem_range.2 hj), hecc⟩
      rw [heq, State.flits_wreadFaults]
      exact ⟨State.wreadFaults_stopped t _ _ _ _ _ _, hgone⟩

end Sys2Proof.Proofs

/-! VREAD and VWRITE (05 R176, R177): what a transfer claims at its vault, what its corrected symbols mark, and when they
retire its core (05 R182, R183). -/

namespace Sys2Proof.Machine

open Sys2Proof.Safety

/-- States of the same vaults. -/
theorem State.vault_of_vaults {s t : State} (h : t.vaults = s.vaults) (d : CoreId) : t.vault d = s.vault d := by
  rw [State.vault, h, State.vault]

/-! ### Corrected symbols (05 R182, R183) -/

/-- The corrected symbols of the last second, those of a transfer that ends now included. -/
def VaultState.recent (v : VaultState) (now : Time) (bonds : List Nat) : List (Nat × Time) :=
  (v.symbols.filter fun p => p.2 + 1000 * msUnits > now) ++ bonds.map fun b => (b, now)

/-- The bonds that are marked for replacement once these symbols are counted. -/
def VaultState.marked (v : VaultState) (now : Time) (bonds : List Nat) : List Nat :=
  (bonds.filter fun b => decide (((v.recent now bonds).filter fun p => p.1 = b).length ≥ 8)).foldl
    (fun l b => if l.contains b then l else l ++ [b]) v.dueBonds

/-- A vault once the corrected symbols of a transfer are counted. -/
def VaultState.corrected (v : VaultState) (now : Time) (bonds : List Nat) : VaultState :=
  { v with symbols := v.recent now bonds, dueBonds := v.marked now bonds }

/-- Entering what a list does not hold yet adds just that. -/
theorem mem_foldl_insert {bs l : List Nat} {b : Nat} :
    b ∈ bs.foldl (fun l b => if l.contains b then l else l ++ [b]) l ↔ b ∈ l ∨ b ∈ bs := by
  induction bs generalizing l with
  | nil => simp
  | cons x bs ih =>
    rw [List.foldl_cons, ih, List.mem_cons]
    split
    next hx =>
      have hxl : x ∈ l := by simpa using hx
      exact ⟨fun h => h.imp_right .inr, fun h => by rcases h with h | rfl | h <;> simp [*]⟩
    next => simp [or_assoc]

/-- A bond is marked that was so before, or whose symbols of the last second are eight. -/
theorem VaultState.mem_marked {v : VaultState} {now : Time} {bonds : List Nat} {b : Nat} :
    b ∈ v.marked now bonds ↔
      b ∈ v.dueBonds ∨ (b ∈ bonds ∧ 8 ≤ ((v.recent now bonds).filter fun p => p.1 = b).length) := by
  rw [VaultState.marked, mem_foldl_insert, List.mem_filter, decide_eq_true_eq]

section
variable (s : State) (c : CoreId) (bonds : List Nat)

theorem State.symbols_eq : s.symbols c bonds =
    if (s.vault c).spares + ((s.vault c).marked s.clk.now bonds).length > 32 then
      (s.setVault c ((s.vault c).corrected s.clk.now bonds)).retireCore c
    else s.setVault c ((s.vault c).corrected s.clk.now bonds) := rfl

/-- The retirement of a core reaches no vault's field but the mark of its own. -/
theorem State.retireCore_vault :
    (∃ r, (s.retireCore c).vault c = { s.vault c with retired := r }) ∧
      ∀ d : CoreId, d.num ≠ c.num → (s.retireCore c).vault d = s.vault d := by
  unfold State.retireCore
  dsimp only
  split
  · exact ⟨⟨_, rfl⟩, fun _ _ => rfl⟩
  · simp only [State.setRegN_eq, State.bumpReg_eq, State.vault_setReg, State.setIssue_core, State.vault_setCore]
    exact ⟨⟨true, State.vault_setVault_same s c _⟩, fun d hd => State.vault_setVault_ne s _ hd⟩

/-- The symbols of a transfer are counted at its vault, whether its core retires or not. -/
theorem State.symbols_vault :
    (∃ r, (s.symbols c bonds).vault c = { (s.vault c).corrected s.clk.now bonds with retired := r }) ∧
      ∀ d : CoreId, d.num ≠ c.num → (s.symbols c bonds).vault d = s.vault d := by
  have hsame := s.vault_setVault_same c ((s.vault c).corrected s.clk.now bonds)
  have hne := fun (d : CoreId) (hd : d.num ≠ c.num) => s.vault_setVault_ne ((s.vault c).corrected s.clk.now bonds) hd
  rw [State.symbols_eq]
  split
  · obtain ⟨⟨r, hr⟩, hothers⟩ := (s.setVault c ((s.vault c).corrected s.clk.now bonds)).retireCore_vault c
    exact ⟨⟨r, hr.trans (by rw [hsame])⟩, fun d hd => (hothers d hd).trans (hne d hd)⟩
  · exact ⟨⟨_, hsame⟩, hne⟩

end

section
variable {s : State} {c : CoreId} {bonds : List Nat}

/-- A core that retires issues no further op, and is counted with its unit (05 R183). -/
theorem State.retireCore_of_live (h : (s.vault c).retired = false) :
    ((s.retireCore c).vault c).retired = true ∧ ((s.retireCore c).core c).iss.stopped = true ∧
      (s.retireCore c).reg 0x5222 3 = holdAdd (s.reg 0x5222 3) 1 ∧
      (s.retireCore c).reg 0x5222 4 = BitVec.ofNat 64 c.uid := by
  simp only [State.retireCore, h, Bool.false_eq_true, if_false]
  refine ⟨?_, ?_, ?_, State.reg_setReg_same ..⟩
  · simp only [State.setRegN_eq, State.bumpReg_eq, State.vault_setReg, State.setIssue_core, State.vault_setCore,
      State.vault_setVault_same]
  · simp [State.setIssue_core]
  · rw [State.setRegN_eq, State.reg_setReg_ne _ _ (by decide), State.bumpReg_eq, State.reg_setReg_same]
    rfl

/-- While there are spares for the bonds marked, the vault alone changes (05 R182). -/
theorem State.symbols_of_spares
    (h : (s.vault c).spares + ((s.vault c).marked s.clk.now bonds).length ≤ 32) :
    s.symbols c bonds = s.setVault c ((s.vault c).corrected s.clk.now bonds) := by
  rw [State.symbols_eq, if_neg (Nat.not_lt.2 h)]

/-- One bond more than there are spares retires the core at once (05 R183). -/
theorem State.symbols_retire
    (h : 32 < (s.vault c).spares + ((s.vault c).marked s.clk.now bonds).length) (hlive : (s.vault c).retired = false) :
    ((s.symbols c bonds).vault c).retired = true ∧ ((s.symbols c bonds).core c).iss.stopped = true ∧
      (s.symbols c bonds).reg 0x5222 3 = holdAdd (s.reg 0x5222 3) 1 ∧
      (s.symbols c bonds).reg 0x5222 4 = BitVec.ofNat 64 c.uid := by
  rw [State.symbols_eq, if_pos h]
  refine State.retireCore_of_live (s := s.setVault c ((s.vault c).corrected s.clk.now bonds)) ?_
  rw [State.vault_setVault_same]
  exact hlive

end

/-! ### A transfer -/

/-- A vault whose bank and channel a transfer uses. -/
def VaultState.claiming (v : VaultState) (sg bank : Nat) (acs chan : List Nat) (up : Bool) : VaultState :=
  { v with bankUse := acs.map (· * 16 + bank) ++ v.bankUse.filter (· ≥ sg * 16)
           chanUse := (chan.map fun x => (x, up)) ++ v.chanUse.filter fun p => p.1 + 1 ≥ sg }

/-- A transfer in flight, its bank, its channel and its SRAM accesses claimed. -/
def State.transfer (a : State) (c : CoreId) (w : OpWord) (sg : Nat) (acs chan : List Nat) (up : Bool) (fin : Nat)
    (claims : List SramAcc) (jobs : List Job) : State :=
  ((a.setCore c (claimed (a.core c) sg claims)).claimVault c sg (moveBank w) acs chan up).launch c w sg
    ((a.core c).effOffset w sg) (ceilDiv (moveLen w) 4) fin jobs

section
variable {a : State} {c : CoreId} {w : OpWord} {sg : Nat} {bonds : List Nat}

/-- A transfer that its vault takes goes into flight, and its symbols are counted. -/
theorem State.vaultMove_eq {write : Bool} {acs chan : List Nat} {fin : Nat} {sram : Nat → Nat}
    {jobs : Nat → Nat → Nat → List Job} (hbank : moveXword w + moveLen w ≤ 917504) (hdead : a.vaultDead c = false)
    (hdrain : (write && a.vaultDrain c) = false) (hconflict : a.vaultConflict c (moveBank w) acs chan (!write) = false)
    (hfree : SramFree a c w sg (sramRun ((a.core c).effOffset w sg) (moveLen w) write sram)) :
    a.vaultMove c w sg write bonds acs chan fin sram jobs =
      (a.transfer c w sg acs chan (!write) fin (sramRun ((a.core c).effOffset w sg) (moveLen w) write sram)
        (jobs (flightId sg (a.core c).iss.idx) (sramBase c + (a.core c).effOffset w sg)
          (bankBase c (moveBank w) + 32 * moveXword w))).symbols c bonds := by
  have hrefuses : a.vaultRefuses c w write = none := by
    simp only [State.vaultRefuses, gt_iff_lt, Nat.not_lt.2 hbank, if_false, hdead, hdrain, Bool.or_self, Bool.false_eq_true]
  simp only [State.vaultMove, hrefuses, hconflict, Bool.false_eq_true, if_false,
    hfree.withSram (accs := fun off => sramRun off (moveLen w) write sram), State.nextId, State.core_setCore_same]
  rfl

section
variable (hbank : moveXword w + moveLen w ≤ 917504) (hdead : a.vaultDead c = false)
include hbank hdead

/-- VREAD: bank, channel, then core SRAM (05 R176). -/
theorem State.vread_eq
    (hconflict : a.vaultConflict c (moveBank w) (bankAcs (sg + 3) (moveLen w)) (span (sg + 13) (ceilDiv (moveLen w) 4))
      true = false)
    (hfree : SramFree a c w sg
      (sramRun ((a.core c).effOffset w sg) (moveLen w) false fun j => sg + 14 + j / 4)) :
    a.vread c w sg bonds =
      (a.transfer c w sg (bankAcs (sg + 3) (moveLen w)) (span (sg + 13) (ceilDiv (moveLen w) 4)) true
        (sg + 14 + ceilDiv (moveLen w) 4)
        (sramRun ((a.core c).effOffset w sg) (moveLen w) false fun j => sg + 14 + j / 4)
        (readJobs (flightId sg (a.core c).iss.idx) (bankBase c (moveBank w) + 32 * moveXword w) (moveLen w)
            (fun j => sg + 3 + 2 * (j / 8)) ++
          putJobs (flightId sg (a.core c).iss.idx) (sramBase c + (a.core c).effOffset w sg) (moveLen w)
            fun j => sg + 14 + j / 4)).symbols c bonds := by
  unfold State.vread
  exact State.vaultMove_eq hbank hdead rfl hconflict hfree

/-- VWRITE: core SRAM, channel, then bank (05 R177). -/
theorem State.vwrite_eq (hdrain : a.vaultDrain c = false)
    (hconflict : a.vaultConflict c (moveBank w) (bankAcs (sg + 5) (moveLen w)) (span (sg + 3) (ceilDiv (moveLen w) 4))
      false = false)
    (hfree : SramFree a c w sg (sramRun ((a.core c).effOffset w sg) (moveLen w) true fun j => sg + j / 4)) :
    a.vwrite c w sg bonds =
      (a.transfer c w sg (bankAcs (sg + 5) (moveLen w)) (span (sg + 3) (ceilDiv (moveLen w) 4)) false
        (sg + 7 + 2 * ceilDiv (moveLen w) 8)
        (sramRun ((a.core c).effOffset w sg) (moveLen w) true fun j => sg + j / 4)
        (readJobs (flightId sg (a.core c).iss.idx) (sramBase c + (a.core c).effOffset w sg) (moveLen w)
            (fun j => sg + j / 4) ++
          putJobs (flightId sg (a.core c).iss.idx) (bankBase c (moveBank w) + 32 * moveXword w) (moveLen w)
            fun j => sg + 6 + 2 * (j / 8))).symbols c bonds := by
  unfold State.vwrite
  exact State.vaultMove_eq hbank hdead hdrain hconflict hfree

end

variable (acs chan : List Nat) (up : Bool) (fin : Nat) (claims : List SramAcc) (jobs : List Job)

/-- A transfer in flight has reached its core and its vault alone. -/
theorem State.transfer_frame :
    a.transfer c w sg acs chan up fin claims jobs =
      { a.setVault c ((a.vault c).claiming sg (moveBank w) acs chan up) with
        cores := (a.transfer c w sg acs chan up fin claims jobs).cores } := by
  rfl

/-- The vaults are those of the claim of bank and channel. -/
theorem State.vault_transfer (d : CoreId) :
    (a.transfer c w sg acs chan up fin claims jobs).vault d =
      (a.setVault c ((a.vault c).claiming sg (moveBank w) acs chan up)).vault d :=
  State.vault_of_vaults (by rw [State.transfer_frame]) d

theorem State.transfer_clk : (a.transfer c w sg acs chan up fin claims jobs).clk = a.clk := by
  rw [State.transfer_frame, State.setVault_clk]

theorem State.transfer_regs : (a.transfer c w sg acs chan up fin claims jobs).regs = a.regs := by
  rw [State.transfer_frame, State.setVault_regs]

/-- Its vault left aside, a transfer is an op of its core that goes into flight. -/
theorem State.transfer_flies :
    CoreGets a c (flying a c w sg ((a.core c).effOffset w sg) (ceilDiv (moveLen w) 4) fin jobs
        (claimed (a.core c) sg claims)) Ev.zero
      { a.transfer c w sg acs chan up fin claims jobs with vaults := a.vaults } :=
  (CoreGets.of_setCore a c (claimed (a.core c) sg claims)).launch rfl w sg _ _ fin jobs

end

end Sys2Proof.Machine

namespace Sys2Proof.Proofs

open Sys2Proof.Machine Sys2Proof.Safety

/-- Settles O20: a transfer that its vault takes claims bank and channel and goes into flight, and its corrected symbols
mark bonds or retire its core. -/
theorem vaultMoves : Obligations.VaultMoves := by
  intro s c w bonds a sg k off n base sram busy id v acs accs now recent controller moves hbank hdead
  suffices hacts :
      (SramFree a c w sg (accs 14 false) →
        a.vaultConflict c (moveBank w) (acs (sg + 3)) (span (sg + 13) busy) true = false →
        moves (sg + 3) (sg + 13) true (sg + 14 + busy)
          (readJobs id base n (fun j => sg + 3 + 2 * (j / 8)) ++ putJobs id sram n fun j => sg + 14 + j / 4) (accs 14 false)
          (a.vread c w sg bonds)) ∧
      (a.vaultDrain c = false → SramFree a c w sg (accs 0 true) →
        a.vaultConflict c (moveBank w) (acs (sg + 5)) (span (sg + 3) busy) false = false →
        moves (sg + 5) (sg + 3) false (sg + 7 + 2 * ceilDiv n 8)
          (readJobs id sram n (fun j => sg + j / 4) ++ putJobs id base n fun j => sg + 6 + 2 * (j / 8)) (accs 0 true)
          (a.vwrite c w sg bonds)) from
    ⟨fun h hfree hconflict => ⟨_, congrArg Host.Outcome.next (State.runOp_of_issues h _), hacts.1 hfree hconflict⟩,
      fun h hdrain hfree hconflict =>
        ⟨_, congrArg Host.Outcome.next (State.runOp_of_issues h _), hacts.2 hdrain hfree hconflict⟩⟩
  clear_value a sg
  have hmoves : ∀ (first chan : Nat) (up : Bool) (fin : Nat) (jobs : List Job) (claims : List SramAcc),
      moves first chan up fin jobs claims
        ((a.transfer c w sg (acs first) (span chan busy) up fin claims jobs).symbols c bonds) := by
    intro first chan up fin jobs claims
    have hvaults := State.vault_transfer (a := a) (c := c) (w := w) (sg := sg) (acs first) (span chan busy) up fin claims jobs
    have hflies := State.transfer_flies (a := a) (c := c) (w := w) (sg := sg) (acs first) (span chan busy) up fin claims jobs
    have hclk := State.transfer_clk (a := a) (c := c) (w := w) (sg := sg) (acs first) (span chan busy) up fin claims jobs
    have hregs := State.transfer_regs (a := a) (c := c) (w := w) (sg := sg) (acs first) (span chan busy) up fin claims jobs
    generalize a.transfer c w sg (acs first) (span chan busy) up fin claims jobs = u at hvaults hflies hclk hregs ⊢
    have hown := (hvaults c).trans (State.vault_setVault_same ..)
    have hreg : u.reg 0x5222 3 = a.reg 0x5222 3 := by simp only [State.reg, hregs]
    obtain ⟨⟨r, hvault⟩, hkept⟩ := u.symbols_vault c bonds
    rw [hown, hclk] at hvault
    have hothers := fun (d : CoreId) (hd : d.num ≠ c.num) => (hvaults d).trans (State.vault_setVault_ne _ _ hd)
    refine ⟨⟨?_, ?_, ?_, ?_, fun b => ?_, fun d hd => (hkept d hd).trans (hothers d hd)⟩, fun hspares => ?_,
      fun hover hlive => ?_⟩
    iterate 4 rw [hvault]; rfl
    · rw [hvault]; exact VaultState.mem_marked
    · rw [hvault] at hspares
      have hcount : (u.vault c).spares + ((u.vault c).marked u.clk.now bonds).length ≤ 32 := by rw [hown, hclk]; exact hspares
      exact ⟨{ u with vaults := a.vaults }, by rw [State.symbols_of_spares hcount]; rfl, hflies⟩
    · rw [hvault] at hover
      have hcount : 32 < (u.vault c).spares + ((u.vault c).marked u.clk.now bonds).length := by rw [hown, hclk]; exact hover
      exact hreg ▸ State.symbols_retire hcount (by rw [hown]; exact hlive)
  refine ⟨fun hfree hconflict => ?_, fun hdrain hfree hconflict => ?_⟩
  · rw [State.vread_eq hbank hdead hconflict hfree]
    exact hmoves (sg + 3) (sg + 13) true _ _ _
  · rw [State.vwrite_eq hbank hdead hdrain hconflict hfree]
    exact hmoves (sg + 5) (sg + 3) false _ _ _

end Sys2Proof.Proofs

/-! Refresh and patrol scrub (05 R186, R192-R195): what an upset reaches, what the count of a read records, and what a
scrub's rewrite and its pass leave. -/

namespace Sys2Proof.Machine

/-! ### Refresh (05 R186, R192) -/

/-- A fold keeps what each of its steps keeps. -/
theorem foldl_keeps {α β : Type} {f : State → α → State} (g : State → β) {l : List α}
    (h : ∀ s, ∀ x ∈ l, g (f s x) = g s) (s : State) : g (l.foldl f s) = g s := by
  induction l generalizing s with
  | nil => rfl
  | cons x l ih =>
    obtain ⟨hx, hl⟩ : (∀ s, g (f s x) = g s) ∧ ∀ s, ∀ y ∈ l, g (f s y) = g s :=
      ⟨fun s => h s x (.head _), fun s y hy => h s y (.tail _ hy)⟩
    rw [List.foldl_cons, ih hl, hx]

/-- An error reaches storage and its check states. -/
theorem State.upset_frame (s : State) (x : Upset) :
    s.upset x = { s with mem := (s.upset x).mem, ecc := (s.upset x).ecc, opStores := (s.upset x).opStores } := by
  unfold State.upset
  cases x.place with
  | word a => dsimp only; split <;> rfl
  | opWords c i =>
    dsimp only
    split
    · rfl
    · cases x.data <;> rfl

/-- An error that changes no data leaves every byte. -/
theorem State.upset_mem {x : Upset} (h : x.data = none) (s : State) : (s.upset x).mem = s.mem := by
  unfold State.upset
  rw [h]
  cases x.place with
  | word a => dsimp only; split <;> rfl
  | opWords c i => dsimp only; split <;> rfl

/-- A vault whose bank has its next row refreshed in a slot. -/
def VaultState.refreshing (v : VaultState) (bank slot : Nat) (now : Time) : VaultState :=
  let row := (tblGet 0 v.refreshRow bank + 1) % 3584
  { v with
    bankUse := (slot * 16 + bank) :: v.bankUse
    refreshRow := tblSet 0 v.refreshRow bank row
    refreshes := tblMod 0 v.refreshes bank (· + 1)
    roundAt := if row = 0 then tblPut v.roundAt bank now else v.roundAt }

theorem VaultState.refreshing_refreshes (v : VaultState) (bank slot : Nat) (now : Time) :
    tblGet 0 (v.refreshing bank slot now).refreshes bank = tblGet 0 v.refreshes bank + 1 := by
  simp [VaultState.refreshing, tblMod]

theorem VaultState.refreshing_refreshRow (v : VaultState) (bank slot : Nat) (now : Time) :
    tblGet 0 (v.refreshing bank slot now).refreshRow bank = (tblGet 0 v.refreshRow bank + 1) % 3584 := by
  simp [VaultState.refreshing]

/-- A vault's bank has its next row refreshed, in its next maintenance slot. -/
def State.refreshed (s : State) (c : CoreId) (bank : Nat) : State :=
  (s.takeSlot c bank).1.setVault c
    ((s.vault c).refreshing bank ((s.vault c).nextSlot bank 1024 s.sigmaNow) s.clk.now)

section
variable {s : State} (c : CoreId) (bank : Nat)

theorem State.vault_refreshed_same : (s.refreshed c bank).vault c =
    (s.vault c).refreshing bank ((s.vault c).nextSlot bank 1024 s.sigmaNow) s.clk.now :=
  State.vault_setVault_same ..

theorem State.vault_refreshed_ne {d : CoreId} (hd : d.num ≠ c.num) : (s.refreshed c bank).vault d = s.vault d :=
  (State.vault_setVault_ne _ _ hd).trans (State.vault_setVault_ne s _ hd)

variable (hst : s.st ≠ .off) (ups : List Upset)
include hst

/-- A refresh takes a slot and a row, and then meets its errors. -/
theorem State.refresh_eq : s.refresh c bank ups = ups.foldl (fun s x => s.upset x) (s.refreshed c bank) := by
  have hslot : (s.takeSlot c bank).1.vault c = { s.vault c with
      bankUse := ((s.vault c).nextSlot bank 1024 s.sigmaNow * 16 + bank) :: (s.vault c).bankUse } :=
    State.vault_setVault_same ..
  simp only [State.refresh, hst, if_false, hslot]
  rfl

/-- Whatever errors a refresh meets, no vault and no stamp changes with them. -/
theorem State.refresh_vault (d : CoreId) : (s.refresh c bank ups).vault d = (s.refreshed c bank).vault d := by
  rw [State.refresh_eq c bank hst]
  exact foldl_keeps (State.vault · d) (fun s x _ => by rw [s.upset_frame x]; rfl) (s.refreshed c bank)

/-- A refresh that meets no error reaches its vault alone. -/
theorem State.refresh_frame : s.refresh c bank [] = { s with vaults := (s.refresh c bank []).vaults } := by
  rw [State.refresh_eq c bank hst]
  rfl

theorem State.refresh_stamps : (s.refresh c bank ups).stamps = s.stamps := by
  rw [State.refresh_eq c bank hst]
  exact foldl_keeps State.stamps (fun s x _ => by rw [s.upset_frame x]) (s.refreshed c bank)

theorem State.refresh_mem (hdata : ∀ x ∈ ups, x.data = none) : (s.refresh c bank ups).mem = s.mem := by
  rw [State.refresh_eq c bank hst]
  exact foldl_keeps State.mem (fun s x hx => State.upset_mem (hdata x hx) s) (s.refreshed c bank)

end

/-! ### Reads that meet an error (05 R187, R188) -/

/-- A state without its registers and DOMAINs. -/
def State.unlogged (s : State) : State := { s with regs := [], doms := [] }

section
variable (s : State)

@[simp] theorem State.unlogged_setReg (i k : Nat) (v : BitVec 64) : (s.setReg i k v).unlogged = s.unlogged := rfl

@[simp] theorem State.unlogged_setDom (i k : Nat) (v : List Byte) : (s.setDom i k v).unlogged = s.unlogged := rfl

@[simp] theorem State.unlogged_event (k : Nat) : (s.event k).unlogged = s.unlogged := by simp [State.event]

variable (a : Nat)

/-- Damage is recorded in 7302h. -/
@[simp] theorem State.unlogged_recordDamage : (s.recordDamage a).unlogged = s.unlogged := by
  unfold State.recordDamage
  dsimp only
  split
  · rfl
  · split <;> simp

/-- The count of a read reaches registers and DOMAINs alone. -/
@[simp] theorem State.unlogged_countRead (req : Nat) : (s.countRead a req).unlogged = s.unlogged := by
  unfold State.countRead
  split <;> simp

/-- States that differ in registers and DOMAINs at most. -/
theorem State.eq_of_unlogged {s t : State} (h : t.unlogged = s.unlogged) :
    t = { s with regs := t.regs, doms := t.doms } := by
  calc t = { t.unlogged with regs := t.regs, doms := t.doms } := rfl
    _ = _ := by rw [h]; rfl

/-- A field that registers and DOMAINs are not. -/
theorem State.field_of_unlogged {α : Type} {s t : State} (h : t.unlogged = s.unlogged) (f : State → α)
    (hf : ∀ u : State, f u.unlogged = f u) : f t = f s := by rw [← hf t, h, hf]

variable {j : Nat} (hj : j < 256)
include hj

theorem State.reg_recordDamage : (s.recordDamage a).reg 0x5220 j = s.reg 0x5220 j := by
  have hne : ∀ k, k < 256 → regKey 0x5220 j ≠ regKey 0x7302 k := by unfold regKey; omega
  unfold State.recordDamage
  dsimp only
  split
  · rfl
  · split
    · rw [State.reg_setDom, State.setRegN_eq, State.reg_setReg_ne _ _ (hne 1 (by decide)), State.bumpReg_eq,
        State.reg_setReg_ne _ _ (hne 3 (by decide))]
    · rw [State.bumpReg_eq, State.reg_setReg_ne _ _ (hne 3 (by decide))]

theorem State.reg_event {i k : Nat} (hi : i ≠ 0x1110 ∧ i ≠ 0x1111) (hk : k < 255) : (s.event k).reg i j = s.reg i j := by
  have hne : ∀ o, o = 0x1110 ∨ o = 0x1111 → ∀ k, k < 256 → regKey i j ≠ regKey o k := by unfold regKey; omega
  rw [State.event, State.bumpReg_eq, State.reg_setReg_ne _ _ (hne _ (.inr rfl) _ (by omega)),
    State.reg_setReg_ne _ _ (hne _ (.inl rfl) _ (by decide))]

end

theorem ceSub_lt (a : Nat) : ceSub a < 7 := by
  unfold ceSub
  split
  · decide
  · split <;> decide

section
variable {s : State} {a : Nat} (req : Nat)

/-- A good word is no event. -/
theorem State.countRead_good (h : s.eccOf a = 0) : s.countRead a req = s := by
  rw [State.countRead, h]
  rfl

/-- A correctable word is counted by its kind of storage (05 R187). -/
theorem State.countRead_correctable (h : s.eccOf a = 1) : s.countRead a req = s.bumpReg 0x5220 (ceSub a) 1 := by
  rw [State.countRead, h]
  rfl

/-- What 5220h holds once an uncorrectable word is counted (05 R188). -/
theorem State.reg_countRead_uncorrectable (h : 2 ≤ s.eccOf a) :
    (s.countRead a req).reg 0x5220 4 = holdAdd (s.reg 0x5220 4) 1 ∧
      (s.countRead a req).reg 0x5220 5 = BitVec.ofNat 64 a ∧ (s.countRead a req).reg 0x5220 6 = BitVec.ofNat 64 req ∧
      (s.countRead a req).reg 0x5220 7 = s.reg 0x5220 7 := by
  have hcount : s.countRead a req = ((((s.bumpReg 0x5220 4 1).setRegN 0x5220 5 a).setRegN 0x5220 6 req).event
      evEccUncorrectable).recordDamage a := by
    unfold State.countRead
    split
    · omega
    · omega
    · rfl
  have hkept : ∀ j, j < 256 → (s.countRead a req).reg 0x5220 j =
      (((s.bumpReg 0x5220 4 1).setRegN 0x5220 5 a).setRegN 0x5220 6 req).reg 0x5220 j := by
    intro j hj
    rw [hcount, State.reg_recordDamage _ _ hj, State.reg_event _ hj (by decide) (by decide)]
  have hne : ∀ j k, j ≠ k → regKey 0x5220 j ≠ regKey 0x5220 k := by unfold regKey; omega
  simp only [hkept _ (by decide : 4 < 256), hkept _ (by decide : 5 < 256), hkept _ (by decide : 6 < 256),
    hkept _ (by decide : 7 < 256), State.setRegN_eq, State.bumpReg_eq]
  refine ⟨?_, ?_, ?_, ?_⟩
  · rw [State.reg_setReg_ne _ _ (hne 4 6 (by decide)), State.reg_setReg_ne _ _ (hne 4 5 (by decide)), State.reg_setReg_same]
  · rw [State.reg_setReg_ne _ _ (hne 5 6 (by decide)), State.reg_setReg_same]
  · rw [State.reg_setReg_same]
  · rw [State.reg_setReg_ne _ _ (hne 7 6 (by decide)), State.reg_setReg_ne _ _ (hne 7 5 (by decide)),
      State.reg_setReg_ne _ _ (hne 7 4 (by decide))]

/-- No read counts as a pass of the scrub. -/
theorem State.reg_countRead_passes : (s.countRead a req).reg 0x5220 7 = s.reg 0x5220 7 := by
  have hne : regKey 0x5220 7 ≠ regKey 0x5220 (ceSub a) := by
    have hlt := ceSub_lt a
    unfold regKey
    omega
  obtain h | h | h : s.eccOf a = 0 ∨ s.eccOf a = 1 ∨ 2 ≤ s.eccOf a := by omega
  · rw [State.countRead_good req h]
  · rw [State.countRead_correctable req h, State.bumpReg_eq, State.reg_setReg_ne _ _ hne]
  · obtain ⟨-, -, -, hpasses⟩ := State.reg_countRead_uncorrectable req h
    exact hpasses

end

/-! ### Patrol scrub (05 R193, R194) -/

/-- What a scrub finds in a word: an error that it meets there, or the check state that the word has. -/
def State.scrubFinds (b : State) (a found : Nat) : State :=
  if found = 0 then b else { b with ecc := tblSet 0 b.ecc (a / 32) (BitVec.ofNat 2 found) }

/-- A scrub counts what it reads, and rewrites a correctable word that nothing has written since (05 R194). -/
def State.scrubFixes (s : State) (a : Nat) (overtaken : Bool) : State :=
  let t := s.countRead a reqScrub
  if s.eccOf a = 1 ∧ !overtaken then { t with ecc := tblSet 0 t.ecc (a / 32) 0 } else t

/-- A scrub of a word that can be reached comes after the accesses before it, and its pass goes on. -/
theorem State.scrubWord_eq {s : State} {a : Nat} {p : Place} (hplace : placeOf a = some p) (hst : s.st ≠ .off)
    (haligned : a % 32 = 0) (hlive : s.placeDead p = false) (found : Nat) (overtaken : Bool) :
    s.scrubWord a found overtaken =
      (((s.beforeScrub p).scrubFinds a found).scrubFixes a overtaken).scrubNext a := by
  simp only [State.scrubWord, hplace, hst, haligned, hlive, ne_eq, not_true_eq_false, Bool.false_eq_true, or_self, if_false]
  rfl

/-- A state without its check states, registers and DOMAINs. -/
def State.unscrubbed (s : State) : State := { s with ecc := [], regs := [], doms := [] }

/-- A field that check states, registers and DOMAINs are not. -/
theorem State.field_of_unscrubbed {α : Type} {s t : State} (h : t.unscrubbed = s.unscrubbed) (f : State → α)
    (hf : ∀ u : State, f u.unscrubbed = f u) : f t = f s := by rw [← hf t, h, hf]

@[simp] theorem State.beforeScrub_clk (s : State) (p : Place) : (s.beforeScrub p).clk = s.clk := by
  cases p with
  | vault c b w => simp [State.beforeScrub, State.beforeRead, State.takeSlot]
  | sram c w => simp [State.beforeScrub]
  | well r w => simp [State.beforeScrub]

section
variable (b : State) (a : Nat) (found : BitVec 2) (overtaken : Bool)

/-- A scrub of a word reaches check states, registers and DOMAINs alone. -/
theorem State.unscrubbed_scrubFixes :
    ((b.scrubFinds a found.toNat).scrubFixes a overtaken).unscrubbed = b.unscrubbed := by
  have hfinds : (b.scrubFinds a found.toNat).unscrubbed = b.unscrubbed := by
    unfold State.scrubFinds
    split <;> rfl
  have hcount := congrArg State.unscrubbed ((b.scrubFinds a found.toNat).unlogged_countRead a reqScrub)
  rw [← hfinds]
  unfold State.scrubFixes
  dsimp only
  split <;> exact hcount

/-- The check state that a scrub meets. -/
theorem State.eccOf_scrubFinds :
    (b.scrubFinds a found.toNat).eccOf a = if found = 0 then b.eccOf a else found.toNat := by
  by_cases h : found = 0
  · rw [State.scrubFinds, if_pos (by rw [h]; rfl), if_pos h]
  · have hn : found.toNat ≠ 0 := fun h0 => h (BitVec.eq_of_toNat_eq h0)
    rw [State.scrubFinds, if_neg hn, if_neg h]
    simp [State.eccOf]

/-- The check state that a scrub leaves. -/
theorem State.eccOf_scrubFixes (s : State) :
    (s.scrubFixes a overtaken).eccOf a = if s.eccOf a = 1 ∧ overtaken = false then 0 else s.eccOf a := by
  have hkept : (s.countRead a reqScrub).eccOf a = s.eccOf a :=
    State.field_of_unlogged (s.unlogged_countRead a reqScrub) (State.eccOf · a) fun _ => rfl
  simp only [State.scrubFixes, Bool.not_eq_true']
  split
  · simp [State.eccOf]
  · exact hkept

/-- A scrub's rewrite reaches no register. -/
theorem State.reg_scrubFixes (s : State) (i j : Nat) :
    (s.scrubFixes a overtaken).reg i j = (s.countRead a reqScrub).reg i j := by
  simp only [State.scrubFixes]
  split <;> rfl

/-- A scrub of a good word leaves every register. -/
theorem State.regs_scrubFixes_good {s : State} (h : s.eccOf a = 0) : (s.scrubFixes a overtaken).regs = s.regs := by
  simp [State.scrubFixes, State.countRead_good _ h, h]

theorem State.regs_scrubFinds_good (h : found = 0) : (b.scrubFinds a found.toNat).regs = b.regs := by
  rw [h]
  rfl

theorem State.reg_scrubFinds (i j : Nat) : (b.scrubFinds a found.toNat).reg i j = b.reg i j := by
  unfold State.scrubFinds
  split <;> rfl

end

/-! ### A pass over every word (05 R193, R195; log 58) -/

/-- The words that a pass has read once it has read one. -/
def State.seenWith (s : State) (a : Nat) : List Nat :=
  if s.scrub.seen.contains (a / 32) then s.scrub.seen else a / 32 :: s.scrub.seen

section
variable {s : State} {a : Nat}

theorem State.scrubNext_more (h : s.scrubSeen (s.seenWith a) < s.scrubWords) :
    s.scrubNext a = { s with scrub := { s.scrub with seen := s.seenWith a } } :=
  if_neg (Nat.not_le.2 h)

theorem State.scrubNext_complete (h : s.scrubWords ≤ s.scrubSeen (s.seenWith a)) :
    s.scrubNext a = (s.setReg 0x5220 7 (holdAdd (s.reg 0x5220 7) 1)).setScrub
      { seen := [], passStart := s.clk.now, hours := s.regN 0x5221 1, late := false } := by
  exact if_pos h

/-- The end of a scrub reaches its pass and, in 5220h.07, the count of passes. -/
theorem State.scrubNext_cases : s.scrubNext a = { s with scrub := { s.scrub with seen := s.seenWith a } } ∨
    s.scrubNext a = (s.setReg 0x5220 7 (holdAdd (s.reg 0x5220 7) 1)).setScrub
      { seen := [], passStart := s.clk.now, hours := s.regN 0x5221 1, late := false } :=
  (Nat.lt_or_ge (s.scrubSeen (s.seenWith a)) s.scrubWords).imp State.scrubNext_more State.scrubNext_complete

theorem State.mem_scrubNext : (s.scrubNext a).mem = s.mem := by
  rcases s.scrubNext_cases (a := a) with h | h <;> simp [h]

theorem State.stamps_scrubNext : (s.scrubNext a).stamps = s.stamps := by
  rcases s.scrubNext_cases (a := a) with h | h <;> simp [h]

theorem State.eccOf_scrubNext (x : Nat) : (s.scrubNext a).eccOf x = s.eccOf x := by
  rcases s.scrubNext_cases (a := a) with h | h <;> simp [h, State.eccOf]

/-- A pass counts in 5220h.07 alone. -/
theorem State.reg_scrubNext {j : Nat} (hj : j < 7) : (s.scrubNext a).reg 0x5220 j = s.reg 0x5220 j := by
  have hne : regKey 0x5220 j ≠ regKey 0x5220 7 := by unfold regKey; omega
  rcases s.scrubNext_cases (a := a) with h | h
  · rw [h]
    rfl
  · rw [h, State.reg_setScrub, State.reg_setReg_ne _ _ hne]

end

end Sys2Proof.Machine

namespace Sys2Proof.Proofs

open Sys2Proof.Machine

/-- Settles O27: a refresh takes the next slot and row of its bank, a scrub counts what it finds and rewrites a correctable
word, and a pass that is late counts once. -/
theorem vaultUpkeep : Obligations.VaultUpkeep := by
  intro s time hoff u
  have hst : u.st ≠ .off := hoff
  refine ⟨fun c bank upsets => ?_, fun addr found overtaken p => ?_, fun hnow hlate => ?_, fun hnot => ?_⟩
  · have hown := (State.refresh_vault c bank.val hst upsets c).trans (State.vault_refreshed_same c bank.val)
    refine ⟨u.refresh c bank.val upsets, rfl, State.refresh_stamps c _ hst upsets, State.refresh_mem c _ hst upsets,
      fun hnone => ?_, congrArg VaultState.bankUse hown, ?_, ?_,
      fun d hd => (State.refresh_vault c _ hst upsets d).trans (State.vault_refreshed_ne c _ hd)⟩
    · rw [hnone]
      exact State.refresh_frame c bank.val hst
    · rw [hown]
      exact VaultState.refreshing_refreshRow ..
    · rw [hown]
      exact VaultState.refreshing_refreshes ..
  · intro a b e seen hplace hlive haligned
    have hstep := State.scrubWord_eq (s := u) hplace hst haligned hlive found.toNat overtaken
    obtain ⟨f, hf⟩ : ∃ f, f = b.scrubFinds a found.toNat := ⟨_, rfl⟩
    obtain ⟨t, ht⟩ : ∃ t, t = f.scrubFixes a overtaken := ⟨_, rfl⟩
    have hsame : t.unscrubbed = b.unscrubbed := by rw [ht, hf]; exact State.unscrubbed_scrubFixes ..
    have hstate : f.eccOf a = e := by rw [hf]; exact State.eccOf_scrubFinds ..
    have hfreg : ∀ j, f.reg 0x5220 j = b.reg 0x5220 j := fun j => by rw [hf]; exact State.reg_scrubFinds ..
    have htreg : ∀ j, t.reg 0x5220 j = (f.countRead a reqScrub).reg 0x5220 j := fun j => by
      rw [ht]; exact State.reg_scrubFixes ..
    have hkeeps : ∀ {α : Type} (g : State → α), (∀ v : State, g v.unscrubbed = g v) → g t = g b :=
      fun g => State.field_of_unscrubbed hsame g
    have hclk : t.clk = u.clk := (hkeeps State.clk fun _ => rfl).trans (u.beforeScrub_clk p)
    have hseen : t.seenWith a = seen := hkeeps (State.seenWith · a) fun _ => rfl
    have hread : t.scrubSeen (t.seenWith a) = b.scrubSeen seen := by
      rw [hseen]; exact hkeeps (State.scrubSeen · seen) fun _ => rfl
    have hwords : t.scrubWords = b.scrubWords := hkeeps State.scrubWords fun _ => rfl
    refine ⟨t.scrubNext a, ?_, State.mem_scrubNext.trans (hkeeps State.mem fun _ => rfl),
      State.stamps_scrubNext.trans (hkeeps State.stamps fun _ => rfl), ?_, fun he => ?_, fun he => ?_, fun hmore => ?_,
      fun hall => ?_⟩
    · rw [ht, hf]
      exact congrArg Host.Outcome.next hstep
    · rw [State.eccOf_scrubNext, ht, State.eccOf_scrubFixes, hstate]
    · rw [State.reg_scrubNext (ceSub_lt a), htreg, State.countRead_correctable _ (hstate.trans he), State.bumpReg_eq,
        State.reg_setReg_same, hfreg]
    · rw [← hstate] at he
      obtain ⟨hcount, haddr, hreq, -⟩ := State.reg_countRead_uncorrectable reqScrub he
      simp only [State.reg_scrubNext (by decide : 4 < 7), State.reg_scrubNext (by decide : 5 < 7),
        State.reg_scrubNext (by decide : 6 < 7), htreg, hcount, haddr, hreq, hfreg]
      exact ⟨trivial, BitVec.eq_of_toNat_eq (by simp [a]), rfl⟩
    · rw [← hread, ← hwords] at hmore
      rw [State.scrubNext_more hmore]
      refine ⟨?_, fun he => ?_⟩
      · show { t.scrub with seen := t.seenWith a } = { b.scrub with seen := seen }
        rw [hseen, hkeeps State.scrub fun _ => rfl]
      · have hfound : found = 0 := Classical.byContradiction fun hne =>
          hne (BitVec.eq_of_toNat_eq ((if_neg hne).symm.trans he))
        exact (congrArg State.regs ht).trans ((State.regs_scrubFixes_good a overtaken (hstate.trans he)).trans
          (hf ▸ State.regs_scrubFinds_good b a found hfound))
    · rw [← hread, ← hwords] at hall
      rw [State.scrubNext_complete hall]
      refine ⟨rfl, congrArg Clock.now hclk, rfl, ?_⟩
      rw [State.reg_setScrub, State.reg_setReg_same, htreg, State.reg_countRead_passes, hfreg]
  · exact if_pos ⟨hst, hnow, congrArg not hlate⟩
  · refine if_neg fun h => ?_
    obtain ⟨-, hlate, hcounted⟩ := h
    rcases hnot with hnow | hnot
    · exact absurd hlate (Nat.not_le.2 hnow)
    · rw [State.advance_scrub, hnot] at hcounted
      exact absurd hcounted Bool.false_ne_true

end Sys2Proof.Proofs

/-! Storage requests of the host (01 R25-R27; 05 R188, R189, R207, R210; 09 R360-R362): what a message that the port has
delivered leaves, how a read and a write of storage end, and what the write of a word stores. -/

namespace Sys2Proof.Machine

open Sys2Proof.Safety

/-! ### Messages (09 R362, R371) -/

section
variable (s : State) (i : Nat) (test : List Byte → Bool)

/-- Taking a message reaches the port alone. -/
theorem State.received_frame : ∃ p, (s.received i test).2 = { s with ports := p } := by
  unfold State.received
  dsimp only
  split <;> exact ⟨_, rfl⟩

theorem State.received_st : (s.received i test).2.st = s.st := by
  obtain ⟨p, hp⟩ := s.received_frame i test
  rw [hp]

theorem State.received_supply : (s.received i test).2.supply = s.supply := by
  obtain ⟨p, hp⟩ := s.received_frame i test
  rw [hp]

end

section
variable {s : State} {ty tag n addr : Nat} {data : List Byte} {bad : Bool} {f : State → State}
variable (hhears : s.hostHears = true) (hcame : (s.received 30 (hostMsg ty tag n addr data)).1 = true)
include hhears hcame

/-- A message of a tag that is free is served. -/
theorem State.takeHost_served (hbad : bad = false) (hfree : tblFind s.hostTags tag = none) :
    s.takeHost ty tag n addr bad data f = f (s.received 30 (hostMsg ty tag n addr data)).2 := by
  obtain ⟨p, hp⟩ := s.received_frame 30 (hostMsg ty tag n addr data)
  have htags : (s.received 30 (hostMsg ty tag n addr data)).2.hostTags = s.hostTags := by rw [hp]
  simp [State.takeHost, hhears, hcame, hbad, htags, hfree]

/-- A message with a reserved value, or of a tag in use, is a request error (09 R362). -/
theorem State.takeHost_error (h : bad = true ∨ tblFind s.hostTags tag ≠ none) :
    s.takeHost ty tag n addr bad data f =
      (s.received 30 (hostMsg ty tag n addr data)).2.setReg 0x722E 8 (holdAdd (s.reg 0x722E 8) 1) := by
  obtain ⟨p, hp⟩ := s.received_frame 30 (hostMsg ty tag n addr data)
  have htags : (s.received 30 (hostMsg ty tag n addr data)).2.hostTags = s.hostTags := by rw [hp]
  have herror : (bad || (tblFind s.hostTags tag).isSome) = true := by
    rcases h with h | h
    · simp [h]
    · simp [Option.isSome_iff_ne_none.2 h]
  simp only [State.takeHost, hhears, hcame, Bool.not_true, Bool.false_eq_true, if_false, htags, herror, if_true,
    State.requestError, State.bumpReg_eq]
  rw [hp]
  rfl

end

/-! ### Refusals (01 R25) -/

/-- A refused request reaches registers and DOMAINs alone, and a state conflict is counted (10 R395). -/
theorem State.hostRefuse_eq (s : State) (tag status addr : Nat) :
    ∃ r : State, s.hostRefuse tag status addr = r.hostAnswer tag status [] ∧ r.unlogged = s.unlogged ∧
      (status = 0x0401 → r.reg 0x1102 1 = holdAdd (s.reg 0x1102 1) 1) := by
  refine ⟨_, rfl, ?_, fun h => ?_⟩
  · split <;> simp [State.conflict]
  · have hne : regKey 0x1102 1 ≠ regKey 0x1102 2 := by decide
    rw [if_pos h, State.conflict, State.reg_event _ (by decide) (by decide) (by decide), State.reg_setDom, State.setRegN_eq,
      State.reg_setReg_ne _ _ hne, State.bumpReg_eq, State.reg_setReg_same]

/-! ### Reads (05 R188; 09 R361) -/

@[simp] theorem State.unlogged_countReads (s : State) (req : Nat) (as : List Nat) :
    (s.countReads req as).1.unlogged = s.unlogged := by
  induction as generalizing s with
  | nil => rfl
  | cons a as ih =>
    unfold State.countReads
    split
    · simp
    · simp [ih]

/-- Reads that meet no uncorrectable word reach the counters of correctable ones alone. -/
theorem State.countReads_readable {s : State} {as : List Nat} (h : ∀ a ∈ as, s.eccOf a < 2) (req : Nat) :
    (s.countReads req as).2 = none ∧ (s.countReads req as).1.doms = s.doms := by
  induction as generalizing s with
  | nil => exact ⟨rfl, rfl⟩
  | cons a as ih =>
    obtain ⟨ha, has⟩ := List.forall_mem_cons.1 h
    have hdoms : (s.countRead a req).doms = s.doms := by
      obtain h0 | h1 : s.eccOf a = 0 ∨ s.eccOf a = 1 := by omega
      · rw [State.countRead_good req h0]
      · rw [State.countRead_correctable req h1, State.bumpReg_eq, State.setReg_doms]
    rw [State.countReads, if_neg (Nat.not_le.2 ha)]
    obtain ⟨hnone, hkept⟩ := ih (s := s.countRead a req) fun b hb => by
      rw [State.eccOf_countRead ha]
      exact has b hb
    exact ⟨hnone, hkept.trans hdoms⟩

section
variable {s : State} {tag addr n : Nat}

theorem State.storageRead_misaligned (h : addr % 32 ≠ 0) : s.storageRead tag addr n = s.hostAnswer tag 0x0611 [] :=
  if_pos h

variable (haligned : addr % 32 = 0)
include haligned

theorem State.storageRead_refused (h : s.judgeHost false (wordAddrs addr n) ≠ 0) :
    s.storageRead tag addr n = s.hostRefuse tag (s.judgeHost false (wordAddrs addr n)) addr := by
  simp only [State.storageRead, haligned, ne_eq, not_true_eq_false, if_false, h, not_false_eq_true, if_true]

variable (hmay : s.judgeHost false (wordAddrs addr n) = 0)
include hmay

theorem State.storageRead_dark (hdark : s.st = .fault ∧ s.supply.dark = true) :
    s.storageRead tag addr n = s.hostAnswer tag 0x0613 [] := by
  simp only [State.storageRead, haligned, hmay, ne_eq, not_true_eq_false, if_false, hdark.1, hdark.2, and_self, if_true]
  rfl

variable (hlit : s.st = .fault → s.supply.dark = false)
  (hfree : ∀ a ∈ wordAddrs addr n, (s.settleNow (wordAddrs addr n)).wordHeld a = false)
include hlit hfree

/-- A read that no command holds up counts its words, and answers their records or the error of one. -/
theorem State.storageRead_free :
    let r := (s.settleNow (wordAddrs addr n)).countReads reqHost (wordAddrs addr n)
    s.storageRead tag addr n =
      match r.2 with
      | some _ => r.1.hostAnswer tag 0x0610 []
      | none => r.1.hostAnswer tag 0 ((wordAddrs addr n).flatMap (recordOf r.1)) := by
  have hnow : (wordAddrs addr n).filter (fun a => !(s.settleNow (wordAddrs addr n)).wordHeld a) = wordAddrs addr n :=
    List.filter_eq_self.2 fun a ha => congrArg not (hfree a ha)
  have hheld : (wordAddrs addr n).filter (s.settleNow (wordAddrs addr n)).wordHeld = [] :=
    List.filter_eq_nil_iff.2 fun a ha => Bool.eq_false_iff.1 (hfree a ha)
  have hnotDark : ¬ (s.st = .fault ∧ s.supply.dark = true) := fun h => Bool.eq_false_iff.1 (hlit h.1) h.2
  simp only [State.storageRead, haligned, hmay, ne_eq, not_true_eq_false, if_false, hnotDark, hnow, hheld, if_true]
  rfl

/-- Words that can all be read are answered by their records, in order. -/
theorem State.storageRead_readable (hecc : ∀ a ∈ wordAddrs addr n, (s.settleNow (wordAddrs addr n)).eccOf a < 2) :
    ∃ r : State, s.storageRead tag addr n =
        r.hostAnswer tag 0 ((wordAddrs addr n).flatMap (recordOf (s.settleNow (wordAddrs addr n)))) ∧
      r = { s.settleNow (wordAddrs addr n) with regs := r.regs } := by
  have hread := State.storageRead_free haligned hmay hlit hfree (tag := tag)
  obtain ⟨hnone, hdoms⟩ := State.countReads_readable hecc reqHost
  have hrest := State.eq_of_unlogged (State.unlogged_countReads (s.settleNow (wordAddrs addr n)) reqHost (wordAddrs addr n))
  simp only [hnone] at hread
  generalize ((s.settleNow (wordAddrs addr n)).countReads reqHost (wordAddrs addr n)).1 = r at hread hdoms hrest
  rw [hdoms] at hrest
  refine ⟨r, hread.trans ?_, hrest⟩
  rw [hrest]
  rfl

/-- An uncorrectable word ends a read with its error. -/
theorem State.storageRead_unreadable (hecc : ∃ a ∈ wordAddrs addr n, 2 ≤ (s.settleNow (wordAddrs addr n)).eccOf a) :
    ∃ r : State, s.storageRead tag addr n = r.hostAnswer tag 0x0610 [] ∧
      r.unlogged = (s.settleNow (wordAddrs addr n)).unlogged := by
  have hread := State.storageRead_free haligned hmay hlit hfree (tag := tag)
  obtain ⟨a, ha⟩ := State.countReads_bad hecc reqHost
  simp only [ha] at hread
  exact ⟨_, hread, State.unlogged_countReads ..⟩

end

/-! ### The write of a word (05 R189, R210) -/

/-- The stamp that a host write of a word leaves: HOST with the value given, or NONE with a free value. -/
def State.hostStamp (s : State) (a : Nat) : Option (BitVec 32) → State
  | some v => s.setStamp a 1 v
  | none => s.drawWord.2.setStamp a 0 (s.drawWord.1.setWidth 32)

/-- Storage once a host has written a word: its data, and in a vault its stamp. -/
def State.hostStore (s : State) (a : Nat) (w : EccWord) (stamp : Option (BitVec 32)) : State :=
  if a < 2 ^ 52 then (s.putWord a w).hostStamp a stamp else s.putWord a w

/-- A rise of a counter fills the mailboxes that watch it. -/
theorem State.watched_frame (s : State) (a old new : Nat) : ∃ u, s.watched a old new = { s with umpire := u } := by
  have hfills : ∀ (l : List MbEntry) (t : State),
      ∃ u, l.foldl (fun (t : State) m => t.fillMailbox m.id (new - old)) t = { t with umpire := u } := by
    intro l
    induction l with
    | nil => exact fun t => ⟨t.umpire, rfl⟩
    | cons m l ih => exact fun t => ih (t.fillMailbox m.id (new - old))
  unfold State.watched
  split
  · exact ⟨s.umpire, rfl⟩
  · split
    · exact ⟨s.umpire, rfl⟩
    · exact hfills _ s

theorem State.maskRequest_frame (s : State) (a old new : Nat) : ∃ p, s.maskRequest a old new = { s with pages := p } := by
  unfold State.maskRequest
  split
  · exact ⟨_, rfl⟩
  · exact ⟨s.pages, rfl⟩

section
variable (s : State) (a : Nat) (w : EccWord) (stamp : Option (BitVec 32))

/-- Beside storage, the write of a word reaches mailboxes and the mask expander. -/
theorem State.hostPut_frame : ∃ u p, s.hostPut a w stamp = { s.hostStore a w stamp with umpire := u, pages := p } := by
  obtain ⟨old, hold⟩ : ∃ old, old = wordCounter (s.word a) := ⟨_, rfl⟩
  obtain ⟨u, hu⟩ := (s.hostStore a w stamp).watched_frame a old (wordCounter w)
  obtain ⟨p, hp⟩ := State.maskRequest_frame { s.hostStore a w stamp with umpire := u } a old (wordCounter w)
  have hput : s.hostPut a w stamp =
      ((s.hostStore a w stamp).watched a old (wordCounter w)).maskRequest a old (wordCounter w) := by
    rw [hold]
    cases stamp <;> rfl
  exact ⟨u, p, by rw [hput, hu, hp]⟩

theorem State.hostStore_mem : (s.hostStore a w stamp).mem = writeBytes s.mem a (bytesOfWord w) := by
  unfold State.hostStore
  split
  · cases stamp <;> rfl
  · rfl

theorem State.hostStore_ecc : (s.hostStore a w stamp).ecc = tblSet 0 s.ecc (a / 32) 0 := by
  unfold State.hostStore
  split
  · cases stamp <;> rfl
  · rfl

/-- A word elsewhere keeps its stamp. -/
theorem State.stampOf_hostStore_ne {b : Nat} (h : b / 32 ≠ a / 32) : (s.hostStore a w stamp).stampOf b = s.stampOf b := by
  unfold State.hostStore
  split
  · cases stamp <;> exact tblGet_set_ne _ _ _ h
  · rfl

/-- In a vault, a word written with a stamp holds it with state HOST. -/
theorem State.stampOf_hostStore_some (h : a < 2 ^ 52) (v : BitVec 32) :
    (s.hostStore a w (some v)).stampOf a = BitVec.ofNat 34 (2 ^ 32 + v.toNat) := by
  rw [State.hostStore, if_pos h]
  exact tblGet_set_same ..

/-- In a vault, a word written without a stamp holds one of state NONE. -/
theorem State.stampOf_hostStore_none (h : a < 2 ^ 52) : ((s.hostStore a w none).stampOf a).toNat / 2 ^ 32 = 0 := by
  have hstamp : (s.hostStore a w none).stampOf a =
      BitVec.ofNat 34 (2 ^ 32 * 0 + ((Config.freeWord s.fresh).setWidth 32).toNat) := by
    rw [State.hostStore, if_pos h]
    exact tblGet_set_same ..
  have hlt := ((Config.freeWord s.fresh).setWidth 32).isLt
  rw [hstamp, BitVec.toNat_ofNat]
  omega

end

/-- A word of storage as a host write leaves it. -/
structure HostStored (s : State) (a : Nat) (w : EccWord) (stamp : Option (BitVec 32)) : Prop where
  word : s.word a = w
  good : s.eccOf a = 0
  given : a < 2 ^ 52 → ∀ v, stamp = some v → s.stampOf a = BitVec.ofNat 34 (2 ^ 32 + v.toNat)
  none : a < 2 ^ 52 → stamp = none → (s.stampOf a).toNat / 2 ^ 32 = 0

/-- The words of a request that are written, with their addresses and stamps. -/
def State.hostPuts (s : State) (ws : List (Nat × EccWord × Option (BitVec 32))) : State :=
  ws.foldl (fun s w => s.hostPut w.1 w.2.1 w.2.2) s

section
variable {s : State} {ws : List (Nat × EccWord × Option (BitVec 32))}

theorem State.hostPut_stored (s : State) (a : Nat) (w : EccWord) (stamp : Option (BitVec 32)) :
    HostStored (s.hostPut a w stamp) a w stamp := by
  obtain ⟨u, p, h⟩ := s.hostPut_frame a w stamp
  rw [h]
  refine ⟨?_, ?_, fun ha v hv => ?_, fun ha hv => ?_⟩
  · have hword : (s.hostStore a w stamp).word a = (s.putWord a w).word a := by rw [State.word, State.hostStore_mem]; rfl
    exact hword.trans (State.word_putWord_same s a w)
  · have hecc : (s.hostStore a w stamp).eccOf a = 0 := by rw [State.eccOf, State.hostStore_ecc, tblGet_set_same]; rfl
    exact hecc
  · subst hv
    exact State.stampOf_hostStore_some s a w ha v
  · subst hv
    exact State.stampOf_hostStore_none s a w ha

/-- A byte outside the words written keeps its value. -/
theorem State.readByte_hostPuts {x : Nat} (h : ∀ w ∈ ws, x < w.1 ∨ w.1 + 32 ≤ x) :
    readByte (s.hostPuts ws).mem x = readByte s.mem x := by
  refine foldl_keeps (fun t => readByte t.mem x) (fun t w hw => ?_) s
  obtain ⟨u, p, hframe⟩ := t.hostPut_frame w.1 w.2.1 w.2.2
  rw [hframe]
  show readByte (t.hostStore w.1 w.2.1 w.2.2).mem x = readByte t.mem x
  rw [State.hostStore_mem]
  exact readByte_writeBytes_out _ _ (by simpa [bytesOfWord] using h w hw)

/-- A word that no later write reaches stays as it is. -/
theorem HostStored.hostPuts {a : Nat} {w : EccWord} {stamp : Option (BitVec 32)} (hs : HostStored s a w stamp)
    (haligned : a % 32 = 0) (h : ∀ x ∈ ws, x.1 % 32 = 0 ∧ a + 32 ≤ x.1) : HostStored (s.hostPuts ws) a w stamp := by
  have hword : (s.hostPuts ws).word a = s.word a := by
    refine foldl_keeps (State.word · a) (fun t x hx => ?_) s
    obtain ⟨u, p, hframe⟩ := t.hostPut_frame x.1 x.2.1 x.2.2
    rw [hframe]
    show wordOfBytes (readBytes (t.hostStore x.1 x.2.1 x.2.2).mem a 32) = t.word a
    rw [State.hostStore_mem]
    exact t.word_putWord_out _ (.inl (h x hx).2)
  have hecc : (s.hostPuts ws).eccOf a = s.eccOf a := by
    refine foldl_keeps (State.eccOf · a) (fun t x hx => ?_) s
    obtain ⟨hx32, hbefore⟩ := h x hx
    obtain ⟨u, p, hframe⟩ := t.hostPut_frame x.1 x.2.1 x.2.2
    rw [hframe]
    show (tblGet 0 (t.hostStore x.1 x.2.1 x.2.2).ecc (a / 32)).toNat = t.eccOf a
    rw [State.hostStore_ecc, tblGet_set_ne _ _ _ (by omega)]
    rfl
  have hstamp : (s.hostPuts ws).stampOf a = s.stampOf a := by
    refine foldl_keeps (State.stampOf · a) (fun t x hx => ?_) s
    obtain ⟨hx32, hbefore⟩ := h x hx
    obtain ⟨u, p, hframe⟩ := t.hostPut_frame x.1 x.2.1 x.2.2
    rw [hframe]
    exact State.stampOf_hostStore_ne t _ _ _ (by omega)
  obtain ⟨hw, hgood, hgiven, hnone⟩ := hs
  exact ⟨hword.trans hw, hecc.trans hgood, fun ha v hv => hstamp.trans (hgiven ha v hv), fun ha hv => by
    rw [hstamp]; exact hnone ha hv⟩

/-- Every word of a request with ascending addresses is stored. -/
theorem State.hostPuts_stored (haligned : ∀ w ∈ ws, w.1 % 32 = 0) (hasc : ws.Pairwise fun x y => x.1 + 32 ≤ y.1) :
    ∀ w ∈ ws, HostStored (s.hostPuts ws) w.1 w.2.1 w.2.2 := by
  induction ws generalizing s with
  | nil => simp
  | cons x ws ih =>
    obtain ⟨hx, haligned⟩ := List.forall_mem_cons.1 haligned
    obtain ⟨hlater, hasc⟩ := List.pairwise_cons.1 hasc
    refine List.forall_mem_cons.2 ⟨?_, ih haligned hasc⟩
    exact (s.hostPut_stored x.1 x.2.1 x.2.2).hostPuts hx fun y hy => ⟨haligned y hy, hlater y hy⟩

end

end Sys2Proof.Machine

namespace Sys2Proof.Machine

open Sys2Proof.Safety

/-! ### The words of a write (09 R361) -/

/-- Data of k pieces of n, cut into them. -/
theorem chunksOf_eq_map {α : Type} {n k : Nat} {l : List α} (hn : 0 < n) (h : l.length = n * k) :
    chunksOf n l = (List.range k).map fun j => (l.drop (n * j)).take n := by
  suffices hgo : ∀ (k fuel : Nat) (l : List α), l.length = n * k → k ≤ fuel →
      chunksGo n fuel l = (List.range k).map fun j => (l.drop (n * j)).take n from
    hgo k l.length l h (by rw [h]; exact Nat.le_mul_of_pos_left k hn)
  intro k
  induction k with
  | zero =>
    intro fuel l hl _
    have hnil : l = [] := List.eq_nil_of_length_eq_zero hl
    cases fuel with
    | zero => rfl
    | succ fuel => rw [hnil]; rfl
  | succ k ih =>
    intro fuel l hl hfuel
    obtain ⟨fuel, rfl⟩ : ∃ m, fuel = m + 1 := ⟨fuel - 1, by omega⟩
    have hmul : n * (k + 1) = n * k + n := Nat.mul_succ n k
    have hne : l.isEmpty = false := by
      cases l with
      | nil => simp at hl; omega
      | cons => rfl
    rw [chunksGo, hne, if_neg Bool.false_ne_true, ih fuel (l.drop n) (by rw [List.length_drop]; omega) (by omega),
      List.range_succ_eq_map, List.map_cons, List.map_map]
    refine congrArg (List.cons (l.take n)) (List.map_congr_left fun j _ => ?_)
    rw [List.drop_drop]
    exact congrArg (fun m => (l.drop m).take n) (by rw [Nat.mul_succ, Nat.add_comm])

/-- Word j of a WRITE, which gives no stamp. -/
def plainWord (data : List Byte) (j : Nat) : EccWord × Option (BitVec 32) :=
  (wordOfBytes ((data.drop (32 * j)).take 32), none)

/-- Word j of a WRITE_STAMPED and its stamp value. -/
def stampedWord (data : List Byte) (j : Nat) : EccWord × Option (BitVec 32) :=
  (wordOfBytes ((data.drop (40 * j)).take 32), some (BitVec.ofNat 32 (leNat ((data.drop (40 * j + 32)).take 4))))

section
variable {data : List Byte} {n : Nat}

theorem hostWords_plain (h : data.length = 32 * n) : hostWords false data = (List.range n).map (plainWord data) := by
  rw [hostWords, if_neg Bool.false_ne_true, chunksOf_eq_map (by decide) h, List.map_map]
  rfl

theorem hostWords_stamped (h : data.length = 40 * n) : hostWords true data = (List.range n).map (stampedWord data) := by
  rw [hostWords, if_pos rfl, chunksOf_eq_map (by decide) h, List.map_map]
  refine List.map_congr_left fun j _ => ?_
  simp only [Function.comp_apply, List.take_take, List.drop_take, List.drop_drop]
  rfl

theorem leNat_lt (bs : List Byte) : leNat bs < 256 ^ bs.length := by
  induction bs with
  | nil => decide
  | cons b bs ih =>
    have hb := b.isLt
    rw [leNat, List.length_cons, Nat.pow_succ]
    omega

/-- A stamp value of four bytes fits its field. -/
theorem toNat_ofNat_leNat {bs : List Byte} (h : bs.length ≤ 4) : (BitVec.ofNat 32 (leNat bs)).toNat = leNat bs := by
  have hlt : leNat bs < 256 ^ 4 := Nat.lt_of_lt_of_le (leNat_lt bs) (Nat.pow_le_pow_right (by decide) h)
  exact Nat.mod_eq_of_lt hlt

end

/-! ### Writes (05 R189, R210; 09 R361) -/

section
variable {s : State} {tag addr n : Nat} {stamped : Bool} {data : List Byte}

theorem State.storageWrite_misfit (h : addr % 32 ≠ 0 ∨ data.length ≠ n * (if stamped then 40 else 32)) :
    s.storageWrite tag addr n stamped data = s.hostAnswer tag 0x0611 [] :=
  if_pos h

variable (haligned : addr % 32 = 0) (hlength : data.length = n * (if stamped then 40 else 32))
include haligned hlength

theorem State.storageWrite_refused (h : s.judgeHost true (wordAddrs addr n) ≠ 0) :
    s.storageWrite tag addr n stamped data = s.hostRefuse tag (s.judgeHost true (wordAddrs addr n)) addr := by
  have hfits : ¬ (addr % 32 ≠ 0 ∨ data.length ≠ n * (if stamped then 40 else 32)) := by simp [haligned, hlength]
  simp only [State.storageWrite, hfits, if_false, h, ne_eq, not_false_eq_true, if_true]

/-- A write that no command holds up stores its words in order. -/
theorem State.storageWrite_free (hmay : s.judgeHost true (wordAddrs addr n) = 0)
    (hfree : ∀ a ∈ wordAddrs addr n, (s.settleNow (wordAddrs addr n)).wordHeld a = false)
    {g : Nat → EccWord × Option (BitVec 32)} (hwords : hostWords stamped data = (List.range n).map g) :
    s.storageWrite tag addr n stamped data =
      (((s.settleNow (wordAddrs addr n)).settleWrite (wordAddrs addr n)).hostPuts
        ((List.range n).map fun j => (addr + 32 * j, g j))).hostAnswer tag 0 [] := by
  have hfits : ¬ (addr % 32 ≠ 0 ∨ data.length ≠ n * (if stamped then 40 else 32)) := by simp [haligned, hlength]
  have hzip : (wordAddrs addr n).zip (hostWords stamped data) = (List.range n).map fun j => (addr + 32 * j, g j) := by
    rw [hwords, wordAddrs, List.zip_map']
  have hfst : ((List.range n).map fun j => (addr + 32 * j, g j)).map Prod.fst = wordAddrs addr n := by
    rw [List.map_map]; rfl
  have hfreeWords : ∀ w ∈ (List.range n).map fun j => (addr + 32 * j, g j),
      (s.settleNow (wordAddrs addr n)).wordHeld w.1 = false := fun w hw =>
    hfree w.1 (hfst ▸ List.mem_map_of_mem hw)
  have hheld : ((List.range n).map fun j => (addr + 32 * j, g j)).filter
      (fun w => (s.settleNow (wordAddrs addr n)).wordHeld w.1) = [] :=
    List.filter_eq_nil_iff.2 fun w hw => Bool.eq_false_iff.1 (hfreeWords w hw)
  have hnow : ((List.range n).map fun j => (addr + 32 * j, g j)).filter
      (fun w => !(s.settleNow (wordAddrs addr n)).wordHeld w.1) = (List.range n).map fun j => (addr + 32 * j, g j) :=
    List.filter_eq_self.2 fun w hw => congrArg not (hfreeWords w hw)
  simp only [State.storageWrite, hfits, if_false, hmay, ne_eq, not_true_eq_false, hzip, hheld, hnow, hfst, if_true]
  rfl

omit hlength in
/-- What the words of a write leave of storage. -/
theorem State.hostPuts_run (b : State) (g : Nat → EccWord × Option (BitVec 32)) :
    let r := b.hostPuts ((List.range n).map fun j => (addr + 32 * j, g j))
    (∀ j < n, HostStored r (addr + 32 * j) (g j).1 (g j).2) ∧
      ∀ a, a < addr ∨ addr + 32 * n ≤ a → readByte r.mem a = readByte b.mem a := by
  refine ⟨fun j hj => ?_, fun a ha => State.readByte_hostPuts ?_⟩
  · have hasc : ((List.range n).map fun j => (addr + 32 * j, g j)).Pairwise fun x y => x.1 + 32 ≤ y.1 :=
      List.pairwise_map.2 (List.pairwise_lt_range.imp fun h => by omega)
    have haddrs : ∀ w ∈ (List.range n).map fun j => (addr + 32 * j, g j), w.1 % 32 = 0 :=
      List.forall_mem_map.2 fun j _ => by show (addr + 32 * j) % 32 = 0; omega
    exact State.hostPuts_stored haddrs hasc _ (List.mem_map_of_mem (List.mem_range.2 hj))
  · exact List.forall_mem_map.2 fun j hj => by
      have hlt := List.mem_range.1 hj
      show a < addr + 32 * j ∨ addr + 32 * j + 32 ≤ a
      omega

end

end Sys2Proof.Machine

namespace Sys2Proof.Machine

/-! ### The windows (09 R360) -/

section
variable {s : State} {tag : BitVec 8} {n addr : Nat} {data : List Byte}

section
variable (h : addr < 2 ^ 56)
include h

theorem hostWindow_storage : hostWindow addr = 0 := Nat.div_eq_of_lt h

theorem State.hostRead_storage : s.hostRead tag n addr = s.storageRead tag.toNat addr n := by
  rw [State.hostRead, hostWindow_storage h]
  rfl

theorem State.hostWrite_storage : s.hostWrite tag n addr data = s.storageWrite tag.toNat addr n false data := by
  rw [State.hostWrite, hostWindow_storage h]
  rfl

theorem State.hostWriteStamped_storage :
    s.hostWriteStamped tag n addr data = s.storageWrite tag.toNat addr n true data := by
  rw [State.hostWriteStamped, hostWindow_storage h]
  rfl

end

section
variable (hstorage : addr / 2 ^ 56 ≠ 0) (hmirror : addr / 2 ^ 56 ≠ 0x80)
include hstorage hmirror

theorem State.hostRead_outside : s.hostRead tag n addr = s.hostAnswer tag.toNat 0x0612 [] := by
  unfold State.hostRead
  split
  next h => exact absurd h hstorage
  next h => exact absurd h hmirror
  next => rfl

theorem State.hostWrite_outside : s.hostWrite tag n addr data = s.hostAnswer tag.toNat 0x0612 [] := by
  unfold State.hostWrite
  split
  next h => exact absurd h hstorage
  next h => exact absurd h hmirror
  next => rfl

end

end

end Sys2Proof.Machine

namespace Sys2Proof.Proofs

open Sys2Proof.Machine Sys2Proof.Safety

/-- Settles O36: a message of a free tag is served by its window, and a request of storage is answered as its width, the
judgement of its words, their check states and the writes of its words give. -/
theorem hostRequests : Obligations.HostRequests := by
  intro s t tag nw addr data hears n as came read write stamped answers free wrote refuses
  have hhears : (s.advance t).hostHears = true := hears
  have hframe : ∀ ty d, ∃ p, (came ty d).2 = { s.advance t with ports := p } := fun ty d => State.received_frame ..
  have hrefuses : ∀ (o : Host.Outcome State Fault Refusal) (ty : Nat) (d : List Byte) (wr : Bool),
      ((came ty d).2.judgeHost wr as ≠ 0 →
        o = .next ((came ty d).2.hostRefuse tag.toNat ((came ty d).2.judgeHost wr as) addr.toNat)) →
      refuses o (came ty d).2 wr := by
    intro o ty d wr ho c hc hjudge
    obtain ⟨r, hr, hkept, hconflict⟩ := (came ty d).2.hostRefuse_eq tag.toNat c addr.toNat
    have ho := ho (by rw [hjudge]; exact hc)
    rw [hjudge, hr] at ho
    obtain ⟨p, hp⟩ := hframe ty d
    rw [hp] at hkept hconflict
    exact ⟨r, ho, State.field_of_unlogged hkept State.mem fun _ => rfl,
      State.field_of_unlogged hkept State.stamps fun _ => rfl, hconflict⟩
  have hwrote : ∀ (v : State) (size : Nat) (g : Nat → EccWord × Option (BitVec 32)), addr.toNat % 32 = 0 →
      (∀ j, (g j).1 = wordOfBytes ((data.drop (size * j)).take 32)) →
      let r := ((v.settleNow as).settleWrite as).hostPuts ((List.range n).map fun j => (addr.toNat + 32 * j, g j))
      wrote v r size ∧ ∀ j < n, HostStored r (addr.toNat + 32 * j) (g j).1 (g j).2 := by
    intro v size g haligned hg
    obtain ⟨hstored, hout⟩ := State.hostPuts_run (n := n) haligned ((v.settleNow as).settleWrite as) g
    exact ⟨⟨fun j hj => ⟨(hstored j hj).word.trans (hg j), (hstored j hj).good⟩, hout⟩, hstored⟩
  refine ⟨fun hfree hwindow => ⟨fun hcame => ?_, fun hcame => ?_, fun hcame hok => ?_⟩,
    fun hfree hstorage hmirror => ⟨fun hcame => ?_, fun hcame => ?_⟩, fun bad hbad => ⟨fun hcame => ?_, fun hcame => ?_,
      fun hcame => ?_⟩⟩
  · intro v
    have hread : read = .next (v.storageRead tag.toNat addr.toNat n) := congrArg Host.Outcome.next
      ((State.takeHost_served hhears hcame rfl hfree).trans (State.hostRead_storage hwindow))
    have hst : v.st = s.st := (s.advance t).received_st ..
    have hsupply : v.supply = s.supply := (s.advance t).received_supply ..
    refine ⟨fun hmis => ?_, fun haligned => ⟨?_, fun hmay => ⟨fun hfault hdark => ?_, fun hlit hheld => ⟨fun hecc => ?_,
      fun hecc => ?_⟩⟩⟩⟩
    · rw [hread, State.storageRead_misaligned hmis]
    · exact hrefuses read 1 [] false fun h => by rw [hread, State.storageRead_refused haligned h]
    · rw [hread, State.storageRead_dark haligned hmay ⟨hst.trans hfault, hsupply ▸ hdark⟩]
    · have hlit : v.st = .fault → v.supply.dark = false := by rw [hst, hsupply]; exact hlit
      obtain ⟨r, hr, hregs⟩ := State.storageRead_readable haligned hmay hlit hheld hecc (tag := tag.toNat)
      exact ⟨r, hread.trans (congrArg Host.Outcome.next hr), hregs⟩
    · have hlit : v.st = .fault → v.supply.dark = false := by rw [hst, hsupply]; exact hlit
      obtain ⟨r, hr, hkept⟩ := State.storageRead_unreadable haligned hmay hlit hheld hecc (tag := tag.toNat)
      exact ⟨r, hread.trans (congrArg Host.Outcome.next hr), State.field_of_unlogged hkept State.mem fun _ => rfl,
        State.field_of_unlogged hkept State.stamps fun _ => rfl⟩
  · intro v
    have hwrite : write = .next (v.storageWrite tag.toNat addr.toNat n false data) := congrArg Host.Outcome.next
      ((State.takeHost_served hhears hcame rfl hfree).trans (State.hostWrite_storage hwindow))
    refine ⟨fun hmis => ?_, fun haligned hlength => ⟨?_, fun hmay hheld => ?_⟩⟩
    · rw [hwrite, State.storageWrite_misfit (by rw [Nat.mul_comm n]; exact hmis)]
    · exact hrefuses write 2 data true fun h => by
        rw [hwrite, State.storageWrite_refused haligned (hlength.trans (Nat.mul_comm 32 n)) h]
    · have hstored := State.storageWrite_free haligned (hlength.trans (Nat.mul_comm 32 n)) hmay hheld
        (hostWords_plain hlength) (tag := tag.toNat)
      obtain ⟨hdata, hstamps⟩ := hwrote v 32 (plainWord data) haligned fun j => rfl
      exact ⟨_, hwrite.trans (congrArg Host.Outcome.next hstored), hdata, fun j hj hvault => (hstamps j hj).none hvault rfl⟩
  · intro v
    have hstamped : stamped = .next (v.storageWrite tag.toNat addr.toNat n true data) := congrArg Host.Outcome.next
      ((State.takeHost_served hhears hcame (by rw [hok]; rfl) hfree).trans (State.hostWriteStamped_storage hwindow))
    refine ⟨fun hmis => ?_, fun haligned hlength => ⟨?_, fun hmay hheld => ?_⟩⟩
    · rw [hstamped, State.storageWrite_misfit (by rw [Nat.mul_comm n]; exact hmis)]
    · exact hrefuses stamped 3 data true fun h => by
        rw [hstamped, State.storageWrite_refused haligned (hlength.trans (Nat.mul_comm 40 n)) h]
    · have hstored := State.storageWrite_free haligned (hlength.trans (Nat.mul_comm 40 n)) hmay hheld
        (hostWords_stamped hlength) (tag := tag.toNat)
      obtain ⟨hdata, hstamps⟩ := hwrote v 40 (stampedWord data) haligned fun j => rfl
      refine ⟨_, hstamped.trans (congrArg Host.Outcome.next hstored), hdata, fun j hj hvault => ?_⟩
      refine ((hstamps j hj).given hvault _ rfl).trans ?_
      rw [toNat_ofNat_leNat (List.length_take_le ..)]
  · exact congrArg Host.Outcome.next
      ((State.takeHost_served hhears hcame rfl hfree).trans (State.hostRead_outside hstorage hmirror))
  · exact congrArg Host.Outcome.next
      ((State.takeHost_served hhears hcame rfl hfree).trans (State.hostWrite_outside hstorage hmirror))
  · exact congrArg Host.Outcome.next (State.takeHost_error hhears hcame hbad)
  · exact congrArg Host.Outcome.next (State.takeHost_error hhears hcame hbad)
  · refine congrArg Host.Outcome.next (State.takeHost_error hhears hcame (hbad.imp_left fun h => ?_))
    rw [h, Bool.true_or]

end Sys2Proof.Proofs

/-! SPLIT_SELECTION (05 R215-R217; 06 R239): accesses of the cox leave the umpire and the pages as they are, and the start of
a call gives it a lane for each of its batch and leaves the umpire alone. -/

namespace Sys2Proof.Machine

/-! ### Accesses of the cox (05 R207; log 39) -/

/-- A state without what work in flight and accesses of the cox can change. -/
def State.coxRest (s : State) : State := { s.rest with fresh := 0 }

/-- What work in flight keeps, accesses of the cox keep. -/
theorem State.coxRest_of_rest {s t : State} (h : t.rest = s.rest) : t.coxRest = s.coxRest := by
  rw [State.coxRest, h, State.coxRest]

/-- A field that accesses of the cox keep. -/
theorem State.field_of_coxRest {α : Type} {s t : State} (h : t.coxRest = s.coxRest) (f : State → α)
    (hf : ∀ u : State, f u.coxRest = f u) : f t = f s := by rw [← hf t, h, hf]

section
variable (s : State) (c : CoreId) (bank : Nat) (as : List Nat)

@[simp] theorem State.coxRest_setNb (k : NbUnit) : (s.setNb c bank k).coxRest = s.coxRest := rfl

@[simp] theorem State.coxRest_unitWrite (a : Nat) (w : EccWord) : (s.unitWrite a w).coxRest = s.coxRest :=
  State.coxRest_of_rest (s.unitWrite_rest a w)

@[simp] theorem State.coxRest_catchUp (sg : Nat) : (s.catchUp c sg).coxRest = s.coxRest :=
  State.coxRest_of_rest (s.catchUp_rest c sg)

@[simp] theorem State.coxRest_countReads (req : Nat) : (s.countReads req as).1.coxRest = s.coxRest :=
  State.coxRest_of_rest (State.countReads_rest as s req)

@[simp] theorem State.coxRest_runPicked (p : Job → Bool) : (s.runPicked c p).coxRest = s.coxRest :=
  State.coxRest_of_rest (foldl_rest (fun t j => t.runJob_rest c j) _ _)

@[simp] theorem State.coxRest_writtenBack (r : NbRun) (sg : Nat) : (s.writtenBack r sg).2.coxRest = s.coxRest := by
  unfold State.writtenBack
  split <;> rfl

@[simp] theorem State.coxRest_writeBack (sg : Nat) : (s.writeBack c bank sg as).coxRest = s.coxRest := by
  unfold State.writeBack
  split
  · rfl
  · split
    · rfl
    · refine foldl_keeps State.coxRest (fun t p _ => ?_) s
      dsimp only
      split <;> simp

@[simp] theorem State.coxRest_coxBefore (write : Bool) : (s.coxBefore write as).coxRest = s.coxRest := by
  refine foldl_keeps State.coxRest (fun t p _ => ?_) s
  split
  · simp [State.coxSlot]
  · split <;> simp [State.beforeWrite, State.beforeRead]

@[simp] theorem State.coxRest_readFor (req : Nat) : (s.readFor req as).1.coxRest = s.coxRest := by
  unfold State.readFor
  dsimp only
  split
  · rfl
  · split <;> simp

@[simp] theorem State.coxRest_coxWords (a n : Nat) : (s.coxWords a n).1.coxRest = s.coxRest := by simp [State.coxWords]

@[simp] theorem State.coxRest_coxWord (a : Nat) : (s.coxWord a).1.coxRest = s.coxRest := by
  unfold State.coxWord State.wordFor
  dsimp only
  split
  · simp
  · exact s.coxRest_readFor [a] reqCox

@[simp] theorem State.coxRest_coxWrites (a : Nat) (ws : List EccWord) : (s.coxWrites a ws).coxRest = s.coxRest := by
  simp only [State.coxWrites]
  split
  · refine (foldl_keeps State.coxRest (fun t p _ => by simp) _).trans ?_
    simp
  · rfl

end

/-! ### The start of a call (06 R239, R242) -/

/-- What the start of a call keeps but for its lanes: the umpire, the round, and how many lanes there are. -/
def State.callShape (s : State) : Umpire × Nat × Nat := (s.umpire, s.pages.round, s.pages.call.length)

theorem State.callShape_of_coxRest {s t : State} (h : t.coxRest = s.coxRest) : t.callShape = s.callShape :=
  State.field_of_coxRest h State.callShape fun _ => rfl

section
variable (s : State)

theorem State.callShape_starting (b : Bool) :
    (s.setPages { s.pages with starting := b }).callShape = s.callShape := rfl

@[simp] theorem State.callShape_setReg (i j : Nat) (v : BitVec 64) : (s.setReg i j v).callShape = s.callShape := rfl

@[simp] theorem State.callShape_coxWords (a n : Nat) : (s.coxWords a n).1.callShape = s.callShape :=
  State.callShape_of_coxRest (s.coxRest_coxWords a n)

@[simp] theorem State.callShape_coxWord (a : Nat) : (s.coxWord a).1.callShape = s.callShape :=
  State.callShape_of_coxRest (s.coxRest_coxWord a)

@[simp] theorem State.callShape_coxWrites (a : Nat) (ws : List EccWord) : (s.coxWrites a ws).callShape = s.callShape :=
  State.callShape_of_coxRest (s.coxRest_coxWrites a ws)

/-! Slots and pages. -/

@[simp] theorem State.callShape_slotGen (e : PoolEntry) (k : Nat) : (s.slotGen e k).1.callShape = s.callShape :=
  s.callShape_coxWord _

@[simp] theorem State.callShape_setTier (e : PoolEntry) (k : Nat) (p : Page) (tier : Nat) :
    (s.setTier e k p tier).callShape = s.callShape := by simp [State.setTier]

@[simp] theorem State.callShape_fillSlot (e : PoolEntry) (k : Nat) (p : Page) (tier from' : Nat) :
    (s.fillSlot e k p tier from').1.callShape = s.callShape := by
  unfold State.fillSlot
  dsimp only
  split <;> simp

@[simp] theorem State.callShape_modPage (h : Nat) (f : Page → Page) : (s.modPage h f).callShape = s.callShape := rfl

@[simp] theorem State.callShape_dropPage (h : Nat) : (s.dropPage h).callShape = s.callShape := rfl

@[simp] theorem State.callShape_setSeq (x : SeqState) : (s.setSeq x).callShape = s.callShape := rfl

@[simp] theorem State.callShape_showTier (p : Page) (tier : Nat) : (s.showTier p tier).callShape = s.callShape := by
  unfold State.showTier
  split
  · split <;> simp
  · rfl

@[simp] theorem State.callShape_freePage (p : Page) : (s.freePage p).callShape = s.callShape := by simp [State.freePage]

@[simp] theorem State.callShape_freeUnused : s.freeUnused.callShape = s.callShape :=
  foldl_keeps State.callShape (fun t p _ => t.callShape_freePage p) s

@[simp] theorem State.callShape_releaseSeq (q : Nat) : (s.releaseSeq q).callShape = s.callShape :=
  State.callShape_freeUnused _

@[simp] theorem State.callShape_needSlot (i : Nat) : (s.needSlot i).1.callShape = s.callShape := by
  unfold State.needSlot
  split
  · rfl
  · split
    · rfl
    · rfl
    · split <;> simp

@[simp] theorem State.callShape_cancelSpill (h : Nat) : (s.cancelSpill h).callShape = s.callShape := by
  unfold State.cancelSpill
  split
  · rfl
  · split
    · rfl
    · exact (State.callShape_modPage _ _ _).trans (State.callShape_showTier _ _ _)

@[simp] theorem State.callShape_wantPage (h : Nat) : (s.wantPage h).1.callShape = s.callShape := by
  unfold State.wantPage
  split
  · rfl
  · split
    · split <;> simp
    · split
      · rfl
      next i _ =>
        have hslot := s.callShape_needSlot i
        dsimp only
        split
        · dsimp only
          split
          · exact (State.callShape_setTier _ _ _ _ _).trans hslot
          · exact hslot
        · exact hslot
        · exact hslot

@[simp] theorem State.callShape_prefetch (f : Page → Bool) : (s.prefetch f).callShape = s.callShape :=
  foldl_keeps State.callShape (fun t p _ => t.callShape_wantPage p.handle) s

/-! Lanes. -/

@[simp] theorem State.callShape_endLane (b status : Nat) : (s.endLane b status).callShape = s.callShape := by
  simp [State.endLane, State.modLane, State.callShape, State.setPages]

@[simp] theorem State.callShape_takeNode (q : Nat) (h : BitVec 64) : (s.takeNode q h).callShape = s.callShape :=
  foldl_keeps State.callShape (fun t p _ => t.callShape_wantPage p.handle) _

theorem State.callShape_walk (q : Nat) (h : BitVec 64) (k ord : Nat) (toks : List (BitVec 32)) :
    (s.walk q h k ord toks).1.callShape = s.callShape := by
  induction k generalizing s h ord toks with
  | zero => rfl
  | succ k ih =>
    unfold State.walk
    dsimp only
    split
    · rfl
    · split
      · rfl
      · split
        · rfl
        · rw [ih, State.callShape_takeNode]

@[simp] theorem State.callShape_promptIds (a n : Nat) : (s.promptIds a n).1.callShape = s.callShape :=
  s.callShape_coxWords _ _

@[simp] theorem State.callShape_needPage (p : Page) : (s.needPage p).callShape = s.callShape := by
  unfold State.needPage
  dsimp only
  split
  · simp
  · refine (foldl_keeps State.callShape (fun t b _ => ?_) _).trans (s.callShape_wantPage p.handle)
    split <;> simp

@[simp] theorem State.callShape_toLanding (p : Page) : (s.toLanding p).callShape = s.callShape := by
  unfold State.toLanding
  split <;> simp

@[simp] theorem State.callShape_writeRound (r : Nat) : (s.writeRound r).callShape = s.callShape := by
  unfold State.writeRound
  split
  · rfl
  · refine foldl_keeps State.callShape (fun t e _ => ?_) s
    refine foldl_keeps State.callShape (fun t i _ => ?_) t
    dsimp only
    split <;> simp

@[simp] theorem State.callShape_writeTurnRecords : s.writeTurnRecords.callShape = s.callShape := by
  unfold State.writeTurnRecords
  split
  · rfl
  · exact foldl_keeps State.callShape (fun t lb _ => t.callShape_coxWrites _ _) s

@[simp] theorem State.callShape_useRound (r : Nat) : (s.useRound r).callShape = s.callShape := rfl

/-- While its first pages come, a call keeps its lanes (06 R238, R242). -/
@[simp] theorem State.callShape_startGoOn : s.startGoOn.callShape = s.callShape := by
  unfold State.startGoOn
  split
  · rfl
  · have hneed : ∀ l : List Page, (l.foldl State.needPage s).callShape = s.callShape := fun l =>
      foldl_keeps State.callShape (fun t p _ => t.callShape_needPage p) s
    have hland : ∀ (l : List Page) (t : State), (l.foldl State.toLanding t).callShape = t.callShape := fun l t =>
      foldl_keeps State.callShape (fun t p _ => t.callShape_toLanding p) t
    dsimp only
    split
    · exact hneed _
    · rw [State.callShape_useRound, State.callShape_starting, State.callShape_writeTurnRecords,
        State.callShape_writeRound, hland, hneed]

end

/-- A lane joins the call. -/
def oneLaneMore (p : Umpire × Nat × Nat) : Umpire × Nat × Nat := (p.1, p.2.1, p.2.2 + 1)

section
variable (s : State)

@[simp] theorem State.callShape_addLane (l : LaneRec) : (s.addLane l).callShape = oneLaneMore s.callShape := by
  simp [State.addLane, State.callShape, State.setPages, oneLaneMore]

theorem State.callShape_beginLane (pool : Pool) (w : EccWord) (prompt : List (BitVec 32)) :
    (s.beginLane pool w prompt).callShape = oneLaneMore s.callShape := by
  unfold State.beginLane
  extract_lets q fresh s1 s2 r s3 rest pos s4
  have h1 : s1.callShape = s.callShape := by
    simp only [s1]
    split <;> simp
  have h2 : s2.callShape = s1.callShape := by
    simp only [s2]
    split <;> simp
  have hwalk : r.1.callShape = s2.callShape := by
    simp only [r]
    split
    · exact s2.callShape_walk ..
    · rfl
  have h3 : s3.callShape = r.1.callShape := by
    simp only [s3]
    split
    · split <;> simp
    · rfl
  have h4 : s4.callShape = oneLaneMore s.callShape := by
    rw [State.callShape_addLane, h3, hwalk, h2, h1]
  clear_value s4
  split
  · rw [State.setRegN_eq, State.callShape_setReg, State.callShape_addLane, h1]
  · split
    · rw [State.setRegN_eq, State.callShape_setReg, h4]
    · exact h4

/-- Every lane record adds a lane, whether it begins or not (06 R239). -/
theorem State.callShape_startLane (pool : Pool) (a : Nat) : (s.startLane pool a).callShape = oneLaneMore s.callShape := by
  unfold State.startLane
  dsimp only
  split
  · simp
  · split
    · simp
    · split
      · simp
      · rw [State.callShape_beginLane]
        simp

/-- A call of n lanes. -/
theorem State.callShape_startLanes (pool : Pool) (watch n : Nat) :
    ((List.range n).foldl (fun (t : State) k => t.startLane pool (watch + 32 * (k + 1))) s).callShape =
      (s.umpire, s.pages.round, s.pages.call.length + n) := by
  induction n with
  | zero => rfl
  | succ n ih => rw [List.range_succ, List.foldl_append, List.foldl_cons, List.foldl_nil, State.callShape_startLane, ih]; rfl

/-- A call begins with a lane for each of its batch, up to BMAX, and leaves the umpire alone (06 R239; log 64). -/
theorem State.callShape_beginCall {pool : Pool} (hpool : s.pages.pool = some pool) (watch b : Nat) :
    (s.beginCall watch b).callShape = (s.umpire, 0, min b pool.bmax) := by
  simp only [State.beginCall, hpool]
  rw [State.callShape_startGoOn, State.callShape_starting]
  refine (State.callShape_prefetch _ _).trans ((State.callShape_startLanes _ pool watch _).trans ?_)
  simp [State.setPages]

end

end Sys2Proof.Machine

namespace Sys2Proof.Machine

/-! ### The call of a fill (06 R239; log 64) -/

section
variable {s : State} (watch b : Nat)

theorem State.startCall_without_pool (hpool : s.pages.pool = none) : s.startCall watch b = s := by
  simp only [State.startCall, hpool, Option.isNone_none, if_true]

variable {pool : Pool} (hpool : s.pages.pool = some pool)
include hpool

theorem State.startCall_begins (hcall : s.pages.call = []) : s.startCall watch b = s.beginCall watch b := by
  simp only [State.startCall, hpool, Option.isNone_some, Bool.false_eq_true, if_false, hcall, if_true]

theorem State.startCall_during_call (hcall : s.pages.call ≠ []) :
    s.startCall watch b = { s with pages := { s.pages with waiting := s.pages.waiting ++ [(watch, b)] } } := by
  simp only [State.startCall, hpool, Option.isNone_some, Bool.false_eq_true, if_false, hcall, State.setPages]

end

/-! ### The selection of a fill (05 R215-R217) -/

section
variable {s : State} {sp : Split} {m : MbEntry} {n : Nat}
variable (hsplit : s.split = some sp) (hbox : s.dispatchBox = some (m, n)) (hst : s.st = .running)
include hsplit hbox hst

/-- Without a fill for which no selection waits, nothing is selected. -/
theorem State.dispatchFill_waits (h : ¬ (s.umpire.selNext.length + 1) * n ≤ (s.mailbox m.id).toNat) :
    s.dispatchFill = s := by
  simp only [State.dispatchFill, hsplit, hbox, hst, ne_eq, not_true_eq_false, false_or, gt_iff_lt, Nat.not_le.1 h, if_true]

/-- A fill for which no selection waits takes one by its batch, and begins its call. -/
theorem State.dispatchFill_selects (h : (s.umpire.selNext.length + 1) * n ≤ (s.mailbox m.id).toNat) :
    let b := max 1 (fld (s.coxWord m.watch).2 128 16)
    let sel := sp.entries.map fun e => (e.window, variantFor e b)
    s.dispatchFill = State.startCall { (s.coxWord m.watch).1 with
      umpire := { s.umpire with selNext := s.umpire.selNext ++ [(b, sel)] } } m.watch b := by
  have humpire : (s.coxWord m.watch).1.umpire = s.umpire :=
    State.field_of_coxRest (s.coxRest_coxWord m.watch) State.umpire fun _ => rfl
  simp only [State.dispatchFill, hsplit, hbox, hst, ne_eq, not_true_eq_false, false_or, gt_iff_lt, Nat.not_lt.2 h, if_false,
    humpire, State.setUmpire]

end

end Sys2Proof.Machine

namespace Sys2Proof.Proofs

open Sys2Proof.Machine

/-- Settles O34: a fill for which no selection waits takes one by its batch; its call begins with its lanes, or waits for the
end of the present one. -/
theorem splitSelects : Obligations.SplitSelects := by
  intro s time sp m n hsplit hbox hst enough read named b chosen selected
  have hpages : selected.pages = s.pages :=
    State.field_of_coxRest ((s.advance time).coxRest_coxWord m.watch) State.pages fun _ => rfl
  have hbatch : max 1 named = b := by
    show max 1 named = if named = 0 then 1 else named
    split <;> omega
  have hselects : enough → exec (.splitSelection time) s = .next (selected.startCall m.watch b) := by
    intro h
    have hfill := State.dispatchFill_selects (s := s.advance time) hsplit hbox hst h
    simp only [show max 1 (fld ((s.advance time).coxWord m.watch).2 128 16) = b from hbatch] at hfill
    exact congrArg Host.Outcome.next hfill
  refine ⟨fun h hpool => ?_, fun h pool hpool => ⟨fun hcall => ?_, fun hcall => ?_⟩, fun h => ?_⟩
  · rw [hselects h, State.startCall_without_pool _ _ (hpages ▸ hpool)]
  · rw [hselects h, State.startCall_during_call _ _ (hpages ▸ hpool) (hpages ▸ hcall), hpages]
  · rw [hselects h, State.startCall_begins _ _ (hpages ▸ hpool) (hpages ▸ hcall)]
    have hshape := selected.callShape_beginCall (hpages ▸ hpool) m.watch b
    simp only [State.callShape, Prod.mk.injEq] at hshape
    obtain ⟨humpire, hround, hlanes⟩ := hshape
    exact ⟨_, rfl, humpire, hlanes, hround⟩
  · exact congrArg Host.Outcome.next (State.dispatchFill_waits (s := s.advance time) hsplit hbox hst h)

end Sys2Proof.Proofs

/-! The ends of a crew's step (07 R268-R298): what keeps the crews and their registers, what a packet's way out reaches, and
what epilogues, seals, preambles, credits and deadlines make of a crew. -/

namespace Sys2Proof.Machine

open Sys2Proof.Safety

/-! ### Registers of crews -/

/-- A key of the registers that crews have (7010h to 710Fh). -/
abbrev CrewKey (k : Nat) : Prop := 0x7010 ≤ k / 256 ∧ k / 256 < 0x7110

theorem crewKey_regKey {c j : Nat} (hc : c < 256) (hj : j < 256) : CrewKey (regKey (0x7010 + c) j) := by
  unfold CrewKey regKey
  omega

theorem pkCrew_lt (h : EccWord) : pkCrew h < 256 := Nat.mod_lt _ (by decide)

theorem CrewKey.quiet {k : Nat} (h : CrewKey k) : quietKey k := by
  simp only [quietKey, List.mem_cons, List.not_mem_nil, or_false]
  omega

/-- A register keeps its value when another subindex is written, of whatever object. -/
theorem State.reg_setReg_of_sub_ne (s : State) (i i' : Nat) {j j' : Nat} (v : BitVec 64) (hj : j < 256) (hj' : j' < 256)
    (h : j' ≠ j) : (s.setReg i j v).reg i' j' = s.reg i' j' :=
  s.reg_setReg_ne v (by unfold regKey; omega)

theorem State.reg_crewReg_of_sub_ne (s : State) (c i' v : Nat) {j j' : Nat} (hj : j < 256) (hj' : j' < 256) (h : j' ≠ j) :
    (s.crewReg c j v).reg i' j' = s.reg i' j' := s.reg_setReg_of_sub_ne _ i' _ hj hj' h

/-- A step that keeps the crews and their registers. -/
structure KeepsCrews (s t : State) : Prop where
  crews : t.crews = s.crews
  regs : ∀ k, CrewKey k → t.at' k = s.at' k

namespace KeepsCrews

variable {s t u : State}

theorem refl (s : State) : KeepsCrews s s := ⟨rfl, fun _ _ => rfl⟩

theorem trans (h : KeepsCrews s t) (h' : KeepsCrews t u) : KeepsCrews s u :=
  ⟨h'.crews.trans h.crews, fun k hk => (h'.regs k hk).trans (h.regs k hk)⟩

theorem crew (h : KeepsCrews s t) (c : Nat) : t.crew c = s.crew c := by rw [State.crew, h.crews, State.crew]

theorem reg (h : KeepsCrews s t) {c j : Nat} (hc : c < 256) (hj : j < 256) :
    t.reg (0x7010 + c) j = s.reg (0x7010 + c) j := h.regs _ (crewKey_regKey hc hj)

theorem jobRank (h : KeepsCrews s t) : t.jobRank = s.jobRank :=
  congrArg BitVec.toNat (h.reg (c := 0) (j := 1) (by decide) (by decide))

theorem ite (p : Prop) [Decidable p] (h : KeepsCrews s t) (h' : KeepsCrews s u) : KeepsCrews s (if p then t else u) := by
  split
  · exact h
  · exact h'

theorem foldl {α : Type} {f : State → α → State} (h : ∀ s x, KeepsCrews s (f s x)) (l : List α) (s : State) :
    KeepsCrews s (l.foldl f s) := by
  induction l generalizing s with
  | nil => exact refl s
  | cons x l ih => exact (h s x).trans (ih _)

/-- A fold that gathers something beside the state. -/
theorem foldl_fst {α β : Type} {f : State × β → α → State × β} (h : ∀ p x, KeepsCrews p.1 (f p x).1) (l : List α)
    (p : State × β) : KeepsCrews p.1 (l.foldl f p).1 := by
  induction l generalizing p with
  | nil => exact refl p.1
  | cons x l ih => exact (h p x).trans (ih _)

theorem setReg (s : State) {i j : Nat} (v : BitVec 64) (h : ¬ CrewKey (regKey i j)) : KeepsCrews s (s.setReg i j v) := by
  refine ⟨rfl, fun k hk => ?_⟩
  have hne : k ≠ regKey i j := fun e => h (e ▸ hk)
  simp only [State.at', State.setReg_regs, tblGet, tblFind_set_ne _ _ _ hne]

theorem event (s : State) {k : Nat} (hk : k < 255) : KeepsCrews s (s.event k) :=
  ⟨by simp [State.event], fun _ h => State.event_at h.quiet s k hk⟩

end KeepsCrews

/-! ### Reads by port engines (05 R173, R187, R207) -/

section
variable (s : State) (c : CoreId) (bank : Nat) (as : List Nat)

theorem keepsCrews_runJob (j : Job) : KeepsCrews s (s.runJob c j) :=
  ⟨State.of_rest (s.runJob_rest c j) State.crews fun _ => rfl, fun _ h => State.runJob_at h.quiet s c j⟩

theorem keepsCrews_runPicked (p : Job → Bool) : KeepsCrews s (s.runPicked c p) :=
  have htaken : KeepsCrews s (s.setCore c { s.core c with todo := (s.core c).todo.filter fun j => !p j }) :=
    ⟨rfl, fun _ _ => rfl⟩
  htaken.trans (KeepsCrews.foldl (fun t j => keepsCrews_runJob t c j) _ _)

theorem keepsCrews_catchUp (sg : Nat) : KeepsCrews s (s.catchUp c sg) :=
  ⟨State.of_rest (s.catchUp_rest c sg) State.crews fun _ => rfl, fun _ h => State.runJobs_at h.quiet c sg _ s⟩

theorem keepsCrews_unitWrite (a : Nat) (w : EccWord) : KeepsCrews s (s.unitWrite a w) :=
  ⟨State.of_rest (s.unitWrite_rest a w) State.crews fun _ => rfl, fun _ _ => State.unitWrite_at s a w⟩

theorem keepsCrews_writtenBack (r : NbRun) (sg : Nat) : KeepsCrews s (s.writtenBack r sg).2 := by
  unfold State.writtenBack
  split <;> exact ⟨rfl, fun _ _ => rfl⟩

theorem keepsCrews_writeBack (sg : Nat) : KeepsCrews s (s.writeBack c bank sg as) := by
  unfold State.writeBack
  split
  · exact .refl s
  · split
    · exact .refl s
    · refine KeepsCrews.foldl (fun t p => ?_) _ s
      dsimp only
      split
      · exact ((keepsCrews_writtenBack t _ sg).trans (keepsCrews_unitWrite _ p.1 p.2)).trans ⟨rfl, fun _ _ => rfl⟩
      · exact keepsCrews_writtenBack t _ sg

theorem keepsCrews_coxBefore (write : Bool) : KeepsCrews s (s.coxBefore write as) := by
  refine KeepsCrews.foldl (fun t p => ?_) _ s
  split
  · exact (keepsCrews_runPicked t p.1 _).trans (keepsCrews_writeBack _ p.1 p.2 as _)
  · split
    · exact (keepsCrews_catchUp t p.1 _).trans (keepsCrews_runPicked _ p.1 _)
    · exact keepsCrews_catchUp t p.1 _

theorem keepsCrews_readFor (req : Nat) : KeepsCrews s (s.readFor req as).1 := by
  have hcount : KeepsCrews s ((s.coxBefore false as).countReads req as).1 :=
    (keepsCrews_coxBefore s as false).trans
      ⟨State.of_rest (State.countReads_rest as _ req) State.crews fun _ => rfl, fun _ h => State.countReads_at h.quiet as _ req⟩
  unfold State.readFor
  dsimp only
  split
  · exact .refl s
  · split <;> exact hcount

theorem keepsCrews_wordFor (req a : Nat) : KeepsCrews s (s.wordFor req a).1 := by
  unfold State.wordFor
  dsimp only
  split
  · exact keepsCrews_readFor s [a] req
  · exact (keepsCrews_readFor s [a] req).trans ⟨rfl, fun _ _ => rfl⟩

end

theorem keepsCrews_layerCodes (s : State) (d : CrewDef) (l : CrewLayer) : KeepsCrews s (s.layerCodes d l).1 := by
  unfold State.layerCodes
  refine KeepsCrews.foldl_fst (fun p w => ?_) _ (s, ([] : List Byte))
  exact keepsCrews_wordFor p.1 reqPort w

/-- The own preamble is formed from the scale table (07 Table 7.9). -/
theorem keepsCrews_preambleBody (s : State) (c : Nat) (r : CrewRun) : KeepsCrews s (s.preambleBody c r).1 := by
  unfold State.preambleBody State.scaleRecords
  refine KeepsCrews.foldl_fst (fun p l => ?_) _ (s, ([] : List EccWord))
  exact keepsCrews_layerCodes p.1 r.defn l

/-! ### Packets on their way out (09 R332-R348) -/

/-- A step that sends: it reaches the ports, what is sent, and registers of ports. -/
structure Sends (s t : State) : Prop extends KeepsCrews s t where
  frame : t = { s with ports := t.ports, regs := t.regs, outbox := t.outbox }
  outbox : s.outbox ⊆ t.outbox

namespace Sends

variable {s t u : State}

theorem refl (s : State) : Sends s s := ⟨.refl s, rfl, fun _ h => h⟩

theorem trans (h : Sends s t) (h' : Sends t u) : Sends s u :=
  ⟨h.toKeepsCrews.trans h'.toKeepsCrews, by rw [h'.frame, h.frame], fun _ hm => h'.outbox (h.outbox hm)⟩

theorem foldl {α : Type} {f : State → α → State} (h : ∀ s x, Sends s (f s x)) (l : List α) (s : State) :
    Sends s (l.foldl f s) := by
  induction l generalizing s with
  | nil => exact refl s
  | cons x l ih => exact (h s x).trans (ih _)

theorem crewMbs (h : Sends s t) (c ev : Nat) : t.crewMbs c ev = s.crewMbs c ev := by rw [h.frame]; rfl

theorem mailbox (h : Sends s t) (m : Nat) : t.mailbox m = s.mailbox m := by rw [h.frame]; rfl

theorem setPort (s : State) (i : Nat) (p : PortState) : Sends s (s.setPort i p) :=
  ⟨⟨rfl, fun _ _ => rfl⟩, rfl, fun _ h => h⟩

theorem send (s : State) (m : Msg) : Sends s (s.send m) :=
  ⟨⟨rfl, fun _ _ => rfl⟩, rfl, fun _ h => List.mem_append_left [m] h⟩

/-- A counter of a port, or of its injected faults. -/
theorem bumpReg (s : State) {i j : Nat} (n : Nat) (hi : 0x7110 ≤ i) : Sends s (s.bumpReg i j n) :=
  ⟨KeepsCrews.setReg s _ (by unfold CrewKey regKey; omega), rfl, fun _ h => h⟩

theorem injectFault (s : State) (i layer tag : Nat) : Sends s (s.injectFault i layer tag).1 := by
  unfold State.injectFault
  split
  · exact refl s
  · exact (setPort s i _).trans (bumpReg _ _ (by omega))

theorem emit (s : State) (i l tag : Nat) (f : Flit) : Sends s (s.emit i l tag f) := by
  have hinject := injectFault s i 0 tag
  unfold State.emit
  dsimp only
  split
  · exact hinject
  · split
    · exact hinject.trans (setPort _ _ _)
    · split
      · exact ((hinject.trans (setPort _ i _)).trans (send _ _)).trans (send _ _)
      · exact (hinject.trans (setPort _ i _)).trans (send _ _)

theorem pump (s : State) (i : Nat) : Sends s (s.pump i) := by
  have hgo : ∀ n s, Sends s (State.pumpGo i n s) := by
    intro n
    induction n with
    | zero => exact refl
    | succ n ih =>
      intro s
      unfold State.pumpGo
      split
      · next t ht =>
        refine trans ?_ (ih t)
        unfold State.pumpOnce at ht
        dsimp only at ht
        split at ht
        · split at ht
          · cases ht
          · cases ht
            exact (setPort s i _).trans (emit _ i _ _ _)
        · cases ht
      · exact refl s
  exact hgo _ s

theorem routePacket (s : State) (charge : Nat) (from' : Option (Nat × Nat)) (h : EccWord) (bytes : List Byte) :
    Sends s (s.routePacket charge from' h bytes) := by
  unfold State.routePacket
  split
  · exact bumpReg s 1 (by omega)
  · exact (setPort s _ _).trans (pump _ _)

section
variable (s : State) (c kind wire : Nat) (step : BitVec 32) (layer chunk dst flags : Nat) (body : List EccWord)

theorem crewSend : Sends s (s.crewSend c kind wire step layer chunk dst flags body) :=
  (send s _).trans (routePacket _ _ _ _ _)

theorem mem_outbox_crewSend : Msg.packet (pkHeader kind wire c step layer chunk s.jobRank dst flags (32 * body.length)) body ∈
    (s.crewSend c kind wire step layer chunk dst flags body).outbox :=
  (routePacket _ _ _ _ _).outbox (List.mem_append_right _ (.head _))

end

section
variable (s : State) (c kind : Nat) (r : CrewRun) (layer chunk : Nat) (body : List EccWord)

theorem crewSendAll : Sends s (s.crewSendAll c kind r layer chunk body) :=
  foldl (fun t m => crewSend t c kind 0 r.step layer chunk m 0 body) _ s

/-- Every other member is sent a packet. -/
theorem mem_outbox_crewSendAll {m : Nat} (hm : m ∈ r.defn.members) (hne : m ≠ s.jobRank) :
    Msg.packet (pkHeader kind 0 c r.step layer chunk s.jobRank m 0 (32 * body.length)) body ∈
      (s.crewSendAll c kind r layer chunk body).outbox := by
  have hsend := fun t m => crewSend t c kind 0 r.step layer chunk m 0 body
  have hother : m ∈ r.defn.members.filter (· ≠ s.jobRank) := List.mem_filter.2 ⟨hm, decide_eq_true hne⟩
  obtain ⟨before, after, hsplit⟩ := List.append_of_mem hother
  have hrank := (foldl hsend before s).jobRank
  unfold State.crewSendAll
  rw [hsplit, List.foldl_append, List.foldl_cons, ← hrank]
  exact (foldl hsend after _).outbox (mem_outbox_crewSend _ c kind 0 r.step layer chunk m 0 body)

end

end Sends

/-! ### Crews and their nodes -/

section
variable (s : State) (c : Nat) (r : CrewRun) (lid : Nat) (n : NodeState)

@[simp] theorem State.crew_setCrew_same : (s.setCrew c r).crew c = some r := tblFind_put_same _ _ _

@[simp] theorem State.crew_setNode_same : (s.setNode c r lid n).crew c = some (r.setNode lid n) := tblFind_put_same _ _ _

@[simp] theorem CrewRun.node_setNode_same : (r.setNode lid n).node lid = n := tblGet_set_same _ _ _ _

theorem CrewRun.node_setNode_ne {j : Nat} (h : j ≠ lid) : (r.setNode lid n).node j = r.node j := tblGet_set_ne _ _ _ h

end

/-- Where the crew has one node set, that node is what the step gave its layer. -/
theorem nodeGets_of_crew {t : State} {c lid : Nat} {r : CrewRun} {n : NodeState} (h : t.crew c = some (r.setNode lid n)) :
    NodeGets r lid n t c :=
  ⟨_, h, rfl, r.node_setNode_same lid n, fun _ hj => r.node_setNode_ne lid n hj⟩

/-! ### Packets that a port has delivered (07 R278; 09 R371) -/

section
variable {s : State} {i kind : Nat} {hdr : EccWord} {body : List EccWord} {r : CrewRun}

theorem State.received_fst_advance (s : State) (t : Time) (i : Nat) (test : List Byte → Bool) :
    ((s.advance t).received i test).1 = (s.received i test).1 := by
  have hport : (s.advance t).port i = s.port i := rfl
  have hfaults : (s.advance t).packetFaults i = s.packetFaults i := rfl
  simp only [State.received, hport, hfaults]
  generalize (s.port i).inbox.find? _ = found
  cases found <;> rfl

/-- The state in which a packet that has come at an instant is acted on: its port has it no more. -/
def State.taken (s : State) (t : Time) (ports : Tbl PortState) : State := { s.advance t with ports := ports }

/-- The link engine acts on such a packet. -/
theorem State.crewPacket_of_comes (h : PacketComes s i hdr body kind r) (t : Time) (f : State → CrewRun → State) :
    ∃ p, (s.advance t).crewPacket i kind hdr body f = f (s.taken t p) r := by
  obtain ⟨p, hp⟩ := State.received_frame (s.advance t) i
    fun m => decide (m.take (bytesOfWords (hdr :: body)).length = bytesOfWords (hdr :: body))
  have hcame := (State.received_fst_advance s t i _).trans h.came
  have hcrew : (s.taken t p).crew (pkCrew hdr) = some r := h.crew
  refine ⟨p, ?_⟩
  rw [show ({ s.advance t with ports := p } : State) = s.taken t p from rfl] at hp
  simp only [State.crewPacket, hcame, hp, h.ofKind, h.clean, h.bodyClean, hcrew, Bool.not_true, Bool.or_self, ne_eq,
    not_true_eq_false, Bool.false_eq_true, or_self, if_false]

/-- So a command that brings it has the state that the link engine leaves. -/
theorem State.next_of_comes (h : PacketComes s i hdr body kind r) (t : Time) {f : State → CrewRun → State} {Q : State → Prop}
    (hQ : ∀ p, ∃ v, f (s.taken t p) r = v ∧ Q v) :
    ∃ v : State, (.next ((s.advance t).crewPacket i kind hdr body f) : Host.Outcome State Fault Refusal) = .next v ∧ Q v := by
  obtain ⟨p, hp⟩ := State.crewPacket_of_comes h t f
  obtain ⟨v, hv, hq⟩ := hQ p
  exact ⟨v, congrArg Host.Outcome.next (hp.trans hv), hq⟩

theorem State.stepPacket_current (a : State) (hstarted : r.started = true) (hstep : pkStep hdr = r.step) (f : State → State) :
    a.stepPacket r hdr f = f a := if_pos ⟨hstarted, hstep⟩

theorem State.layerPacket_of_place (a : State) {from' : CrewLayer → List Nat} {l : CrewLayer} {q : Nat}
    (h : FromTree s i hdr body kind r l (from' l) q) (f : State → CrewLayer → Nat → State) :
    a.layerPacket r hdr from' f = f a l q := by
  simp only [State.layerPacket, State.stepPacket_current a h.started h.step, h.layer, h.place]

end

/-! ### Fills of a crew's mailboxes (07 Table 7.8) -/

section
variable (ms : List Nat) (s : State)

theorem State.fillAll_frame : ∃ b, ms.foldl (fun (s : State) m => s.fillMailbox m 1) s =
    { s with umpire := { s.umpire with mailboxes := b } } := by
  induction ms generalizing s with
  | nil => exact ⟨_, rfl⟩
  | cons m ms ih =>
    obtain ⟨b, hb⟩ := ih (s.fillMailbox m 1)
    exact ⟨b, hb⟩

theorem State.mailbox_fillAll (q : Nat) : (ms.foldl (fun (s : State) m => s.fillMailbox m 1) s).mailbox q =
    s.mailbox q + BitVec.ofNat 64 (ms.count q) := by
  induction ms generalizing s with
  | nil => exact (BitVec.add_zero _).symm
  | cons m ms ih =>
    rw [List.foldl_cons, ih]
    by_cases h : q = m
    · subst h
      rw [State.mailbox_fillMailbox_same, List.count_cons_self, Nat.add_comm, BitVec.ofNat_add, BitVec.add_assoc]
    · rw [State.mailbox_fillMailbox_ne s 1 h, List.count_cons_of_ne (Ne.symm h)]

end

section
variable (s : State) (c ev : Nat)

theorem State.crewEvent_frame : ∃ b, s.crewEvent c ev = { s with umpire := { s.umpire with mailboxes := b } } :=
  State.fillAll_frame _ s

@[simp] theorem State.mailbox_crewEvent (m : Nat) :
    (s.crewEvent c ev).mailbox m = s.mailbox m + BitVec.ofNat 64 ((s.crewMbs c ev).count m) :=
  State.mailbox_fillAll _ s m

theorem keepsCrews_fillAll (ms : List Nat) : KeepsCrews s (ms.foldl (fun (s : State) m => s.fillMailbox m 1) s) := by
  obtain ⟨b, hb⟩ := State.fillAll_frame ms s
  exact hb ▸ ⟨rfl, fun _ _ => rfl⟩

theorem keepsCrews_crewEvent : KeepsCrews s (s.crewEvent c ev) := keepsCrews_fillAll s _

end

/-! ### Nodes that cannot go on (07 R277, R283-R286) -/

section
variable {s : State} {c lid : Nat}

theorem State.progress_of_stopped (h : s.nodeStep c lid = none) : s.progress c lid = s := by
  unfold State.progress
  split
  · unfold State.nodeGo
    rw [h]
  · rfl

variable {r : CrewRun} {l : CrewLayer} (hcrew : s.crew c = some r)
include hcrew

/-- Before its ready instant a node does nothing. -/
theorem State.progress_unready (h : (r.node lid).ready = none) : s.progress c lid = s := by
  refine State.progress_of_stopped ?_
  cases hl : r.defn.layer lid <;>
    simp only [State.nodeStep, hcrew, hl, h, Option.bind_some, Option.bind_none, Option.isNone_none, true_or, if_true]

/-- Below the root a node without credit for its next chunk waits. -/
theorem State.progress_uncredited (hl : r.defn.layer lid = some l) (hpos : s.ownPos r.defn l ≠ 0)
    (hcredit : (r.node lid).credit ≤ (r.node lid).next) (hnext : (r.node lid).next < l.chunks) : s.progress c lid = s := by
  refine State.progress_of_stopped ?_
  simp only [State.nodeStep, hcrew, hl, Option.bind_some, hnext, Nat.pos_of_ne_zero hpos, ge_iff_le, hcredit, and_self, if_true,
    ite_self]

end

/-! ### Seals (07 R289-R297) -/

section
variable {s t : State} {c : Nat}

theorem State.sealGo_stopped (h : s.sealStep c = none) (n : Nat) : State.sealGo c n s = s := by
  cases n with
  | zero => rfl
  | succ n => unfold State.sealGo; rw [h]

theorem State.sealGo_goes (h : s.sealStep c = some t) (n : Nat) : State.sealGo c (n + 1) s = State.sealGo c n t := by
  conv => lhs; unfold State.sealGo
  rw [h]

variable {r : CrewRun} (hcrew : s.crew c = some r)
include hcrew

theorem State.sealAt_eq (k : Nat) : s.sealAt c k = s.setCrew c { r with sealStage := k } := by
  simp only [State.sealAt, hcrew]

theorem State.sealStep_unsealed (hsealed : r.sealed = none) : s.sealStep c = none := by
  simp only [State.sealStep, hcrew, hsealed, Option.bind_some, Option.bind_none]

theorem State.trySeal_unsealed (hsealed : r.sealed = none) : s.trySeal c = s :=
  State.sealGo_stopped (State.sealStep_unsealed hcrew hsealed) 3

variable {b : SealBody} (hsealed : r.sealed = some b) (hstarted : r.started = true)
include hsealed hstarted

/-- What a seal's processing does next, by its stage. -/
theorem State.sealStep_eq : s.sealStep c =
    if r.sealStage = 0 then
      if s.sealReady r b then some ((s.carryActions c r b).sealAt c 1) else none
    else if r.sealStage = 1 then
      if s.openTo r.defn.carryAreas then none
      else (s.openSend (s.homePort c 0) r.defn.sealAddr r.defn.sumMb [sealRecord b]).map fun t => t.sealAt c 2
    else if s.openTo [(r.defn.sealAddr, 32)] then none else some (s.sealSteps c r b) := by
  simp only [State.sealStep, hcrew, hsealed, hstarted, Option.bind_some, Bool.not_true, Bool.false_eq_true, if_false]
  split <;> simp_all

theorem State.sealStep_unready (hstage : r.sealStage = 0) (h : s.sealReady r b = false) : s.sealStep c = none := by
  simp [State.sealStep_eq hcrew hsealed hstarted, hstage, h]

theorem State.sealStep_ready (hstage : r.sealStage = 0) (h : s.sealReady r b = true) :
    s.sealStep c = some ((s.carryActions c r b).sealAt c 1) := by
  simp [State.sealStep_eq hcrew hsealed hstarted, hstage, h]

theorem State.sealStep_carried (hstage : r.sealStage = 1) (h : s.openTo r.defn.carryAreas = false)
    (hsend : s.openSend (s.homePort c 0) r.defn.sealAddr r.defn.sumMb [sealRecord b] = some t) :
    s.sealStep c = some (t.sealAt c 2) := by
  simp [State.sealStep_eq hcrew hsealed hstarted, hstage, h, hsend]

theorem State.sealStep_recording (hstage : r.sealStage = 2) (h : s.openTo [(r.defn.sealAddr, 32)] = true) :
    s.sealStep c = none := by
  simp [State.sealStep_eq hcrew hsealed hstarted, hstage, h]

theorem State.sealStep_recorded (hstage : r.sealStage = 2) (h : s.openTo [(r.defn.sealAddr, 32)] = false) :
    s.sealStep c = some (s.sealSteps c r b) := by
  simp [State.sealStep_eq hcrew hsealed hstarted, hstage, h]

end

/-- Where the seal skips the step, or the crew drops what comes late, no carry is written (07 R290, R294). -/
theorem State.carryActions_unwritten {s : State} {c : Nat} {r : CrewRun} {b : SealBody} (hcrew : s.crew c = some r)
    (h : b.skip = true ∨ r.defn.drop = true) :
    ∃ cs carries, s.carryActions c r b = { s with crews := cs } ∧ tblFind cs c = some { r with carries := carries } := by
  unfold State.carryActions
  by_cases hskip : b.skip = true
  · exact ⟨s.crews, r.carries, by simp only [hskip, if_true], hcrew⟩
  · have hdrop := h.resolve_left hskip
    simp only [hskip, hdrop, if_true]
    exact ⟨_, _, rfl, tblFind_put_same _ _ _⟩

/-! The seal record as an open transfer (07 R290; 09 R350). -/

theorem State.openSend_routed {s : State} {port dest mb : Nat} {ws : List EccWord} {k : SinkId} {o : OpenRoute}
    (hk : (placeOf dest).bind sinkOf = some k) (ho : s.pickRoute (sinkKey k) = some o) :
    s.openSend port dest mb ws = some { s with openQ := tblMod [] s.openQ o.key (· ++ openFlits o.key port dest mb ws) } := by
  simp only [State.openSend, hk, ho, Option.map_some]

theorem lt_of_placeOf {a : Nat} {p : Place} (h : placeOf a = some p) : a < 2 ^ 56 := by
  simp only [placeOf] at h
  split at h
  · cases h
  · split at h
    · omega
    · split at h
      · cases h
      · omega

theorem openDest_openHeader {a : Nat} (h : a < 2 ^ 56) (n : Nat) (last : Bool) (mb : Nat) :
    openDest (openHeader a n last mb) = a := by
  simp only [openDest, openHeader, fld, BitVec.toNat_ofNat]
  cases last <;> simp only [Bool.false_eq_true, if_false, if_true] <;> omega

theorem mem_of_tblFind {α : Type} {t : Tbl α} {k : Nat} {v : α} (h : tblFind t k = some v) : (k, v) ∈ t := by
  induction t with
  | nil => cases h
  | cons e t ih =>
    simp only [tblFind] at h
    split at h
    · next hk =>
      cases h
      exact hk ▸ .head _
    · exact .tail _ (ih h)

/-- A flit of a transfer that waits on its route is on its way. -/
theorem State.openDest_mem_openDests {s : State} {key : Nat} {f : MeshFlit} {route port : Nat}
    (hwaits : f ∈ tblGet [] s.openQ key) (hkind : f.kind = .opened route port) (hvalid : f.valid = true) :
    openDest (f.words.getD 0 0) ∈ s.openDests := by
  have hqueued : f ∈ s.openQ.flatMap Prod.snd := by
    cases hfind : tblFind s.openQ key with
    | none => simp [tblGet, hfind] at hwaits
    | some fs => exact List.mem_flatMap.2 ⟨_, mem_of_tblFind hfind, by simpa [tblGet, hfind] using hwaits⟩
  refine List.mem_append_left _ (List.mem_map_of_mem (f := fun g : MeshFlit => openDest (g.words.getD 0 0)) ?_)
  refine List.mem_append_left _ (List.mem_filter.2 ⟨hqueued, ?_⟩)
  simp only [hkind, hvalid]

/-- The flit of a transfer of one word. -/
theorem openFlits_single (route port a mb : Nat) (w : EccWord) : openFlits route port a mb [w] =
    [{ valid := true, kind := .opened route port, words := openHeader a 1 true mb :: w :: List.replicate 6 0 }] := by
  simp [openFlits, chunksOf, chunksGo]

/-- A seal record that has just been queued is on its way. -/
theorem State.openTo_queued_record (s : State) (key port mb : Nat) (w : EccWord) {a : Nat} (ha : a < 2 ^ 56) :
    State.openTo { s with openQ := tblMod [] s.openQ key (· ++ openFlits key port a mb [w]) } [(a, 32)] = true := by
  have hdest : openDest (openHeader a 1 true mb) ∈
      State.openDests { s with openQ := tblMod [] s.openQ key (· ++ openFlits key port a mb [w]) } := by
    refine State.openDest_mem_openDests (key := key) ?_ rfl rfl
      (f := { valid := true, kind := .opened key port, words := openHeader a 1 true mb :: w :: List.replicate 6 0 })
    simp only [tblMod, tblGet_set_same, openFlits_single, List.mem_append, List.mem_singleton, or_true]
  rw [openDest_openHeader ha] at hdest
  exact List.any_eq_true.2 ⟨a, hdest, by simp⟩

/-- A state with the seal record of a crew queued on a route. -/
def State.queueRecord (s : State) (key port : Nat) (d : CrewDef) (b : SealBody) : State :=
  { s with openQ := tblMod [] s.openQ key (· ++ openFlits key port d.sealAddr d.sumMb [sealRecord b]) }

section
variable {s : State} {c : Nat} {r : CrewRun} {b : SealBody}
variable (hcrew : s.crew c = some r) (hsealed : r.sealed = some b) (hstarted : r.started = true)
include hcrew hsealed hstarted

/-- The first part of a seal that writes no carry. -/
theorem State.sealStep_uncarried (hstage : r.sealStage = 0) (hready : s.sealReady r b = true)
    (h : b.skip = true ∨ r.defn.drop = true) :
    ∃ cs carries, s.sealStep c = some { s with crews := cs } ∧
      tblFind cs c = some { r with sealStage := 1, carries := carries } := by
  obtain ⟨cs, carries, hacts, hfind⟩ := State.carryActions_unwritten hcrew h
  refine ⟨tblPut cs c { r with sealStage := 1, carries := carries }, carries, ?_, tblFind_put_same _ _ _⟩
  rw [State.sealStep_ready hcrew hsealed hstarted hstage hready, hacts]
  exact congrArg some (State.sealAt_eq (s := { s with crews := cs }) hfind 1)

/-- The second part, after which the seal waits for its record. -/
theorem State.sealStep_records {sink : SinkId} {o : OpenRoute} (hstage : r.sealStage = 1)
    (hcarries : s.openTo r.defn.carryAreas = false) (hsink : (placeOf r.defn.sealAddr).bind sinkOf = some sink)
    (hroute : s.pickRoute (sinkKey sink) = some o) :
    ∃ cs p, s.sealStep c = some (State.queueRecord { s with crews := cs } o.key p r.defn b) ∧
      tblFind cs c = some { r with sealStage := 2 } ∧
      (State.queueRecord { s with crews := cs } o.key p r.defn b).sealStep c = none := by
  have haddr : r.defn.sealAddr < 2 ^ 56 := by
    obtain ⟨place, hplace, -⟩ := Option.bind_eq_some_iff.1 hsink
    exact lt_of_placeOf hplace
  have hput : tblFind (tblPut s.crews c { r with sealStage := 2 }) c = some { r with sealStage := 2 } :=
    tblFind_put_same _ _ _
  refine ⟨tblPut s.crews c { r with sealStage := 2 }, s.homePort c 0, ?_, hput, ?_⟩
  · rw [State.sealStep_carried hcrew hsealed hstarted hstage hcarries (State.openSend_routed hsink hroute)]
    exact congrArg some (State.sealAt_eq (s := s.queueRecord o.key (s.homePort c 0) r.defn b) hcrew 2)
  · exact State.sealStep_recording (r := { r with sealStage := 2 }) hput hsealed hstarted rfl
      (State.openTo_queued_record _ o.key _ r.defn.sumMb (sealRecord b) haddr)

end

/-! ### Epilogues (07 R286-R288) -/

/-- A node once its layer's epilogue is known: late where that names the module absent before a notice has come. -/
def NodeState.withEpilogue (n : NodeState) (own : Nat) (b : LayerBody) : NodeState :=
  { n with epilogue := some b, late := n.late || (b.absent.contains own && !n.noticed) }

/-- A crew with a seal whose processing has come to a stage. -/
def CrewRun.withSeal (r : CrewRun) (b : SealBody) (stage : Nat) : CrewRun := { r with sealed := some b, sealStage := stage }

section
variable {s : State} {c : Nat} {r : CrewRun} (hcrew : s.crew c = some r)
include hcrew

/-- A module that is not the sealer sends no seal. -/
theorem State.sealerTry_member (hown : s.ownIdx r.defn ≠ 0) : s.sealerTry c = s := by
  simp only [State.sealerTry, hcrew, hown, false_and, if_false]

/-- With no seal in hand, an epilogue enters its node and fills the EPILOGUE mailboxes. -/
theorem State.takeEpilogue_member (hown : s.ownIdx r.defn ≠ 0) (hsealed : r.sealed = none) (lid : Nat) (b : LayerBody) :
    s.takeEpilogue c lid b = (s.setNode c r lid ((r.node lid).withEpilogue (s.ownIdx r.defn) b)).crewEvent c 2 := by
  have hkeeps := keepsCrews_crewEvent (s.setNode c r lid ((r.node lid).withEpilogue (s.ownIdx r.defn) b)) c 2
  have hcrew' := (hkeeps.crew c).trans (State.crew_setNode_same s c r lid _)
  have hsealer := State.sealerTry_member hcrew' (by rwa [State.ownIdx, hkeeps.jobRank])
  have hunfold : s.takeEpilogue c lid b =
      (((s.setNode c r lid ((r.node lid).withEpilogue (s.ownIdx r.defn) b)).crewEvent c 2).sealerTry c).trySeal c := by
    simp only [State.takeEpilogue, hcrew, NodeState.withEpilogue]
  rw [hunfold, hsealer, State.trySeal_unsealed hcrew' hsealed]

/-- What the epilogue of a layer reaches. -/
theorem State.takeEpilogue_effect (hown : s.ownIdx r.defn ≠ 0) (hsealed : r.sealed = none) (lid : Nat) (b : LayerBody) :
    (∃ crews boxes, s.takeEpilogue c lid b = { s with crews := crews, umpire := { s.umpire with mailboxes := boxes } }) ∧
      NodeGets r lid ((r.node lid).withEpilogue (s.ownIdx r.defn) b) (s.takeEpilogue c lid b) c ∧
      ∀ m, (s.takeEpilogue c lid b).mailbox m = s.mailbox m + BitVec.ofNat 64 ((s.crewMbs c 2).count m) := by
  rw [State.takeEpilogue_member hcrew hown hsealed]
  generalize hset : s.setNode c r lid ((r.node lid).withEpilogue (s.ownIdx r.defn) b) = a
  have hcrew' : a.crew c = some (r.setNode lid ((r.node lid).withEpilogue (s.ownIdx r.defn) b)) :=
    hset ▸ State.crew_setNode_same s c r lid _
  refine ⟨?_, nodeGets_of_crew (((keepsCrews_crewEvent a c 2).crew c).trans hcrew'), fun m => ?_⟩
  · obtain ⟨boxes, hboxes⟩ := a.crewEvent_frame c 2
    exact ⟨a.crews, boxes, by rw [hboxes, ← hset]; rfl⟩
  · rw [State.mailbox_crewEvent, ← hset]
    rfl

/-! ### What a seal does at once (07 R289, R290) -/

theorem State.takeSeal_unsealed (hsealed : r.sealed = none) (b : SealBody) :
    s.takeSeal c b = (s.setCrew c (r.withSeal b 0)).trySeal c := by
  simp only [State.takeSeal, hcrew, hsealed, Option.isSome_none, Bool.false_eq_true, if_false, CrewRun.withSeal]

variable (hstarted : r.started = true) (hsealed : r.sealed = none)
include hstarted hsealed

/-- A seal waits for the epilogues and notices that R290 names. -/
theorem State.takeSeal_waits {b : SealBody} (hready : s.sealReady r b = false) :
    s.takeSeal c b = s.setCrew c (r.withSeal b 0) := by
  rw [State.takeSeal_unsealed hcrew hsealed]
  exact State.sealGo_stopped (State.sealStep_unready (State.crew_setCrew_same s c (r.withSeal b 0)) rfl hstarted rfl hready) 3

/-- Where no carry is to be written, the seal record goes out and the seal waits for it. -/
theorem State.takeSeal_records {b : SealBody} {sink : SinkId} {o : OpenRoute} (hready : s.sealReady r b = true)
    (huncarried : b.skip = true ∨ r.defn.drop = true) (hcarries : s.openTo r.defn.carryAreas = false)
    (hsink : (placeOf r.defn.sealAddr).bind sinkOf = some sink) (hroute : s.pickRoute (sinkKey sink) = some o) :
    ∃ crews carries p, s.takeSeal c b = State.queueRecord { s with crews := crews } o.key p r.defn b ∧
      tblFind crews c = some (CrewRun.withSeal { r with carries := carries } b 2) := by
  obtain ⟨cs, carries, hstage0, hfind⟩ :=
    State.sealStep_uncarried (State.crew_setCrew_same s c (r.withSeal b 0)) rfl hstarted rfl hready huncarried
  obtain ⟨cs', p, hstage1, hfind', hstage2⟩ :=
    State.sealStep_records (s := { s with crews := cs }) hfind rfl hstarted rfl hcarries hsink hroute
  refine ⟨cs', carries, p, ?_, hfind'⟩
  rw [State.takeSeal_unsealed hcrew hsealed, State.trySeal, State.sealGo_goes hstage0]
  exact (State.sealGo_goes hstage1 1).trans (State.sealGo_stopped hstage2 1)

end

/-! ### Preambles (07 R268-R271) -/

theorem keepsCrews_agree (s : State) (level : Nat) : KeepsCrews s (s.agree level) :=
  (KeepsCrews.setReg s (BitVec.ofNat 64 level) (i := 0x3040) (j := 3) (by decide)).trans ⟨rfl, fun _ _ => rfl⟩

section
variable (s : State) (c : Nat) {r : CrewRun} (hnodes : r.nodes = [])
include hnodes

/-- With no notice waiting, a complete preamble is the PREAMBLE event, the state of the crew and the agreed level. -/
theorem State.preambleDone_cases_nodeless :
    let known := ((s.setCrew c { r with complete := true }).crewReg c 6 3).crewEvent c 1
    s.preambleDone c r = known ∨ ∃ level, s.preambleDone c r = known.agree level := by
  have hnone : ∀ (f : State → Nat → State) a, (r.nodes.map Prod.fst).foldl f a = a := fun f a => by rw [hnodes]; rfl
  simp only [State.preambleDone, hnone]
  split
  · exact .inr ⟨_, rfl⟩
  · exact .inl rfl

theorem State.preambleDone_keeps :
    KeepsCrews ((s.setCrew c { r with complete := true }).crewReg c 6 3) (s.preambleDone c r) := by
  have hevent := keepsCrews_crewEvent ((s.setCrew c { r with complete := true }).crewReg c 6 3) c 1
  rcases State.preambleDone_cases_nodeless s c hnodes with h | ⟨level, h⟩
  · exact h ▸ hevent
  · exact h ▸ hevent.trans (keepsCrews_agree _ level)

theorem State.mailbox_preambleDone (m : Nat) :
    (s.preambleDone c r).mailbox m = s.mailbox m + BitVec.ofNat 64 ((s.crewMbs c 1).count m) := by
  have hevent := State.mailbox_crewEvent ((s.setCrew c { r with complete := true }).crewReg c 6 3) c 1 m
  rcases State.preambleDone_cases_nodeless s c hnodes with h | ⟨level, h⟩ <;> exact h ▸ hevent

theorem State.crew_preambleDone : (s.preambleDone c r).crew c = some { r with complete := true } :=
  ((State.preambleDone_keeps s c hnodes).crew c).trans (State.crew_setCrew_same s c _)

end

section
variable {s : State} {c : Nat} {r : CrewRun} (hcrew : s.crew c = some r)
include hcrew

theorem State.countPreamble_more {i rate : Nat} (h : r.complete = true ∨ (tblPut r.counted i rate).length ≠ r.defn.size) :
    s.countPreamble c i rate = s.setCrew c { r with counted := tblPut r.counted i rate } := by
  simp only [State.countPreamble, hcrew]
  refine if_neg fun hlast => ?_
  rcases h with h | h <;> simp_all

theorem State.countPreamble_last {i rate : Nat} (hcomplete : r.complete = false)
    (hlast : (tblPut r.counted i rate).length = r.defn.size) :
    s.countPreamble c i rate = s.preambleDone c { r with counted := tblPut r.counted i rate } := by
  simp only [State.countPreamble, hcrew, hcomplete, hlast, Bool.not_false, and_self, if_true]

/-- Counting a preamble while no notice waits: the registers of crews but for the state of one are kept, and so is the crew
but for what it has counted. -/
theorem State.countPreamble_keeps (hnodes : r.nodes = []) (i rate : Nat) :
    (∃ k, (s.countPreamble c i rate).crew c = some k ∧ k = { r with counted := k.counted, complete := k.complete }) ∧
      ∀ d < 256, ∀ j < 256, j ≠ 6 → (s.countPreamble c i rate).reg (0x7010 + d) j = s.reg (0x7010 + d) j := by
  by_cases h : r.complete = true ∨ (tblPut r.counted i rate).length ≠ r.defn.size
  · rw [State.countPreamble_more hcrew h]
    exact ⟨⟨_, State.crew_setCrew_same s c _, rfl⟩, fun _ _ _ _ _ => rfl⟩
  · obtain ⟨hcomplete, hlast⟩ := not_or.1 h
    rw [State.countPreamble_last hcrew (Bool.eq_false_iff.2 hcomplete) (Decidable.not_not.1 hlast)]
    have hkeeps := State.preambleDone_keeps s c (r := { r with counted := tblPut r.counted i rate }) hnodes
    refine ⟨⟨_, State.crew_preambleDone s c hnodes, rfl⟩, fun d hd j hj hne => (hkeeps.reg hd hj).trans ?_⟩
    exact State.reg_crewReg_of_sub_ne _ c _ _ (by decide) hj hne

/-- The own preamble of a step for which none is held and no notice waits. -/
theorem State.sendPreamble_keeps (hheld : r.held = []) (hnodes : r.nodes = []) :
    (∃ k, (s.sendPreamble c).crew c = some k ∧ k.step = r.step ∧ k.sealed = r.sealed) ∧
      ∀ d < 256, ∀ j < 256, j ≠ 6 → (s.sendPreamble c).reg (0x7010 + d) j = s.reg (0x7010 + d) j := by
  have hsent := (keepsCrews_preambleBody s c r).trans
    (Sends.crewSendAll (s.preambleBody c r).1 c 5 r 0 0 (s.preambleBody c r).2).toKeepsCrews
  obtain ⟨⟨k, hk, hkr⟩, hregs⟩ :=
    State.countPreamble_keeps ((hsent.crew c).trans hcrew) hnodes (s.ownIdx r.defn) (s.regN 0x3040 2)
  simp only [State.sendPreamble, hcrew, hheld, List.filter_nil, List.foldl_nil, hk]
  refine ⟨⟨_, State.crew_setCrew_same _ c _, by rw [hkr], by rw [hkr]⟩, fun d hd j hj hne => ?_⟩
  exact (hregs d hd j hj hne).trans (hsent.reg hd hj)

/-! A preamble that comes (07 R269). -/

theorem State.preambleIn_current {src : Nat} {body : List EccWord} (hstarted : r.started = true)
    (hmember : r.defn.members.contains src = true) :
    s.preambleIn c src r.step body = s.checkPreamble c { src := src, step := r.step, body := body } := by
  have hnext : r.step ≠ r.step + 1 := by
    intro h
    have h1 : (1 : BitVec 32) = 0 := by simpa using h.symm
    exact absurd h1 (by decide)
  simp only [State.preambleIn, hcrew, hmember, hstarted, hnext, Bool.not_true, Bool.false_eq_true, or_self, if_false]

variable (hstarted : r.started = true) {src : Nat} {body : List EccWord} (hlength : body.length = 2)
include hstarted hlength

theorem State.checkPreamble_digest
    (hdigest : (bytesOfWords body).take 48 ≠ (s.dom (0x7010 + c) 5 ++ leBytes 48 0).take 48) :
    s.checkPreamble c { src := src, step := r.step, body := body } = s.crewError c 0x0B01 := by
  have hbody : body.take 2 = body := List.take_of_length_le (Nat.le_of_eq hlength)
  simp only [State.checkPreamble, hcrew, hstarted, hbody, Bool.not_true, Bool.false_eq_true, if_false]
  exact if_pos hdigest

variable (hdigest : (bytesOfWords body).take 48 = (s.dom (0x7010 + c) 5 ++ leBytes 48 0).take 48)
include hdigest

theorem State.checkPreamble_version (hversion : leNat (((bytesOfWords body).drop 48).take 2) ≠ s.fwMajor) :
    s.checkPreamble c { src := src, step := r.step, body := body } = s.crewError c 0x0B02 := by
  have hbody : body.take 2 = body := List.take_of_length_le (Nat.le_of_eq hlength)
  simp only [State.checkPreamble, hcrew, hstarted, hbody, Bool.not_true, Bool.false_eq_true, if_false]
  rw [if_neg (not_not_intro hdigest), if_pos hversion]

/-- With no scale records, such a preamble is counted alone. -/
theorem State.checkPreamble_counts (hversion : leNat (((bytesOfWords body).drop 48).take 2) = s.fwMajor) :
    s.checkPreamble c { src := src, step := r.step, body := body } =
      s.countPreamble c (r.defn.members.idxOf src) ((bytesOfWords body).getD 50 0).toNat := by
  have hbody : body.take 2 = body := List.take_of_length_le (Nat.le_of_eq hlength)
  have hscales : body.drop 2 = [] := List.drop_of_length_le (Nat.le_of_eq hlength)
  have hnone : ∀ n, s.takeScales r.defn n [] = s := fun n => by cases n <;> rfl
  simp only [State.checkPreamble, hcrew, hstarted, hbody, hscales, hnone, Bool.not_true, Bool.false_eq_true, if_false]
  rw [if_neg (not_not_intro hdigest), if_neg (not_not_intro hversion), if_neg (not_not_intro rfl)]

end

/-! ### Crew errors (07 R269) -/

section
variable {s : State} {c : Nat} {r : CrewRun} (hcrew : s.crew c = some r) (code : Nat)
include hcrew

/-- The registers of a crew error are written, the crew stops, and a running module halts at the next boundary. -/
theorem State.crewError_eq : ∃ g, ((s.crewReg c 6 4).setRegN 0x7010 5 code).event evCrewError = { s with regs := g } ∧
    s.crewError c code =
      { s with
        regs := g
        crews := tblPut s.crews c { r with started := false }
        halting := s.halting ++ if s.st = .running then [0x0A] else [] } := by
  obtain ⟨g, hg⟩ : RegsOnly s (((s.crewReg c 6 4).setRegN 0x7010 5 code).event evCrewError) :=
    (((RegsOnly.refl s).setRegN _ _ _).setRegN _ _ _).event _
  have hcrew' : ({ s with regs := g } : State).crew c = some r := hcrew
  refine ⟨g, hg, ?_⟩
  simp only [State.crewError, hg, hcrew']
  by_cases hst : s.st = .running
  · rw [if_pos hst]
    exact (if_pos hst).trans rfl
  · rw [if_neg hst, List.append_nil]
    exact (if_neg hst).trans rfl

theorem State.crewError_regs (hc : c < 256) : (s.crewError c code).reg 0x7010 5 = BitVec.ofNat 64 code ∧
    (s.crewError c code).reg (0x7010 + c) 6 = 4 := by
  obtain ⟨g, hg, herror⟩ := State.crewError_eq hcrew code
  have hevent := KeepsCrews.event ((s.crewReg c 6 4).setRegN 0x7010 5 code) (k := evCrewError) (by decide)
  have hregs : ∀ d < 256, ∀ j < 256, (s.crewError c code).reg (0x7010 + d) j =
      ((s.crewReg c 6 4).setRegN 0x7010 5 code).reg (0x7010 + d) j := fun d hd j hj => by
    rw [herror, ← hevent.reg hd hj, hg]
    rfl
  constructor
  · exact (hregs 0 (by decide) 5 (by decide)).trans (State.reg_setReg_same _ _ _ _)
  · rw [hregs c hc 6 (by decide)]
    exact (State.reg_setReg_of_sub_ne _ _ _ _ (by decide) (by decide) (by decide)).trans (State.reg_setReg_same s _ 6 _)

end

/-! ### The end of a seal (07 R290) -/

theorem keepsCrews_snapBegin (s : State) (sealed : Nat) : KeepsCrews s (s.snapBegin sealed) := by
  have hset : ∀ (t : State) (j : Nat) (v : BitVec 64), j < 256 → KeepsCrews t (t.setReg 0x7301 j v) :=
    fun t j v hj => KeepsCrews.setReg t v (by unfold CrewKey regKey; omega)
  have hkept : ∀ (t : State) (k : SnapState), KeepsCrews t (t.setSnap k) := fun _ _ => ⟨rfl, fun _ _ => rfl⟩
  unfold State.snapBegin
  split
  · split
    · split
      · exact ((hset s 5 _ (by decide)).trans (hset _ 7 _ (by decide))).trans (KeepsCrews.event _ (by decide))
      · exact (hset s 5 _ (by decide)).trans (hkept _ _)
    · exact .refl s
  · split
    · exact hkept s _
    · exact .refl s

theorem keepsCrews_sealFill (s : State) (sealed : Nat) (mbs : List Nat) : KeepsCrews s (s.sealFill sealed mbs) := by
  have hseal : KeepsCrews s { s with latestSeal := some (BitVec.ofNat 32 sealed) } := ⟨rfl, fun _ _ => rfl⟩
  exact KeepsCrews.ite _ ⟨rfl, fun _ _ => rfl⟩
    ((hseal.trans (keepsCrews_fillAll _ mbs)).trans (keepsCrews_snapBegin _ sealed))

theorem keepsCrews_formRequest (s : State) : KeepsCrews s s.formRequest := by
  have hset : ∀ (t : State) (j : Nat) (v : BitVec 64), j < 256 → KeepsCrews t (t.setReg 0x3040 j v) :=
    fun t j v hj => KeepsCrews.setReg t v (by unfold CrewKey regKey; omega)
  unfold State.formRequest
  split
  · exact .refl s
  · exact ((hset s 2 _ (by decide)).trans (hset _ 4 _ (by decide))).trans ⟨rfl, fun _ _ => rfl⟩

/-- NEXT_STEP goes on with the step that is sealed (R290 step 4). -/
def State.stepOn (s : State) (n : Nat) : State :=
  if s.regN 0x7010 3 = n then s.setRegN 0x7010 3 ((n + 1) % 2 ^ 32) else s

/-- The step numbers and the counters of a crew after a seal (R290 steps 4 and 5). -/
def State.sealNumbers (s : State) (c absent : Nat) (b : SealBody) : State :=
  ((((s.crewReg c 7 b.step.toNat).stepOn b.step.toNat).bumpReg (0x7010 + c) 8 absent).bumpReg (0x7010 + c) 11
    (b2n b.nfAny)).bumpReg (0x7010 + c) 12 (b2n b.skip)

/-- A crew at the beginning of a step. -/
def CrewRun.atStep (r : CrewRun) (n : BitVec 32) : CrewRun :=
  { r with step := n, counted := [], complete := false, nodes := [], sealSent := false, sealed := none, sealStage := 0 }

section
variable (s : State) (n i : Nat)

theorem State.crews_stepOn : (s.stepOn n).crews = s.crews := by
  unfold State.stepOn
  split <;> rfl

theorem State.reg_stepOn_of_sub_ne {j : Nat} (hj : j < 256) (hne : j ≠ 3) : (s.stepOn n).reg i j = s.reg i j := by
  unfold State.stepOn
  split
  · exact State.reg_setReg_of_sub_ne _ _ _ _ (by decide) hj hne
  · rfl

theorem State.reg_stepOn (h : s.regN 0x7010 3 = n) : (s.stepOn n).reg 0x7010 3 = BitVec.ofNat 64 ((n + 1) % 2 ^ 32) := by
  rw [State.stepOn, if_pos h]
  exact State.reg_setReg_same _ _ _ _

end

section
variable (s : State) (c absent : Nat) (b : SealBody)

theorem State.crew_sealNumbers : (s.sealNumbers c absent b).crew c = s.crew c := by
  simp only [State.sealNumbers, State.crew, State.bumpReg_eq, State.setReg_crews, State.crews_stepOn, State.crewReg,
    State.setRegN_eq]

theorem State.sealNumbers_sealed : (s.sealNumbers c absent b).reg (0x7010 + c) 7 = b.step.setWidth 64 := by
  simp (disch := decide) only [State.sealNumbers, State.bumpReg_eq, State.reg_setReg_of_sub_ne, State.reg_stepOn_of_sub_ne]
  exact (State.reg_setReg_same _ _ _ _).trans (BitVec.ofNat_toNat _ _)

theorem State.sealNumbers_skipped :
    (s.sealNumbers c absent b).reg (0x7010 + c) 12 = holdAdd (s.reg (0x7010 + c) 12) (b2n b.skip) := by
  simp (disch := decide) only [State.sealNumbers, State.bumpReg_eq, State.reg_setReg_same, State.reg_setReg_of_sub_ne,
    State.reg_stepOn_of_sub_ne, State.reg_crewReg_of_sub_ne]

theorem State.sealNumbers_next (h : s.regN 0x7010 3 = b.step.toNat) :
    (s.sealNumbers c absent b).reg 0x7010 3 = (b.step + 1).setWidth 64 := by
  have hnext : (s.crewReg c 7 b.step.toNat).regN 0x7010 3 = b.step.toNat :=
    (congrArg BitVec.toNat (s.reg_crewReg_of_sub_ne c _ _ (by decide) (by decide) (by decide))).trans h
  simp (disch := decide) only [State.sealNumbers, State.bumpReg_eq, State.reg_setReg_of_sub_ne, State.reg_stepOn _ _ hnext]
  rw [← BitVec.ofNat_toNat, BitVec.toNat_add]
  rfl

end

/-- The beginning of a step for which no preamble is held keeps the registers of crews but for the state of one. -/
theorem State.beginStep_keeps (s : State) (c : Nat) {r : CrewRun} (n : BitVec 32) (hheld : r.held = []) :
    (∃ k, ((((s.setCrew c (r.atStep n)).crewReg c 6 2).formRequest).sendPreamble c).crew c = some k ∧ k.step = n ∧
        k.sealed = none) ∧
      ∀ d < 256, ∀ j < 256, j ≠ 6 →
        ((((s.setCrew c (r.atStep n)).crewReg c 6 2).formRequest).sendPreamble c).reg (0x7010 + d) j = s.reg (0x7010 + d) j := by
  have hbegun : ((s.setCrew c (r.atStep n)).crewReg c 6 2).crew c = some (r.atStep n) := State.crew_setCrew_same s c _
  have hform := keepsCrews_formRequest ((s.setCrew c (r.atStep n)).crewReg c 6 2)
  obtain ⟨hnext, hregs⟩ := State.sendPreamble_keeps ((hform.crew c).trans hbegun) hheld rfl
  exact ⟨hnext, fun d hd j hj hne => ((hregs d hd j hj hne).trans (hform.reg hd hj)).trans
    (State.reg_crewReg_of_sub_ne _ c _ _ (by decide) hj hne)⟩

section
variable {s : State} {c : Nat} {r : CrewRun} {b : SealBody} (hcrew : s.crew c = some r)
include hcrew

theorem State.sealSteps_eq : s.sealSteps c r b =
    ((((((s.sealFill b.step.toNat (s.crewMbs c 3)).sealNumbers c (s.absentLayers r).length b).setCrew c
      (r.atStep (b.step + 1))).crewReg c 6 2).formRequest).sendPreamble c) := by
  have hnumbered := (State.crew_sealNumbers (s.sealFill b.step.toNat (s.crewMbs c 3)) c (s.absentLayers r).length b).trans
    (((keepsCrews_sealFill s b.step.toNat (s.crewMbs c 3)).crew c).trans hcrew)
  simp only [State.sealNumbers, State.stepOn] at hnumbered
  simp only [State.sealSteps, State.sealNumbers, State.stepOn, hnumbered, CrewRun.atStep]

/-- With no preamble held, the crew is at its next step, and the step numbers go on. -/
theorem State.sealSteps_effect (hheld : r.held = []) (hc : c < 256) :
    (∃ k, (s.sealSteps c r b).crew c = some k ∧ k.step = b.step + 1 ∧ k.sealed = none) ∧
      (s.sealSteps c r b).reg (0x7010 + c) 7 = b.step.setWidth 64 ∧
      (s.sealSteps c r b).reg (0x7010 + c) 12 = holdAdd (s.reg (0x7010 + c) 12) (b2n b.skip) ∧
      (s.regN 0x7010 3 = b.step.toNat → (s.sealSteps c r b).reg 0x7010 3 = (b.step + 1).setWidth 64) := by
  have hfill := keepsCrews_sealFill s b.step.toNat (s.crewMbs c 3)
  rw [State.sealSteps_eq hcrew]
  generalize s.sealFill b.step.toNat (s.crewMbs c 3) = filled at hfill ⊢
  generalize (s.absentLayers r).length = absent
  obtain ⟨hnext, hregs⟩ := State.beginStep_keeps (filled.sealNumbers c absent b) c (b.step + 1) hheld
  refine ⟨hnext, ?_, ?_, fun h => ?_⟩
  · exact (hregs c hc 7 (by decide) (by decide)).trans (filled.sealNumbers_sealed c absent b)
  · rw [hregs c hc 12 (by decide) (by decide), filled.sealNumbers_skipped, hfill.reg hc (by decide)]
  · refine (hregs 0 (by decide) 3 (by decide) (by decide)).trans (filled.sealNumbers_next c absent b ?_)
    exact (congrArg BitVec.toNat (hfill.reg (c := 0) (j := 3) (by decide) (by decide))).trans h

/-- A seal whose record is written is done. -/
theorem State.trySeal_recorded (hstarted : r.started = true) (hsealed : r.sealed = some b) (hstage : r.sealStage = 2)
    (hheld : r.held = []) (hc : c < 256) (hwritten : s.openTo [(r.defn.sealAddr, 32)] = false) :
    s.trySeal c = s.sealSteps c r b := by
  obtain ⟨⟨k, hk, -, hnone⟩, -⟩ := State.sealSteps_effect (b := b) hcrew hheld hc
  rw [State.trySeal, State.sealGo_goes (State.sealStep_recorded hcrew hsealed hstarted hstage hwritten)]
  exact State.sealGo_stopped (State.sealStep_unsealed hk hnone) 2

end

/-! ### Deadlines (07 R283-R285) -/

/-- A node one of whose children is absent. -/
def NodeState.withAbsent (n : NodeState) (q : Nat) (gone : List Nat) : NodeState :=
  { n with children := tblPut n.children q false, absent := n.absent ++ gone }

section
variable {s : State} {c lid rank : Nat} {r : CrewRun} {l : CrewLayer} {q : Nat}

theorem State.markAbsent_uncredited (s : State) (c : Nat) (hl : r.defn.layer lid = some l) (hid : l.id = lid)
    (hpos : s.ownPos r.defn l ≠ 0) (hcredit : (r.node lid).credit ≤ (r.node lid).next)
    (hnext : (r.node lid).next < l.chunks) : s.markAbsent c r l q =
      s.setNode c r lid ((r.node lid).withAbsent q ((subtree r.defn.size q).map (r.defn.idxAt l))) := by
  subst hid
  refine State.progress_uncredited (State.crew_setNode_same s c r l.id _) hl hpos ?_ ?_ <;> rw [CrewRun.node_setNode_same]
  · exact hcredit
  · exact hnext

variable (hcrew : s.crew c = some r) (hl : r.defn.layer lid = some l)
variable {t0 w : Nat} (hplace : (s.kidsOf r l).find? (fun p => r.defn.rankAt l p = rank) = some q)
variable (hchild : tblFind (r.node lid).children q = none) (hready : (r.node lid).ready = some t0) (hw : r.defn.waitUs = some w)
include hcrew hl hplace hchild hready hw

/-- At its deadline an undecided child may still come, after it the child is absent. -/
theorem State.waitDeadline_eq : s.waitDeadline c lid rank =
    if r.started = true ∧ t0 + w * treeHeight r.defn.size q * usUnits < s.clk.now then s.markAbsent c r l q else s := by
  simp only [State.waitDeadline, hcrew, hl, hplace, hchild, deadlineOf, hw, hready]

end

/-! ### Complete layers (07 R287, R288) -/

section
variable {s : State} {c lid : Nat} {r : CrewRun} {l : CrewLayer}

/-- The flits of a layer's sums are all written. -/
def State.sumsWritten (s : State) (r : CrewRun) (l : CrewLayer) : Prop :=
  ∀ a ∈ s.openDests, ∀ f, l.dest = some f → ∀ e ∈ extentRun r.defn.extents f l.chunks, a < e.1 ∨ e.1 + 16384 * e.2.1 ≤ a

variable (hcrew : s.crew c = some r) (hl : r.defn.layer lid = some l)
include hcrew hl

theorem State.layerComplete_eq (hstarted : r.started = true) (hpos : s.ownPos r.defn l = 0) (hready : (r.node lid).ready ≠ none)
    (hnext : (r.node lid).next = l.chunks) (htrailers : (r.node lid).trailersIn = true)
    (hepilogue : (r.node lid).epilogue = none) (hwritten : s.sumsWritten r l) :
    let b := (r.node lid).body l.chunks (s.ownIdx r.defn)
    s.layerComplete c lid = (s.crewSendAll c 3 r lid 0 (layerBodyWords b)).takeEpilogue c lid b := by
  intro b
  simp only [State.layerComplete, hcrew, hl]
  refine if_pos ⟨hstarted, hpos, Option.isSome_iff_ne_none.2 hready, hnext, htrailers, ?_, by rw [hepilogue]; rfl⟩
  cases hdest : l.dest with
  | none => simp
  | some f =>
    simp only [Bool.not_eq_true', List.any_eq_false, List.any_eq_true, Bool.and_eq_true, decide_eq_true_eq, not_exists, not_and,
      Nat.not_lt]
    intro a ha e he hle
    exact (hwritten a ha f hdest e he).resolve_left (Nat.not_lt.2 hle)

/-- The epilogue of a complete layer goes to every other member, and is known here at once. -/
theorem State.layerComplete_effect (hstarted : r.started = true) (hpos : s.ownPos r.defn l = 0)
    (hready : (r.node lid).ready ≠ none) (hnext : (r.node lid).next = l.chunks) (htrailers : (r.node lid).trailersIn = true)
    (hepilogue : (r.node lid).epilogue = none) (hwritten : s.sumsWritten r l) (hown : s.ownIdx r.defn ≠ 0)
    (hsealed : r.sealed = none) :
    let b := (r.node lid).body l.chunks (s.ownIdx r.defn)
    let v := s.layerComplete c lid
    v.mem = s.mem ∧ (∀ m, v.mailbox m = s.mailbox m + BitVec.ofNat 64 ((s.crewMbs c 2).count m)) ∧
      (∀ m ∈ r.defn.members, m ≠ s.jobRank → Msg.packet (pkHeader 3 0 c r.step lid 0 s.jobRank m 0
        (32 * (layerBodyWords b).length)) (layerBodyWords b) ∈ v.outbox) ∧
      NodeGets r lid ((r.node lid).withEpilogue (s.ownIdx r.defn) b) v c := by
  intro b v
  have hv : v = (s.crewSendAll c 3 r lid 0 (layerBodyWords b)).takeEpilogue c lid b :=
    State.layerComplete_eq hcrew hl hstarted hpos hready hnext htrailers hepilogue hwritten
  have hsent := Sends.crewSendAll s c 3 r lid 0 (layerBodyWords b)
  have hpackets := fun m => Sends.mem_outbox_crewSendAll s c 3 r lid 0 (layerBodyWords b) (m := m)
  rw [hv]
  generalize s.crewSendAll c 3 r lid 0 (layerBodyWords b) = t at hsent hpackets
  have hidx : t.ownIdx r.defn = s.ownIdx r.defn := congrArg r.defn.members.idxOf hsent.jobRank
  obtain ⟨⟨crews, boxes, hframe⟩, hnode, hfilled⟩ :=
    State.takeEpilogue_effect ((hsent.crew c).trans hcrew) (hidx ▸ hown) hsealed lid b
  refine ⟨?_, fun m => ?_, ?_, hidx ▸ hnode⟩
  · rw [hframe, hsent.frame]
  · rw [hfilled, hsent.mailbox, hsent.crewMbs]
  · rw [hframe]
    exact hpackets

end

end Sys2Proof.Machine

namespace Sys2Proof.Proofs

open Sys2Proof.Machine Sys2Proof.Safety

/-! ### O42, command by command -/

section
variable {s : State} {t : Time} {port : Fin 31} {hdr : EccWord} {body : List EccWord} {r : CrewRun} {l : CrewLayer} {q : Nat}

/-- EPILOGUE: the node knows its epilogue, and the EPILOGUE mailboxes fill. -/
theorem exec_epilogue_member (h : FromTree s port.val hdr body 3 r l [0] q) (hunknown : (r.node l.id).epilogue = none)
    (hown : s.ownIdx r.defn ≠ 0) (hsealed : r.sealed = none) :
    ∃ v : State, exec (.epilogue t port hdr body) s = .next v ∧
      v = { s.advance t with
        ports := v.ports, crews := v.crews, umpire := { s.umpire with mailboxes := v.umpire.mailboxes } } ∧
      NodeGets r l.id ((r.node l.id).withEpilogue (s.ownIdx r.defn) (layerBodyOf body)) v (pkCrew hdr) ∧
      ∀ m, v.mailbox m = s.mailbox m + BitVec.ofNat 64 ((s.crewMbs (pkCrew hdr) 2).count m) := by
  refine State.next_of_comes h.toPacketComes t fun p => ?_
  have hcrew : (s.taken t p).crew (pkCrew hdr) = some r := h.crew
  obtain ⟨⟨crews, boxes, hframe⟩, hnode, hfilled⟩ :=
    State.takeEpilogue_effect hcrew hown hsealed l.id (layerBodyOf body)
  refine ⟨_, (State.layerPacket_of_place _ h _).trans (if_neg (by simp [hunknown])), ?_, hnode, hfilled⟩
  rw [hframe]
  rfl

/-- CREDIT: a node that is not ready yet holds the credit. -/
theorem exec_credit_unready {up : List Nat} (h : FromTree s port.val hdr [] 6 r l up q)
    (hup : up = if s.ownPos r.defn l = 0 then [] else [treeParent (s.ownPos r.defn l)]) (hready : (r.node l.id).ready = none)
    (hrestart : pkRestart hdr = false) :
    ∃ v : State, exec (.credit t port hdr) s = .next v ∧ v = { s.advance t with ports := v.ports, crews := v.crews } ∧
      NodeGets r l.id { r.node l.id with credit := max (r.node l.id).credit (pkChunk hdr + 1) } v (pkCrew hdr) := by
  subst hup
  refine State.next_of_comes h.toPacketComes t fun p => ?_
  have hset := State.crew_setNode_same (s.taken t p) (pkCrew hdr) r l.id
    { r.node l.id with credit := max (r.node l.id).credit (pkChunk hdr + 1) }
  have hwaits := State.progress_unready hset (lid := l.id) (by rw [CrewRun.node_setNode_same]; exact hready)
  refine ⟨_, (State.layerPacket_of_place _ h _).trans ((if_neg (by simp [hrestart])).trans hwaits), rfl, nodeGets_of_crew hset⟩

end

/-! SEAL. -/

section
variable {s : State} {t : Time} {port : Fin 31} {hdr : EccWord} {body : List EccWord} {r : CrewRun}
variable (h : PacketComes s port.val hdr body 4 r) (hstarted : r.started = true) (hstep : pkStep hdr = r.step)
variable (hsealed : r.sealed = none) (hsealer : r.defn.members.head? = some (pkSrc hdr))
include h hstarted hstep hsealed hsealer

theorem exec_crewSeal_waits (hready : s.sealReady r (sealBodyOf (pkStep hdr) body) = false) :
    ∃ v : State, exec (.crewSeal t port hdr body) s = .next v ∧ v = { s.advance t with ports := v.ports, crews := v.crews } ∧
      v.crew (pkCrew hdr) = some (r.withSeal (sealBodyOf (pkStep hdr) body) 0) := by
  refine State.next_of_comes h t fun p => ?_
  have hcrew : (s.taken t p).crew (pkCrew hdr) = some r := h.crew
  refine ⟨_, (State.stepPacket_current _ hstarted hstep _).trans
    ((if_pos hsealer).trans (State.takeSeal_waits hcrew hstarted hsealed hready)), rfl, State.crew_setCrew_same _ _ _⟩

theorem exec_crewSeal_records {sink : SinkId} {o : OpenRoute} (hready : s.sealReady r (sealBodyOf (pkStep hdr) body) = true)
    (huncarried : (sealBodyOf (pkStep hdr) body).skip = true ∨ r.defn.drop = true)
    (hcarries : s.openTo r.defn.carryAreas = false) (hsink : (placeOf r.defn.sealAddr).bind sinkOf = some sink)
    (hroute : s.pickRoute (sinkKey sink) = some o) :
    ∃ v p, exec (.crewSeal t port hdr body) s = .next v ∧
      v = { s.advance t with ports := v.ports, crews := v.crews, openQ := v.openQ } ∧
      v.openQ = tblMod [] s.openQ o.key
        (· ++ openFlits o.key p r.defn.sealAddr r.defn.sumMb [sealRecord (sealBodyOf (pkStep hdr) body)]) ∧
      ∃ k, v.crew (pkCrew hdr) = some k ∧
        k = CrewRun.withSeal { r with carries := k.carries } (sealBodyOf (pkStep hdr) body) 2 := by
  have hrecords : ∃ v : State, exec (.crewSeal t port hdr body) s = .next v ∧ ∃ ports crews carries p,
      v = State.queueRecord { s.taken t ports with crews := crews } o.key p r.defn (sealBodyOf (pkStep hdr) body) ∧
      tblFind crews (pkCrew hdr) =
        some (CrewRun.withSeal { r with carries := carries } (sealBodyOf (pkStep hdr) body) 2) := by
    refine State.next_of_comes h t fun ports => ?_
    have hcrew : (s.taken t ports).crew (pkCrew hdr) = some r := h.crew
    obtain ⟨crews, carries, p, htaken, hfind⟩ :=
      State.takeSeal_records hcrew hstarted hsealed hready huncarried hcarries hsink hroute
    exact ⟨_, (State.stepPacket_current _ hstarted hstep _).trans ((if_pos hsealer).trans htaken), ports, crews, carries, p, rfl,
      hfind⟩
  obtain ⟨v, hexec, ports, crews, carries, p, rfl, hfind⟩ := hrecords
  exact ⟨_, p, hexec, rfl, rfl, _, hfind, rfl⟩

end

/-! PREAMBLE. -/

section
variable {s : State} {t : Time} {port : Fin 31} {hdr : EccWord} {body : List EccWord} {r : CrewRun}
variable (h : PacketComes s port.val hdr body 5 r) (hstarted : r.started = true)
variable (hmember : r.defn.members.contains (pkSrc hdr) = true) (hstep : pkStep hdr = r.step)
include h hstarted hmember hstep

/-- Such a preamble is checked. -/
theorem exec_preamble_checked {Q : State → Prop}
    (hQ : ∀ p, Q ((s.taken t p).checkPreamble (pkCrew hdr) { src := pkSrc hdr, step := r.step, body := body })) :
    ∃ v : State, exec (.preamble t port hdr body) s = .next v ∧ Q v := by
  refine State.next_of_comes h t fun p => ⟨_, ?_, hQ p⟩
  have hcrew : (s.taken t p).crew (pkCrew hdr) = some r := h.crew
  rw [hstep]
  exact State.preambleIn_current hcrew hstarted hmember

/-- A crew error stops the crew and the module. -/
theorem exec_preamble_errs {code : Nat}
    (herrs : ∀ p, (s.taken t p).checkPreamble (pkCrew hdr) { src := pkSrc hdr, step := r.step, body := body } =
      (s.taken t p).crewError (pkCrew hdr) code) :
    ∃ v : State, exec (.preamble t port hdr body) s = .next v ∧
      v = { s.advance t with ports := v.ports, regs := v.regs, crews := v.crews, halting := v.halting } ∧
      v.reg 0x7010 5 = BitVec.ofNat 64 code ∧ v.reg (0x7010 + pkCrew hdr) 6 = 4 ∧
      v.crew (pkCrew hdr) = some { r with started := false } ∧
      v.halting = s.halting ++ (if s.st = .running then [0x0A] else []) := by
  refine exec_preamble_checked h hstarted hmember hstep fun p => ?_
  have hcrew : (s.taken t p).crew (pkCrew hdr) = some r := h.crew
  rw [herrs p]
  obtain ⟨g, -, herror⟩ := State.crewError_eq hcrew code
  obtain ⟨hcode, hstate⟩ := State.crewError_regs hcrew code (pkCrew_lt hdr)
  refine ⟨?_, hcode, hstate, ?_, ?_⟩ <;> rw [herror]
  · rfl
  · exact tblFind_put_same _ _ _
  · rfl

variable (hlength : body.length = 2)
variable (hdigest : (bytesOfWords body).take 48 = (s.dom (0x7010 + pkCrew hdr) 5 ++ leBytes 48 0).take 48)
variable (hversion : leNat (((bytesOfWords body).drop 48).take 2) = s.fwMajor)
include hlength hdigest hversion

theorem exec_preamble_counts {Q : State → Prop}
    (hQ : ∀ p, Q ((s.taken t p).countPreamble (pkCrew hdr) (r.defn.members.idxOf (pkSrc hdr))
      ((bytesOfWords body).getD 50 0).toNat)) :
    ∃ v : State, exec (.preamble t port hdr body) s = .next v ∧ Q v := by
  refine exec_preamble_checked h hstarted hmember hstep fun p => ?_
  have hcrew : (s.taken t p).crew (pkCrew hdr) = some r := h.crew
  rw [State.checkPreamble_counts hcrew hstarted hlength hdigest hversion]
  exact hQ p

/-- A preamble that is not the last to come. -/
theorem exec_preamble_more
    (hmore : r.complete = true ∨ (tblPut r.counted (r.defn.members.idxOf (pkSrc hdr))
      ((bytesOfWords body).getD 50 0).toNat).length ≠ r.defn.size) :
    ∃ v : State, exec (.preamble t port hdr body) s = .next v ∧ v = { s.advance t with ports := v.ports, crews := v.crews } ∧
      v.crew (pkCrew hdr) = some
        { r with counted := tblPut r.counted (r.defn.members.idxOf (pkSrc hdr)) ((bytesOfWords body).getD 50 0).toNat } := by
  refine exec_preamble_counts h hstarted hmember hstep hlength hdigest hversion fun p => ?_
  have hcrew : (s.taken t p).crew (pkCrew hdr) = some r := h.crew
  rw [State.countPreamble_more hcrew hmore]
  exact ⟨rfl, State.crew_setCrew_same _ _ _⟩

/-- The last preamble of a step for which no notice waits. -/
theorem exec_preamble_last (hcomplete : r.complete = false) (hnodes : r.nodes = [])
    (hlast : (tblPut r.counted (r.defn.members.idxOf (pkSrc hdr)) ((bytesOfWords body).getD 50 0).toNat).length =
      r.defn.size) :
    ∃ v : State, exec (.preamble t port hdr body) s = .next v ∧
      (∀ m, v.mailbox m = s.mailbox m + BitVec.ofNat 64 ((s.crewMbs (pkCrew hdr) 1).count m)) ∧
      v.reg (0x7010 + pkCrew hdr) 6 = 3 ∧
      v.crew (pkCrew hdr) = some
        { r with
          counted := tblPut r.counted (r.defn.members.idxOf (pkSrc hdr)) ((bytesOfWords body).getD 50 0).toNat
          complete := true } := by
  refine exec_preamble_counts h hstarted hmember hstep hlength hdigest hversion fun p => ?_
  have hcrew : (s.taken t p).crew (pkCrew hdr) = some r := h.crew
  rw [State.countPreamble_last hcrew hcomplete hlast]
  generalize tblPut r.counted (r.defn.members.idxOf (pkSrc hdr)) ((bytesOfWords body).getD 50 0).toNat = counted
  have hkeeps := State.preambleDone_keeps (s.taken t p) (pkCrew hdr) (r := { r with counted := counted }) hnodes
  refine ⟨fun m => State.mailbox_preambleDone (s.taken t p) (pkCrew hdr) (r := { r with counted := counted }) hnodes m, ?_,
    State.crew_preambleDone (s.taken t p) (pkCrew hdr) (r := { r with counted := counted }) hnodes⟩
  exact (hkeeps.reg (pkCrew_lt hdr) (by decide)).trans (State.reg_setReg_same _ _ _ _)

end

/-- Settles O42: each of the six commands by what it makes of the crew or of the node, and the end of a seal by the numbers
and counters it writes before the next step's preamble goes out. -/
theorem crewEnds : Obligations.CrewEnds := by
  intro s t port hdr body r l q u i c n own pos filled bad
  refine ⟨exec_epilogue_member, fun h hstarted hstep hsealed hsealer => ⟨?_, ?_⟩, ?_, ?_, ?_, ?_⟩
  · exact exec_crewSeal_waits h hstarted hstep hsealed hsealer
  · exact fun sink o hready huncarried hcarries hsink hroute =>
      exec_crewSeal_records h hstarted hstep hsealed hsealer hready huncarried hcarries hsink hroute
  · intro k b hk hcrew hstarted hsealed hstage hheld hwritten v
    obtain ⟨⟨d, hd, hdstep, -⟩, hregs⟩ := State.sealSteps_effect (b := b) hcrew hheld hk
    rw [show v = s.sealSteps k r b from State.trySeal_recorded hcrew hstarted hsealed hstage hheld hk hwritten]
    exact ⟨by rw [hd, Option.map_some, hdstep], hregs⟩
  · intro h hstarted hmember hstep hlength bs digest counted error
    refine ⟨fun hdigest => ?_, fun hdigest hversion => ?_, fun hdigest hversion => ⟨?_, ?_⟩⟩
    · exact exec_preamble_errs h hstarted hmember hstep fun p =>
        State.checkPreamble_digest (s := s.taken t p) h.crew hstarted hlength hdigest
    · exact exec_preamble_errs h hstarted hmember hstep fun p =>
        State.checkPreamble_version (s := s.taken t p) h.crew hstarted hlength hdigest hversion
    · exact exec_preamble_more h hstarted hmember hstep hlength hdigest hversion
    · exact fun hcomplete hlast hnodes =>
        exec_preamble_last h hstarted hmember hstep hlength hdigest hversion hcomplete hnodes hlast
  · exact fun h hready hrestart => exec_credit_unready h rfl hready hrestart
  · intro crew layer hcrew hl k
    refine ⟨fun child t0 w hstarted hplace hchild hid hready hw => ?_, ?_⟩
    · have hdeadline := State.waitDeadline_eq (s := u) hcrew hl hplace hchild hready hw
      refine ⟨fun hlate hpos hcredit hnext => ?_, fun hearly => ?_⟩
      · have habsent := (hdeadline.trans (if_pos ⟨hstarted, hlate⟩)).trans
          (State.markAbsent_uncredited u _ hl hid hpos hcredit hnext)
        exact ⟨_, congrArg Host.Outcome.next habsent, rfl, nodeGets_of_crew (State.crew_setNode_same _ _ _ _ _)⟩
      · exact congrArg Host.Outcome.next (hdeadline.trans (if_neg fun hlate => absurd hlate.2 (Nat.not_lt.2 hearly)))
    · intro hstarted hpos hready hnext htrailers hepilogue hown hsealed hwritten
      exact ⟨_, rfl, State.layerComplete_effect (s := u) hcrew hl hstarted hpos hready hnext htrailers hepilogue hwritten hown
        hsealed⟩

end Sys2Proof.Proofs

/-! The field network below the dictionary (10 R377-R380): what each event answers, sends and counts. -/

namespace Sys2Proof.Machine

/-- Whether the dictionary answers does not turn on the time. -/
@[simp] theorem State.dictHears_advance (s : State) (t : Time) : (s.advance t).dictHears = s.dictHears := rfl

/-- A drop counts in FRAMES_DROPPED, and time alone leaves the counter as it is. -/
theorem State.frameDropped_advance (s : State) (t : Time) :
    (s.advance t).frameDropped = (s.advance t).setReg 0x1020 8 (holdAdd (s.reg 0x1020 8) 1) := by
  rw [State.frameDropped, State.bumpReg, State.reg_advance]

/-- What is sent goes to the end of the outbox, which time alone leaves as it is. -/
theorem State.send_advance (s : State) (t : Time) (m : Msg) :
    (s.advance t).send m = { s.advance t with outbox := s.outbox ++ [m] } := by
  rw [State.send, State.advance_outbox]

/-- An invalid frame is answered with a response that reports the abort and carries no data. -/
def State.answerInvalid (s : State) (c : Nat) (txn : BitVec 16) (idx sub code : Nat) : State :=
  (s.recordAbort (.field c txn) idx sub code).send (.response (.field c txn) (BitVec.ofNat 16 code) [] false)

section
variable {s : State} (hears : s.dictHears = true)
include hears

/-! ### Frames that fail the checks of R380 -/

/-- A malformed frame is counted before it is answered. -/
theorem State.frameInvalid_malformed (c : Nat) (txn : BitVec 16) (idx sub : Nat) :
    s.frameInvalid c txn .malformed idx sub = s.frameDropped.answerInvalid c txn idx sub 0x0101 := by
  simp only [State.frameInvalid, hears, Bool.not_true, Bool.false_eq_true, if_false, State.answerInvalid]

/-- A frame of another version is answered and not counted. -/
theorem State.frameInvalid_version (c : Nat) (txn : BitVec 16) (idx sub : Nat) :
    s.frameInvalid c txn .version idx sub = s.answerInvalid c txn idx sub 0x0102 := by
  simp only [State.frameInvalid, hears, Bool.not_true, Bool.false_eq_true, if_false, State.answerInvalid]

/-- A response is counted and not answered. -/
theorem State.frameInvalid_response (c : Nat) (txn : BitVec 16) (idx sub : Nat) :
    s.frameInvalid c txn .response idx sub = s.frameDropped := by
  simp only [State.frameInvalid, hears, Bool.not_true, Bool.false_eq_true, if_false]

/-! ### Datagrams and messages of the layers below (R378, R379) -/

/-- A datagram is dropped and counted, whatever the reason. -/
theorem exec_udpDatagramDrop (t : Time) (why : DropWhy) :
    exec (.udpDatagramDrop t why) s = .next (s.advance t).frameDropped :=
  congrArg Host.Outcome.next (if_pos hears)

/-- A message that an address calls for is sent where the address is the module's own, and nothing is sent elsewhere. -/
theorem State.send_if_own (t : Time) (addr : BitVec 128) (m : Msg) :
    (if (s.advance t).dictHears && decide (addr = ownAddress) then (s.advance t).send m else s.advance t) =
      if addr = ownAddress then { s.advance t with outbox := s.outbox ++ [m] } else s.advance t := by
  rw [State.dictHears_advance, hears, Bool.true_and, State.send_advance]
  by_cases hown : addr = ownAddress
  · rw [if_pos hown, if_pos (decide_eq_true hown)]
  · rw [if_neg hown, if_neg fun h => hown (of_decide_eq_true h)]

end

end Sys2Proof.Machine

namespace Sys2Proof.Proofs

open Sys2Proof.Machine

/-- Settles O49: an invalid frame by each of its three faults, a datagram that is dropped, and the two messages that the
module answers at its own address. -/
theorem fieldNetwork : Obligations.FieldNetwork := by
  intro s t hears u dropped
  have hu : u.dictHears = true := (State.dictHears_advance s t).trans hears
  have hdropped : u.frameDropped = dropped := State.frameDropped_advance s t
  refine ⟨fun client txn idx sub => ⟨?_, ?_, ?_⟩, fun why => ?_, fun target => ?_, fun dest data => ?_⟩
  · exact congrArg Host.Outcome.next (hdropped ▸ State.frameInvalid_malformed hu client txn idx.toNat sub.toNat)
  · exact congrArg Host.Outcome.next (State.frameInvalid_version hu client txn idx.toNat sub.toNat)
  · exact congrArg Host.Outcome.next ((State.frameInvalid_response hu client txn idx.toNat sub.toNat).trans hdropped)
  · exact (exec_udpDatagramDrop hears t why).trans (congrArg Host.Outcome.next hdropped)
  · exact congrArg Host.Outcome.next (State.send_if_own hears t target (.advertisement target))
  · exact congrArg Host.Outcome.next (State.send_if_own hears t dest (.echoReply dest data))

end Sys2Proof.Proofs
